-- ==== Sys2Proof/Word.lean ====
section
/-! DEFINITION. The words of the TA-32: bytes, 32-bit numbers, samples, counters and local time. -/

namespace Sys2Proof

/-- One byte of a frame, a record, the configuration block or the console line. -/
abbrev Byte := BitVec 8

/-- A string of bytes, first sent or stored first. -/
abbrev Bytes := List Byte

/-- House counts, incarnations, sequences, cue numbers and digests (spec/00 section 5.2). -/
abbrev Word := BitVec 32

/-- A timeline index: a 32-bit difference compared as a signed number (spec/00 section 5.2, R3). -/
abbrev Index := BitVec 32

/-- One sample word, 24 bits two's complement (spec/00 section 5.3). -/
abbrev Sample := BitVec 24

/-- A slot of a sample frame as sent: the 24 sample bits, then the parity bit (Table 2-1). -/
abbrev LineSlot := BitVec 25

/-- A counter: 32 bits, saturating (spec/00 section 5.5, R183). -/
abbrev Counter := BitVec 32

/-- Local time, or a length of it, in nanoseconds of the station's own timer (spec/00 section 5.1). -/
abbrev Time := Nat

end Sys2Proof
end

