-- ==== Sys2Proof/Syntax.lean ====
section
/-! DEFINITION. The commands of the TA-32: one constructor for each row of spec/opcode_table.json. -/

namespace Sys2Proof

/-- The two ring ports (spec/00 section 5.4). -/
inductive PortId where
  | a
  | b
  deriving DecidableEq, Repr

/-- The items of SHOW and WATCH (R174). -/
inductive ShowItem where
  | state
  | ref
  | ports
  | lanes
  | filter
  | roster
  | cues
  | peers
  | slots
  | feed
  | spool
  | take
  | capture
  | counts
  | attn
  | config
  deriving DecidableEq, Repr

/-- The value word of a CUE command (R116): one of the four values, or any other word. -/
inductive CueWord where
  | dark
  | primed
  | on
  | off
  | other
  deriving DecidableEq, Repr

/-- Bits received on a capture line, in the order received (chapter 2), in runs: the first goes on from the
bits before it, and each later one is what has arrived after a stop of the line's bit clock (R19, R20,
log 7). -/
structure LineBits where
  line : Nat
  runs : List (List Bool)
  deriving DecidableEq, Repr

/-- A command: an event of the block's inputs or timers, or a console command, taken whole. -/
inductive Instr where
  /-- POWER_ON_RESET (R6): the reset pin is released. -/
  | powerOnReset
  /-- CONSOLE_RESET (R175): the last character of the OK to RESET has been sent. -/
  | consoleReset
  /-- CHARACTER_COMPLETE (R169): the console character `c` has received its stop bit. -/
  | characterComplete (c : Byte)
  /-- CHARACTER_TAKEN (R170): the holding character is taken into the current line. -/
  | characterTaken
  /-- COMMAND_LINE_TAKEN (R170): the complete line is taken. -/
  | commandLineTaken
  /-- BREAK (R171): the console line returns high after a break. -/
  | breakTaken
  /-- WATCH_REPEAT_TIMER (R173): the 250 ms repeat timer expires. -/
  | watchRepeatTimer
  /-- BINARY_PHASE_START (R176): the OK to LOAD has been sent. -/
  | binaryPhaseStart
  /-- LOAD_IDLE_TIMEOUT (R176): the 2 s idle timer expires. -/
  | loadIdleTimeout
  /-- LOAD (R176). -/
  | load
  /-- SHOW_STATE (R17). -/
  | showState
  /-- SHOW_REF (R17). -/
  | showRef
  /-- SHOW_PORTS (R67). -/
  | showPorts
  /-- SHOW_LANES (R67). -/
  | showLanes
  /-- SHOW_FILTER (R88). -/
  | showFilter
  /-- SHOW_ROSTER (R110). -/
  | showRoster
  /-- SHOW_CUES (R126). -/
  | showCues
  /-- SHOW_PEERS (R126). -/
  | showPeers
  /-- SHOW_SLOTS (R147). -/
  | showSlots
  /-- SHOW_FEED (R147). -/
  | showFeed
  /-- SHOW_SPOOL (R167). -/
  | showSpool
  /-- SHOW_TAKE (R168). -/
  | showTake
  /-- SHOW_CAPTURE (R32). -/
  | showCapture
  /-- SHOW_COUNTS (R183). -/
  | showCounts
  /-- SHOW_ATTN (R182). -/
  | showAttn
  /-- SHOW_CONFIG (R179). -/
  | showConfig
  /-- WATCH (R173), with its item, or `none` for a word that names no item. -/
  | watch (item : Option ShowItem)
  /-- ARM (R8). -/
  | arm
  /-- GO (R10). -/
  | go
  /-- END (R14). -/
  | endPerformance
  /-- CUE (R116), with the item number and the value word as typed. -/
  | cue (item : Nat) (value : CueWord)
  /-- CUT (R144). -/
  | cut
  /-- UNCUT (R144). -/
  | uncut
  /-- CLEAR_ATTN (R182), with the mask as typed, in range or not. -/
  | clearAttn (mask : Nat)
  /-- CLEAR_CAPTURE (R24), with the mask as typed, in range or not. -/
  | clearCapture (mask : Nat)
  /-- CLEAR_COUNTS (R183). -/
  | clearCounts
  /-- RESET (R175). -/
  | reset
  /-- MARK_TAKEN (R1): a mark with its house count, `spacing` sample clocks after the previous mark. -/
  | markTaken (count : Word) (spacing : Nat)
  /-- REFERENCE_LOSS_TIMER (R2): 15 ms have passed without a mark. -/
  | referenceLossTimer
  /-- SAMPLE_FRAME_COMPLETE (R19, R21): the eighth slot of a frame has arrived on a capture line, with
  the bits received on the line since its last event, in runs as `LineBits` has them (log 7). -/
  | sampleFrameComplete (line : Nat) (runs : List (List Bool))
  /-- LOSS_OF_FRAMING (R20): the 16 bits received where the next sync word is expected are not the
  pattern. -/
  | lossOfFraming (arrived : LineBits)
  /-- SAMPLE_TAKE (R22): an edge of the house sample clock. -/
  | sampleTake
  /-- SEGMENT_CODED (R35): the coder finishes one segment of the batch. -/
  | segmentCoded
  /-- HELLO_TIMER (R45): a HELLO falls due on both ports. -/
  | helloTimer
  /-- CARRIER_APPEAR (R49). -/
  | carrierAppear (port : PortId)
  /-- CARRIER_LOSS (R53). -/
  | carrierLoss (port : PortId)
  /-- SILENCE_EXPIRY (R53): 4 ms without a valid HELLO. -/
  | silenceExpiry (port : PortId)
  /-- RX_FRAME_COMPLETE (R48): the bytes between two frame ends at a port's receiver. -/
  | rxFrameComplete (port : PortId) (frame : Bytes)
  /-- HOLD_TIMER_EXPIRY (R85). -/
  | holdTimerExpiry (port : PortId)
  /-- HOLD_REFRESH_TIMER (R81): the refresh timer of a congested port expires. -/
  | holdRefreshTimer (port : PortId)
  /-- TX_COMPLETE (R64): the last byte of the frame in transmission has been sent. -/
  | txComplete (port : PortId)
  /-- BEACON_TIMER (R118). -/
  | beaconTimer
  /-- PEER_LOSS_TIMER (R123): the loss timer of a peer expires. -/
  | peerLossTimer (station : Nat)
  /-- SLOT_DEADLINE (R133): the deadline of the slot of an index expires. -/
  | slotDeadline (index : Index)
  /-- FEED_RECORD_COMPLETE (R138). -/
  | feedRecordComplete
  /-- PROGRAM_READY_RISE (R138). -/
  | programReadyRise
  /-- PROGRAM_READY_FALL (R139). -/
  | programReadyFall
  /-- END_DRAIN_TIMER (R16). -/
  | endDrainTimer
  /-- RESEND_TIMER (R156). -/
  | resendTimer
  /-- ARCHIVE_RECORD_COMPLETE (R163). -/
  | archiveRecordComplete
  /-- ARCHIVE_READY_RISE (R163). -/
  | archiveReadyRise
  /-- ARCHIVE_READY_FALL (R164). -/
  | archiveReadyFall
  /-- REPORT_SENT (R173): a report of WATCH has been sent. -/
  | reportSent
  deriving DecidableEq, Repr

end Sys2Proof
end

