-- ==== Sys2Proof/WellFormed.lean ====
section
/-! DEFINITION. What the operands of a command must satisfy for it to be an event that can reach the
part. A command whose operands fail is no event of this hardware. -/

namespace Sys2Proof

/-- There are four capture lines, 0 to 3 (chapter 2). -/
def lineOk (line : Nat) : Bool := decide (line < 4)

/-- A sample frame is 216 bits, and others may have been passed over before it (Table 2-1, R19, R20). -/
def frameBitsOk (runs : List (List Bool)) : Bool := decide (216 ≤ runs.flatten.length)

/-- The bits where a sync word is expected are 16, behind any that a stop of the bit clock has cut off
(Table 2-1, R20). -/
def syncBitsOk (runs : List (List Bool)) : Bool := runs.getLast?.map List.length == some 16

/-- Station ids are 1 to 16 (spec/00 Table 5). -/
def stationOk (station : Nat) : Bool := decide (1 ≤ station) && decide (station ≤ 16)

/-- A frame that a receiver delimits holds at least its first byte, the kind (R185). -/
def frameOk (frame : Bytes) : Bool := !frame.isEmpty

/-- The operands of a command are ones the hardware can present. -/
def Instr.wf : Instr → Bool
  | .sampleFrameComplete line runs => lineOk line && frameBitsOk runs
  | .lossOfFraming arrived => lineOk arrived.line && syncBitsOk arrived.runs
  | .rxFrameComplete _ frame => frameOk frame
  | .peerLossTimer station => stationOk station
  | .powerOnReset | .consoleReset | .characterComplete _ | .characterTaken | .commandLineTaken
  | .breakTaken | .watchRepeatTimer | .binaryPhaseStart | .loadIdleTimeout | .load
  | .showState | .showRef | .showPorts | .showLanes | .showFilter | .showRoster | .showCues
  | .showPeers | .showSlots | .showFeed | .showSpool | .showTake | .showCapture | .showCounts
  | .showAttn | .showConfig | .watch _ | .arm | .go | .endPerformance | .cue _ _ | .cut | .uncut
  | .clearAttn _ | .clearCapture _ | .clearCounts | .reset | .markTaken _ _ | .referenceLossTimer
  | .sampleTake | .segmentCoded | .helloTimer | .carrierAppear _ | .carrierLoss _
  | .silenceExpiry _ | .holdTimerExpiry _ | .holdRefreshTimer _ | .txComplete _ | .beaconTimer
  | .slotDeadline _ | .feedRecordComplete | .programReadyRise | .programReadyFall
  | .endDrainTimer | .resendTimer | .archiveRecordComplete | .archiveReadyRise
  | .archiveReadyFall | .reportSent => true

end Sys2Proof
end

