-- ==== Sys2Proof/Machine/State.lean ====
section
/-! DEFINITION. The state of the TA-32: every piece of state the manual gives the part, by block, as
plain data, and the state after a power-on reset. The reset value of each field is the value of its
block's reset table (Tables 1-4, 2-8, 3-1, 4-10, 5-9, 7-7, 8-9, 9-4, 9-9, 10-8). -/

namespace Sys2Proof.Machine

/-- The reasons a step can stop with a fault: there are none. No rule of the manual stops the part,
so no meaning raises a fault (log 4). Safe: nothing is hidden by a stop. -/
inductive Fault where
  deriving DecidableEq, Repr

/-- The reasons a step can refuse. -/
inductive Refusal where
  /-- Raised by `exec`'s arm of a command that has no meaning yet, under its mnemonic. Safe: the model
  stops where the hardware goes on. No arm of this model raises it. -/
  | notModelled (mnemonic : String)
  deriving DecidableEq, Repr

/-! ### Timeline Unit (chapter 1) -/

/-- The station states (Table 1-3). -/
inductive StationState where
  | unconfigured
  | configured
  | armed
  | running
  | ending
  | done
  deriving DecidableEq, Repr

/-- The reference states (Table 1-2); `noRef` is NONE. -/
inductive RefState where
  | noRef
  | acquiring
  | locked
  | lost
  deriving DecidableEq, Repr

/-- An adopted epoch: its base and the station it was adopted from (chapter 1, section 1.4). -/
structure Epoch where
  base : Word
  source : Nat
  deriving DecidableEq, Repr

/-- The END drain timer (R14, R16). `expired` is kept because condition (b) of R16 asks whether it has
expired. -/
inductive DrainTimer where
  | stopped
  | runningUntil (t : Time)
  | expired
  deriving DecidableEq, Repr

/-- One pair of the conflict record (R13). -/
structure ConflictPair where
  station : Nat
  incarnation : Word
  deriving DecidableEq, Repr

/-- The timeline counters (R17). -/
structure TluCounts where
  refLoss : Counter := 0
  refJump : Counter := 0
  refVoid : Counter := 0
  epochConflict : Counter := 0
  startIgnored : Counter := 0
  endIgnored : Counter := 0
  endUndrained : Counter := 0
  deriving DecidableEq, Repr

/-- The Timeline Unit; the defaults are Table 1-4. -/
structure Tlu where
  station : StationState := .unconfigured
  ref : RefState := .noRef
  /-- The run of good marks (R1). The manual gives the run no width, and R183 makes it state and not a
  counter: the model counts it without bound (DESIGN CHOICE, log 45). -/
  run : Nat := 0
  /-- The house count of the previous mark (R1). -/
  lastMark : Option Word := none
  /-- When the reference loss timer expires, while it runs (R2). -/
  lossTimer : Option Time := none
  /-- The current house count, absent until the first boundary (R3). -/
  houseCount : Option Word := none
  incarnation : Option Word := none
  epoch : Option Epoch := none
  droppedBase : Option Word := none
  /-- The index of the last boundary presented with one under the held epoch (R3, R5); none before the
  first boundary after the adoption (R119). -/
  curIndex : Option Index := none
  /-- The index high-water mark H (R5). -/
  high : Option Index := none
  /-- The last index L (R14, R15). -/
  last : Option Index := none
  endTimer : DrainTimer := .stopped
  conflicts : List ConflictPair := []
  /-- Boundaries are currently void (R5). -/
  voidRun : Bool := false
  /-- REF was raised for a void boundary since the last relock (R5). -/
  voidNoted : Bool := false
  /-- The index of the last batch whose completion was reported (R16, R35). -/
  codedIndex : Option Index := none
  counts : TluCounts := {}
  deriving DecidableEq, Repr

/-! ### Capture Front (chapter 2) -/

/-- The states of a capture line (R18). -/
inductive LineState where
  | off
  | hunting
  | locked
  deriving DecidableEq, Repr

/-- The four sticky flags of a line (R23). -/
inductive CaptureFlag where
  | framing
  | parity
  | overrun
  | underrun
  deriving DecidableEq, Repr

/-- One capture line: state, waiting frames (oldest first), sticky flags and their counters. -/
structure CaptureLine where
  state : LineState := .off
  buffer : List (List LineSlot) := []
  /-- The bits received and not yet part of a complete frame, oldest first: in HUNTING those from the
  position of the search on, in LOCKED those of the frame under way (R19, R20). -/
  held : List Bool := []
  framing : Bool := false
  parity : Bool := false
  overrun : Bool := false
  underrun : Bool := false
  framingCount : Counter := 0
  parityCount : Counter := 0
  overrunCount : Counter := 0
  underrunCount : Counter := 0
  deriving DecidableEq, Repr

/-- The counters of a capture channel (Table 2-5). -/
structure ChannelCounts where
  damage : Counter := 0
  segDiscard : Counter := 0
  deriving DecidableEq, Repr

/-- The open accumulation of one patched channel (chapter 2, section 2.5). -/
structure Accumulation where
  channel : Nat
  samples : List Sample := []
  damage : Nat := 0
  deriving DecidableEq, Repr

/-- The period under way: all channels' accumulations open and close together, under one index or
under none (R27). -/
structure Period where
  index : Option Index
  accs : List Accumulation
  deriving DecidableEq, Repr

/-- The Capture Front; the defaults are Table 2-8. -/
structure Cfr where
  lines : List CaptureLine := List.replicate 4 {}
  channels : List ChannelCounts := List.replicate 32 {}
  period : Option Period := none
  deriving DecidableEq, Repr

/-! ### Configuration (chapter 10) -/

/-- The two sample rates (Table 10-5, RATE). -/
inductive SampleRate where
  | r48
  | r96
  deriving DecidableEq, Repr

/-- A patched entry of the patch table (R26). -/
structure PatchEntry where
  track : Nat
  group : Nat
  keep : Bool
  deriving DecidableEq, Repr

/-- An entry of the static list (Table 6-2). -/
inductive StaticEntry where
  | pin (track origin group : Nat)
  | bar (track : Nat)
  deriving DecidableEq, Repr

/-- The values of a cue item: DARK, PRIMED, ON for a group, OFF, ON for the freeze (R111). -/
inductive CueValue where
  | dark
  | primed
  | on
  | off
  deriving DecidableEq, Repr

/-- The cut modes (Table 8-1). -/
inductive CutMode where
  | quiet
  | stop
  | float
  deriving DecidableEq, Repr

/-- The loaded configuration: every field of Table 10-5. -/
structure Configuration where
  hall : Word
  rate : SampleRate
  budget : Nat
  ceiling : Nat
  age : Nat
  station : Nat
  attn : BitVec 11
  lead : Nat
  drainEnd : Nat
  patch : List (Option PatchEntry)
  highMark : Nat
  lowMark : Nat
  holdTime : Nat
  guard : Bool
  limits : List Nat
  statics : List StaticEntry
  cueInit : List CueValue
  airRole : Bool
  latency : Nat
  conceal : Nat
  cutMode : CutMode
  cutRef : Bool
  cutEpoch : Bool
  cutDup : Bool
  cutOp : Bool
  keepRole : Bool
  resend : Nat
  deriving DecidableEq, Repr

/-! ### Segment Coder (chapter 3) -/

/-- A formed segment (R28). -/
structure Segment where
  channel : Nat
  track : Nat
  group : Nat
  keep : Bool
  index : Index
  samples : List Sample
  damage : Nat
  deriving DecidableEq, Repr

/-- The batch in flight: the segments not yet coded, with the grade and the group states sampled at
its boundary (R34). -/
structure Batch where
  index : Index
  grade : Nat
  groups : List CueValue
  segments : List Segment
  deriving DecidableEq, Repr

/-- The coder counters (Table 3-8). -/
structure SgcCounts where
  airMade : Counter := 0
  keepMade : Counter := 0
  keepRaw : Counter := 0
  batchDiscard : Counter := 0
  gradeDown : Counter := 0
  gradeUp : Counter := 0
  deriving DecidableEq, Repr

/-- The Segment Coder; the defaults are Table 3-1. `lastN` and `lastAllowance` are the N and A of the
last grade boundary (R44). -/
structure Sgc where
  grade : Nat := 0
  stepUp : Nat := 0
  lastTarget : Option Nat := none
  lastN : Option Nat := none
  lastAllowance : Option Nat := none
  batch : Option Batch := none
  counts : SgcCounts := {}
  deriving DecidableEq, Repr

/-! ### Link Unit (chapters 4 and 5) -/

/-- The link states (Table 4-2). -/
inductive LinkState where
  | down
  | listen
  | barred
  | up
  deriving DecidableEq, Repr

/-- The barring cause (R50); neither flag set is no cause. -/
structure BarCause where
  digest : Bool := false
  dupid : Bool := false
  deriving DecidableEq, Repr

/-- The neighbour record: the fields of the last valid HELLO and the local time it was taken (R50). -/
structure Neighbour where
  station : Nat
  letter : PortId
  state : StationState
  digest : Word
  enable1 : Bool
  enable2 : Bool
  seen1 : Bool
  seen2 : Bool
  takenAt : Time
  deriving DecidableEq, Repr

/-- The states of lanes 1 and 2 (Table 4-6). -/
inductive LaneState where
  | closed
  | pending
  | opened
  deriving DecidableEq, Repr

/-- A frame of a link-local queue. A HELLO's fields are filled when it starts (R46), so nothing of it
is stored; a HOLD carries its sender and its time in µs (R79). -/
inductive LinkFrame where
  | hello
  | hold (sender : Nat) (time : Nat)
  deriving DecidableEq, Repr

/-- The frame in a transmitter, with its bytes on the link (R63). -/
inductive TxFrame where
  | hello (bytes : Bytes)
  | hold (time : Nat) (bytes : Bytes)
  | ring (lane : Nat) (bytes : Bytes)
  deriving DecidableEq, Repr

/-- The link counters of one port (Tables 4-11 and 5-11). -/
structure PortCounts where
  rxLong : Counter := 0
  rxCrc : Counter := 0
  rxBadHello : Counter := 0
  rxNotUp : Counter := 0
  rxBadLane : Counter := 0
  rxLaneClosed : Counter := 0
  barredDigest : Counter := 0
  barredDupid : Counter := 0
  neighbourChange : Counter := 0
  carrierLoss : Counter := 0
  silence : Counter := 0
  linkLost : Counter := 0
  laneResync : Counter := 0
  flushL0 : Counter := 0
  flushL1 : Counter := 0
  flushL2 : Counter := 0
  flushLL : Counter := 0
  qfullL0 : Counter := 0
  qfullL1 : Counter := 0
  qfullL2 : Counter := 0
  llDrop : Counter := 0
  txAbort : Counter := 0
  airStale : Counter := 0
  rxBadHold : Counter := 0
  congested : Counter := 0
  holdSent : Counter := 0
  releaseSent : Counter := 0
  holdTaken : Counter := 0
  releaseTaken : Counter := 0
  holdExpired : Counter := 0
  deriving DecidableEq, Repr

/-- One ring port; the defaults are Table 4-10. Lane 2 is held exactly while its hold timer runs, and
the port is congested exactly while its refresh timer runs (R80 to R85). -/
structure Port where
  link : LinkState := .down
  cause : BarCause := {}
  /-- Carrier is present at the receiver (an input level). -/
  carrier : Bool := false
  neighbour : Option Neighbour := none
  silence : Option Time := none
  seen1 : Bool := false
  seen2 : Bool := false
  lane1 : LaneState := .closed
  lane2 : LaneState := .closed
  linkQueue : List LinkFrame := []
  queue0 : List Bytes := []
  queue1 : List Bytes := []
  queue2 : List Bytes := []
  tx : Option TxFrame := none
  heldUntil : Option Time := none
  refreshAt : Option Time := none
  counts : PortCounts := {}
  deriving DecidableEq, Repr

/-- The Link Unit: both ports and what they share. -/
structure Lku where
  portA : Port := {}
  portB : Port := {}
  /-- The own lane enable mask, for lanes 1 and 2 together (R56). -/
  enabled : Bool := false
  digest : Option Word := none
  /-- When the next scheduled HELLO falls due (R45). -/
  helloAt : Option Time := none
  deriving DecidableEq, Repr

/-! ### Delivery Unit (chapter 5) -/

/-- A filter entry; bit i of the seen map stands for sequence `top` − i (R70). -/
structure FilterEntry where
  incarnation : Word
  top : Word
  seen : BitVec 64
  deriving DecidableEq, Repr

/-- The muting cause (R74). -/
structure MuteCause where
  port : PortId
  incarnation : Word
  sequence : Word
  deriving DecidableEq, Repr

/-- The delivery counters (Table 5-10). -/
structure DluCounts where
  rxLength : Counter := 0
  rxKind : Counter := 0
  rxOrigin : Counter := 0
  filterNewInc : Counter := 0
  filterDup : Counter := 0
  filterStale : Counter := 0
  ownReturn : Counter := 0
  ownStale : Counter := 0
  dupidFrame : Counter := 0
  relayed : Counter := 0
  relayFull : Counter := 0
  relayNone : Counter := 0
  deliveredStart : Counter := 0
  deliveredEnd : Counter := 0
  deliveredCue : Counter := 0
  deliveredBeacon : Counter := 0
  deliveredAir : Counter := 0
  deliveredKeep : Counter := 0
  originated : Counter := 0
  origUnsent : Counter := 0
  muteDeclined : Counter := 0
  deriving DecidableEq, Repr

/-- The Delivery Unit; the defaults are Table 5-9. MUTED is set exactly while a muting cause is held. -/
structure Dlu where
  filter : List (Option FilterEntry) := List.replicate 16 none
  nextSeq : Word := 0
  muted : Option MuteCause := none
  counts : DluCounts := {}
  deriving DecidableEq, Repr

/-! ### Roster (chapter 6) -/

/-- What a roster entry holds beside its track, by kind (Table 6-1): LOCAL, LEARNED, PIN, BAR. The
origin of a LOCAL entry is the own station id. -/
inductive Claim where
  | localTrack (group : Nat)
  | learned (origin group : Nat) (refresh : Index)
  | pin (origin group : Nat)
  | bar
  deriving DecidableEq, Repr

/-- A roster entry (R89). -/
structure RosterEntry where
  track : Nat
  claim : Claim
  deriving DecidableEq, Repr

/-- The roster counters (Table 6-6). -/
structure RstCounts where
  airDark : Counter := 0
  airAccepted : Counter := 0
  claimFrozen : Counter := 0
  claimLimit : Counter := 0
  claimFull : Counter := 0
  claimDouble : Counter := 0
  claimBarred : Counter := 0
  rosterLearned : Counter := 0
  rosterMoved : Counter := 0
  rosterAged : Counter := 0
  rosterFlushed : Counter := 0
  deriving DecidableEq, Repr

/-- The Roster: entries in ascending track (R89), empty after reset (R91). -/
structure Rst where
  entries : List RosterEntry := []
  counts : RstCounts := {}
  deriving DecidableEq, Repr

/-! ### Peer and Cue Unit (chapter 7) -/

/-- An item of the cue table: its value and the pair that set it (R111). -/
structure CueItem where
  value : CueValue
  number : Word
  origin : Nat
  deriving DecidableEq, Repr

/-- One entry of a kept list (Table 7-4). -/
structure KeptEntry where
  origin : Nat
  incarnation : Word
  kept : Word
  deriving DecidableEq, Repr

/-- A peer entry (Table 7-5). Its loss timer expires 200 ms after `lastBeacon` (R123). -/
structure Peer where
  incarnation : Word
  state : StationState
  airRole : Bool
  keepRole : Bool
  base : Option Word
  index : Option Index
  grade : Nat
  cut : Bool
  refFlag : Bool
  mutedPeer : Bool
  keptList : List KeptEntry
  lastBeacon : Time
  deriving DecidableEq, Repr

/-- The cue and peer counters (Table 7-8). -/
structure PcuCounts where
  cueApplied : Counter := 0
  cueStale : Counter := 0
  cueBad : Counter := 0
  mergeApplied : Counter := 0
  beaconTaken : Counter := 0
  beaconBad : Counter := 0
  peerNew : Counter := 0
  peerRenewed : Counter := 0
  peerLost : Counter := 0
  deriving DecidableEq, Repr

/-- The Peer and Cue Unit; the defaults are Table 7-7. -/
structure Pcu where
  /-- The cue table, absent until the first successful LOAD (R111). -/
  cues : Option (List CueItem) := none
  clock : Word := 0
  beaconAt : Option Time := none
  peers : List (Option Peer) := List.replicate 16 none
  counts : PcuCounts := {}
  deriving DecidableEq, Repr

/-! ### Air Outlet (chapter 8) -/

/-- An AIR segment that arrived: its grade, damage flag and payload (Table 8-2). -/
structure AirPayload where
  grade : Nat
  damage : Bool
  payload : Bytes
  deriving DecidableEq, Repr

/-- A place of a slot: an expected track with its origin, and what arrived for it (Table 8-2). -/
structure Expected where
  track : Nat
  origin : Nat
  arrived : Option AirPayload := none
  deriving DecidableEq, Repr

/-- The close causes (Table 8-2). -/
inductive CloseCause where
  | complete
  | deadline
  deriving DecidableEq, Repr

/-- The state of a slot: OPEN with its deadline, or CLOSED with its cause (Table 8-2). -/
inductive SlotState where
  | opened (deadline : Time)
  | closed (cause : CloseCause)
  deriving DecidableEq, Repr

/-- A slot of the window (Table 8-2). -/
structure Slot where
  index : Index
  state : SlotState
  expected : List Expected
  deriving DecidableEq, Repr

/-- A place of the conceal store (R135). -/
structure ConcealPlace where
  last : Option AirPayload := none
  missRun : Nat := 0
  deriving DecidableEq, Repr

/-- The cut cause: the trigger kind with its cause as presented (R141, Table 8-7). What each kind presents is
the model's choice, but for the operator's, which has none (DESIGN CHOICE, log 61). -/
inductive CutCause where
  | refLoss
  | refJump
  | epoch (base : Word) (station : Nat)
  | dupid (port : PortId) (incarnation sequence : Word)
  | operator
  deriving DecidableEq, Repr

/-- The kinds of a slot record entry (Table 8-4). -/
inductive EntryKind where
  | arrived
  | repeated
  | silent
  deriving DecidableEq, Repr

/-- An entry of a slot record (Table 11-12); a SILENT entry has grade 0 and no payload. -/
structure SlotEntry where
  track : Nat
  origin : Nat
  kind : EntryKind
  grade : Nat
  damage : Bool
  payload : Bytes
  deriving DecidableEq, Repr

/-- A slot record (Table 8-5). -/
structure SlotRecord where
  station : Nat
  incarnation : Word
  index : Index
  cut : Bool
  cause : CloseCause
  expected : Nat
  arrived : Nat
  entries : List SlotEntry
  deriving DecidableEq, Repr

/-- An occupied line buffer: its number, its record, and whether it is SENDING or WAITING. A buffer
that is in no such entry is FREE (R138, R163). -/
structure LineBuffer (α : Type) where
  number : Nat
  record : α
  sending : Bool
  deriving DecidableEq, Repr

/-- The Air Outlet counters (Table 8-10). -/
structure AouCounts where
  slotOpened : Counter := 0
  slotRefused : Counter := 0
  feedOverrun : Counter := 0
  slotComplete : Counter := 0
  slotDeadline : Counter := 0
  slotEmitted : Counter := 0
  slotCut : Counter := 0
  arrStored : Counter := 0
  arrAhead : Counter := 0
  arrLate : Counter := 0
  arrUnexpected : Counter := 0
  arrStray : Counter := 0
  arrDuplicate : Counter := 0
  entryArrived : Counter := 0
  entryRepeat : Counter := 0
  entrySilent : Counter := 0
  recSent : Counter := 0
  recTruncated : Counter := 0
  recDiscarded : Counter := 0
  cutTrigger : Counter := 0
  cutEntered : Counter := 0
  deriving DecidableEq, Repr

/-- The Air Outlet; the defaults are Table 8-9. -/
structure Aou where
  window : List Slot := []
  openMark : Option Index := none
  conceal : List ConcealPlace := List.replicate 512 {}
  /-- The cut state: CUT exactly while a cut cause is held (R141). -/
  cut : Option CutCause := none
  /-- The occupied program feed buffers, in the order their records were placed (R138). -/
  feed : List (LineBuffer SlotRecord) := []
  driven : Bool := false
  /-- The station has entered RUNNING since the last reset (R140). -/
  hasRun : Bool := false
  /-- The level of READY on the program feed line (an input). -/
  ready : Bool := false
  finished : Bool := false
  counts : AouCounts := {}
  deriving DecidableEq, Repr

/-! ### Keep Spool and Keep Outlet (chapter 9) -/

/-- The fields a KEEP record, a spool entry, a KEEP frame and a DATA record have in common
(Tables 9-2, 9-7, 11-9); a `lossBefore` of 0 is an absent loss-before. -/
structure KeepBody where
  sequence : Word
  track : Nat
  group : Nat
  index : Index
  damage : Nat
  lossBefore : Word
  payload : Bytes
  deriving DecidableEq, Repr

/-- The spool counters (Table 9-10). -/
structure KspCounts where
  spoolAppended : Counter := 0
  spoolLost : Counter := 0
  keepDrained : Counter := 0
  spoolFreed : Counter := 0
  rewind : Counter := 0
  rewindEntries : Counter := 0
  spoolDiscarded : Counter := 0
  deriving DecidableEq, Repr

/-- The Keep Spool: the retained entries from free up to write − 1, oldest first (R149, R150); the
defaults are Table 9-4. -/
structure Ksp where
  entries : List KeepBody := []
  free : Word := 0
  drain : Word := 0
  write : Word := 0
  lostRun : Word := 0
  resendAt : Option Time := none
  /-- When the last go-back was made, until a kept-position update has met it (Table 9-3, log 44). -/
  wentBack : Option Time := none
  counts : KspCounts := {}
  deriving DecidableEq, Repr

/-- A take table entry (Table 9-5). -/
structure TakeEntry where
  incarnation : Word
  nextTake : Word
  lastSent : Word
  deriving DecidableEq, Repr

/-- An archive record (Table 9-7). -/
inductive ArchiveRecord where
  | join (origin : Nat) (incarnation first : Word)
  | data (origin : Nat) (incarnation : Word) (body : KeepBody)
  deriving DecidableEq, Repr

/-- The Keep Outlet counters (Table 9-11). -/
structure KouCounts where
  takeJoin : Counter := 0
  takeGap : Counter := 0
  takeData : Counter := 0
  takeStale : Counter := 0
  takeDup : Counter := 0
  takeAhead : Counter := 0
  takeQueueFull : Counter := 0
  archSent : Counter := 0
  deriving DecidableEq, Repr

/-- The Keep Outlet; the defaults are Table 9-9. -/
structure Kou where
  take : List (Option TakeEntry) := List.replicate 16 none
  queue : List ArchiveRecord := []
  /-- The occupied archive line buffers, in the order they were filled (R163). -/
  lines : List (LineBuffer ArchiveRecord) := []
  /-- The level of READY on the archive feed line (an input). -/
  ready : Bool := false
  counts : KouCounts := {}
  deriving DecidableEq, Repr

/-! ### Console Unit (chapter 10) -/

/-- The attention classes in priority order (Table 10-6). -/
inductive AttnClass where
  | dupid
  | ref
  | epoch
  | cut
  | spool
  | feed
  | claim
  | link
  | capture
  | peer
  | reset
  deriving DecidableEq, Repr

/-- The roster's violations (R99). -/
inductive Violation where
  | frozen
  | limit
  | full
  | doubleClaim
  | barred
  deriving DecidableEq, Repr

/-- A cause of an attention: what the raising rule names (R180, log 29). The rules of REF and EPOCH, and that of
a DUPID raised at the link, name nothing: their content is the model's (DESIGN CHOICE, log 60, log 61). -/
inductive Cause where
  | powerOn
  | console
  | refLoss
  | refJump
  | refVoid
  | epochConflict (base : Word) (station : Nat)
  | cutEntered (cause : CutCause)
  | spoolFull (write : Word)
  | slotDropped (index : Index)
  | slotRefused (index : Index)
  | claim (violation : Violation) (track station : Nat)
  | link (port : PortId) (state : LinkState)
  | capture (line : Nat) (flag : CaptureFlag)
  | peerNew (station : Nat)
  | peerRenewed (station : Nat) (old new : Word)
  | peerLost (station : Nat)
  | barredDupid (port : PortId)
  | dupidFrame (port : PortId) (incarnation sequence : Word)
  deriving DecidableEq, Repr

/-- The refusal codes (Table 10-2). -/
inductive RefusalCode where
  | state
  | ref
  | mute
  | arg
  | locked
  | sum
  | time
  | ovr
  | brk
  | cmd
  | long
  deriving DecidableEq, Repr

/-- The names of the configuration fields (Table 10-5), and PAD. -/
inductive FieldName where
  | hall | rate | budget | ceiling | age | station | attn | lead | drainEnd | patch | high | low
  | holdT | guard | limit | static | cueInit | airRole | latency | conceal | cutMode | cutRef
  | cutEpoch | cutDup | cutOp | keepRole | resend | pad
  deriving DecidableEq, Repr

/-! The reports of SHOW and WATCH (the last section of each chapter): the values a report gives, as
data. Their text is not in the manual (log 6). -/

/-- SHOW STATE (R17). -/
structure StateReport where
  station : StationState
  epoch : Option Epoch
  droppedBase : Option Word
  incarnation : Option Word
  houseCount : Option Word
  index : Option Index
  high : Option Index
  last : Option Index
  /-- The remaining END drain time, in ENDING. -/
  drainLeft : Option Time
  muted : Bool
  deriving DecidableEq, Repr

/-- SHOW REF (R17). -/
structure RefReport where
  ref : RefState
  run : Nat
  houseCount : Option Word
  refLoss : Counter
  refJump : Counter
  refVoid : Counter
  voidRun : Bool
  deriving DecidableEq, Repr

/-- One port of SHOW PORTS (R67). -/
structure PortReport where
  link : LinkState
  cause : Option BarCause
  carrier : Bool
  neighbour : Option Neighbour
  /-- The time since the last valid HELLO. -/
  sinceHello : Option Time
  seen1 : Bool
  seen2 : Bool
  deriving DecidableEq, Repr

/-- Which queue's frame a transmitter is sending (R67). -/
inductive TxQueue where
  | linkLocal
  | lane (n : Nat)
  deriving DecidableEq, Repr

/-- One port of SHOW LANES (R67, R88). -/
structure LaneReport where
  lane1 : LaneState
  lane2 : LaneState
  fillLink : Nat
  fill0 : Nat
  fill1 : Nat
  fill2 : Nat
  tx : Option TxQueue
  /-- The hold time remaining, while lane 2 is held. -/
  heldLeft : Option Time
  /-- The time remaining on the refresh timer, while the port is congested. -/
  refreshLeft : Option Time
  deriving DecidableEq, Repr

/-- One entry of SHOW FILTER (R88). -/
structure FilterLine where
  station : Nat
  incarnation : Word
  top : Word
  seenCount : Nat
  deriving DecidableEq, Repr

/-- SHOW FILTER (R88). -/
structure FilterReport where
  ownId : Option Nat
  incarnation : Option Word
  nextSeq : Word
  muted : Option MuteCause
  entries : List FilterLine
  deriving DecidableEq, Repr

/-- One entry of SHOW ROSTER (R110). -/
structure RosterLine where
  entry : RosterEntry
  /-- The origin shown: the own id for LOCAL, none for BAR. -/
  origin : Option Nat
  /-- The state of the entry's group, none for BAR. -/
  groupState : Option CueValue
  deriving DecidableEq, Repr

/-- SHOW ROSTER (R110). -/
structure RosterReport where
  total : Nat
  locals : Nat
  learned : Nat
  pins : Nat
  bars : Nat
  full : Bool
  freeze : Option CueValue
  guard : Option Bool
  age : Option Nat
  /-- Station id, claim limit and LEARNED count. -/
  limits : List (Nat × Nat × Nat)
  entries : List RosterLine
  airCount : Nat
  expectedSize : Nat
  counts : RstCounts
  deriving DecidableEq, Repr

/-- SHOW CUES (R126). -/
structure CuesReport where
  clock : Word
  items : Option (List CueItem)
  cueApplied : Counter
  cueStale : Counter
  cueBad : Counter
  mergeApplied : Counter
  deriving DecidableEq, Repr

/-- One peer of SHOW PEERS (R126). -/
structure PeerLine where
  station : Nat
  peer : Peer
  since : Time
  lossLeft : Time
  deriving DecidableEq, Repr

/-- SHOW PEERS (R126). -/
structure PeersReport where
  peers : List PeerLine
  beaconLeft : Option Time
  beaconTaken : Counter
  beaconBad : Counter
  peerNew : Counter
  peerRenewed : Counter
  peerLost : Counter
  deriving DecidableEq, Repr

/-- One slot of SHOW SLOTS (R147). -/
structure SlotLine where
  index : Index
  state : SlotState
  /-- The time left to the deadline, while OPEN. -/
  left : Option Time
  expected : Nat
  arrived : Nat
  deriving DecidableEq, Repr

/-- SHOW SLOTS (R147). -/
structure SlotsReport where
  airRole : Bool
  latency : Option Nat
  concealLimit : Option Nat
  openMark : Option Index
  slots : List SlotLine
  /-- Track, origin and arrival of each expected track of the oldest slot. -/
  oldest : List (Nat × Nat × Bool)
  deriving DecidableEq, Repr

/-- The state of a line buffer as reported (R138, R163). -/
inductive BufferState where
  | free
  | waiting
  | sending
  deriving DecidableEq, Repr

/-- One conceal place of SHOW FEED (R147). -/
structure ConcealLine where
  track : Nat
  held : Bool
  grade : Option Nat
  missRun : Nat
  deriving DecidableEq, Repr

/-- SHOW FEED (R147). -/
structure FeedReport where
  cut : Bool
  cutMode : Option CutMode
  cutRef : Bool
  cutEpoch : Bool
  cutDup : Bool
  cutOp : Bool
  cutCause : Option CutCause
  persisting : Bool
  buffers : List (BufferState × Option Index)
  driven : Bool
  ready : Bool
  conceal : List ConcealLine
  counts : AouCounts
  deriving DecidableEq, Repr

/-- The condition of R152 that stops the drain. -/
inductive DrainBlock where
  | stationState
  | muted
  | nothingUndrained
  | laneNotOpen (port : PortId)
  | laneHeld (port : PortId)
  | portCongested (port : PortId)
  | laneFull (port : PortId)
  | noOutlet
  | archiveFull
  deriving DecidableEq, Repr

/-- SHOW SPOOL (R167). -/
structure SpoolReport where
  incarnation : Option Word
  free : Word
  drain : Word
  write : Word
  drained : Nat
  undrained : Nat
  full : Bool
  lostRun : Word
  resendLeft : Option Time
  blockedBy : Option DrainBlock
  /-- Station id and kept sequence of each outlet counted for freeing. -/
  outlets : List (Nat × Word)
  oldestOutlets : List Nat
  counts : KspCounts
  deriving DecidableEq, Repr

/-- SHOW TAKE (R168). -/
structure TakeReport where
  keepRole : Bool
  places : List (Nat × TakeEntry)
  queueFill : Nat
  buffers : List (BufferState × Option ArchiveRecord)
  driven : Bool
  ready : Bool
  counts : KouCounts
  deriving DecidableEq, Repr

/-- One line of SHOW CAPTURE (R32). -/
structure CaptureLineReport where
  state : LineState
  waiting : Nat
  framing : Bool
  parity : Bool
  overrun : Bool
  underrun : Bool
  framingCount : Counter
  parityCount : Counter
  overrunCount : Counter
  underrunCount : Counter
  deriving DecidableEq, Repr

/-- One patched channel of SHOW CAPTURE (R32). -/
structure ChannelReport where
  channel : Nat
  patch : PatchEntry
  counts : ChannelCounts
  deriving DecidableEq, Repr

/-- SHOW CAPTURE (R32). -/
structure CaptureReport where
  lines : List CaptureLineReport
  mask : Nat
  channels : List ChannelReport
  deriving DecidableEq, Repr

/-- The counters of the Console Unit (Table 10-7) but for ATTN_RAISED. -/
structure CsuCounts where
  conOverrun : Counter := 0
  conBreak : Counter := 0
  cmdTaken : Counter := 0
  cmdRefused : Counter := 0
  loadDone : Counter := 0
  loadFailed : Counter := 0
  deriving DecidableEq, Repr

/-- SHOW COUNTS (R183), with the coder section's values of R44. -/
structure CountsReport where
  tlu : TluCounts
  capture : List CaptureLineReport
  channels : List ChannelCounts
  sgc : SgcCounts
  grade : Nat
  stepUp : Nat
  lastTarget : Option Nat
  lastN : Option Nat
  lastAllowance : Option Nat
  portA : PortCounts
  portB : PortCounts
  dlu : DluCounts
  rst : RstCounts
  pcu : PcuCounts
  aou : AouCounts
  ksp : KspCounts
  kou : KouCounts
  csu : CsuCounts
  attnRaised : List Counter
  deriving DecidableEq, Repr

/-- SHOW ATTN (R182). -/
structure AttnReport where
  highest : Option (AttnClass × Cause)
  pendingMask : BitVec 11
  enableMask : BitVec 11
  pinAsserted : Bool
  pending : List (AttnClass × Cause)
  raised : List Counter
  deriving DecidableEq, Repr

/-- Whether the configuration is absent, loaded or locked (R179). -/
inductive ConfigStatus where
  | absent
  | loaded
  | locked
  deriving DecidableEq, Repr

/-- SHOW CONFIG (R179). -/
structure ConfigReport where
  status : ConfigStatus
  fields : Option Configuration
  digest : Option Word
  deriving DecidableEq, Repr

/-- A report, by item. -/
inductive Report where
  | state (r : StateReport)
  | ref (r : RefReport)
  | ports (a b : PortReport) (digest : Option Word) (enabled : Bool)
  | lanes (a b : LaneReport)
  | filter (r : FilterReport)
  | roster (r : RosterReport)
  | cues (r : CuesReport)
  | peers (r : PeersReport)
  | slots (r : SlotsReport)
  | feed (r : FeedReport)
  | spool (r : SpoolReport)
  | take (r : TakeReport)
  | capture (r : CaptureReport)
  | counts (r : CountsReport)
  | attn (r : AttnReport)
  | config (r : ConfigReport)
  deriving DecidableEq, Repr

/-- A reply (R172): OK, a refusal code, `?ARG` with a field's name, or a report, with its closing OK
(SHOW) or without (WATCH). -/
inductive Reply where
  | ok
  | refused (code : RefusalCode)
  | badField (name : FieldName)
  | report (r : Report) (closed : Bool)
  deriving DecidableEq, Repr

/-- An item of the transmit buffer: an echoed character, or a reply with its characters not yet sent. -/
inductive TxItem where
  | echo (c : Byte)
  | reply (r : Reply) (left : Nat)
  deriving DecidableEq, Repr

/-- A command line being built, with its marks (R169, R170). -/
structure CommandLine where
  chars : Bytes := []
  overrun : Bool := false
  tooLong : Bool := false
  deriving DecidableEq, Repr

/-- The LOAD state (R176). -/
inductive LoadState where
  | idle
  | announced
  | binary (bytes : Bytes) (idleAt : Time)
  deriving DecidableEq, Repr

/-- A WATCH that runs (R173): its item, when its repeat timer expires, and whether an expiry fell while
a report was being sent. -/
structure Watch where
  item : ShowItem
  repeatAt : Option Time
  due : Bool
  deriving DecidableEq, Repr

/-- The Console Unit; the defaults are Table 10-8, before attention RESET is raised. -/
structure Csu where
  holding : Option Byte := none
  line : CommandLine := {}
  /-- The complete line that waits to be taken. -/
  waiting : Option CommandLine := none
  tx : List TxItem := []
  load : LoadState := .idle
  watch : Option Watch := none
  /-- RESET has been answered; the console reset follows its OK (R175). -/
  resetPending : Bool := false
  /-- No command line has been taken since the last reset: the Console Unit sends nothing (R175). -/
  silent : Bool := true
  config : Option Configuration := none
  locked : Bool := false
  /-- The first cause of each pending class, in priority order (R180). -/
  pendingAttn : List (Option Cause) := List.replicate 11 none
  enableMask : BitVec 11 := BitVec.allOnes 11
  /-- ATTN_RAISED of each class, in priority order. -/
  attnRaised : List Counter := List.replicate 11 0
  counts : CsuCounts := {}
  deriving DecidableEq, Repr

/-! ### The station -/

/-- The state of the station, and the queue of commands that wait. -/
structure State where
  pending : List Instr := []
  /-- The local timer (spec/00 section 5.1). -/
  now : Time := 0
  tlu : Tlu := {}
  cfr : Cfr := {}
  sgc : Sgc := {}
  lku : Lku := {}
  dlu : Dlu := {}
  rst : Rst := {}
  pcu : Pcu := {}
  aou : Aou := {}
  ksp : Ksp := {}
  kou : Kou := {}
  csu : Csu := {}
  deriving DecidableEq, Repr

/-- The station right after a power-on reset: every block at its reset table, and attention RESET
raised with cause power-on (R184). -/
def State.reset : State where
  csu := {
    pendingAttn := List.replicate 10 none ++ [some .powerOn]
    attnRaised := List.replicate 10 0 ++ [1] }

end Sys2Proof.Machine
end

