-- ==== Sys2Proof/Machine/Ops.lean ====
section
/-! DEFINITION. The named operations every block uses: wrapping comparison, saturating counters, table
places, local time, the block updates, and the raising of attention. -/

namespace Sys2Proof.Machine

/-- What a meaning answers: the next state, a fault or a refusal. -/
abbrev Answer := Host.Outcome State Fault Refusal

/-! ### Wrapping numbers and counters (spec/00 sections 5.2 and 5.5) -/

/-- `a` is newer than `b`: the difference modulo 2^32 lies between 1 and 2^31 − 1. -/
def newer (a b : Word) : Bool :=
  decide (1 ≤ (a - b).toNat) && decide ((a - b).toNat < 2 ^ 31)

/-- The older of two values (R155). Of two exactly 2^31 apart neither is older (spec/00 section 5.2): the model
takes the first (DESIGN CHOICE, log 56). -/
def olderOf (a b : Word) : Word := if newer a b then b else a

/-- The signed difference of two indices (R3, R102). -/
def indexDiff (a b : Index) : Int := (a - b).toInt

/-- `a < b` as signed indices. -/
def indexLt (a b : Index) : Bool := decide (a.toInt < b.toInt)

/-- `a ≤ b` as signed indices. -/
def indexLe (a b : Index) : Bool := decide (a.toInt ≤ b.toInt)

/-- The greater of two signed indices. -/
def indexMax (a b : Index) : Index := if indexLt a b then b else a

/-- The lesser of two signed indices. -/
def indexMin (a b : Index) : Index := if indexLt b a then b else a

/-- One count more, saturating (R183). -/
def up (c : Counter) : Counter := if c = BitVec.allOnes 32 then c else c + 1

/-- `n` counts more, saturating (R183). -/
def upBy (c : Counter) (n : Nat) : Counter :=
  if c.toNat + n < 2 ^ 32 then c + BitVec.ofNat 32 n else BitVec.allOnes 32

/-- One count more when a condition holds. -/
def upIf (b : Bool) (c : Counter) : Counter := if b then up c else c

/-! ### Durations -/

/-- A number of microseconds. -/
def micros (n : Nat) : Time := n * 1000

/-- A number of milliseconds. -/
def millis (n : Nat) : Time := n * 1000000

/-- A number of seconds. -/
def seconds (n : Nat) : Time := n * 1000000000

/-- One character of the console line: 10 bit times at 115,200 baud, 86.8 µs (chapter 10). -/
def characterTime : Time := 86800

/-- The time left to an expiry. -/
def leftUntil (now t : Time) : Time := t - now

/-! ### Tables with one place for each station id, 1 to 16 -/

/-- The place of a station id; an id outside 1 to 16 has none. -/
def atStation (xs : List (Option α)) (id : Nat) : Option α :=
  match id with
  | 0 => none
  | k + 1 => xs.getD k none

/-- Fill or empty the place of a station id. -/
def setStation (xs : List (Option α)) (id : Nat) (v : Option α) : List (Option α) :=
  match id with
  | 0 => xs
  | k + 1 => xs.set k v

/-- The non-empty places with their station ids, ascending. -/
def placesFrom : Nat → List (Option α) → List (Nat × α)
  | _, [] => []
  | id, none :: rest => placesFrom (id + 1) rest
  | id, some v :: rest => (id, v) :: placesFrom (id + 1) rest

/-- The non-empty places of a station table. -/
def places (xs : List (Option α)) : List (Nat × α) := placesFrom 1 xs

/-- Change the element at a position, if there is one. -/
def modifyAt (f : α → α) : Nat → List α → List α
  | _, [] => []
  | 0, x :: rest => f x :: rest
  | k + 1, x :: rest => x :: modifyAt f k rest

/-! ### Line buffers (R138, R163) -/

/-- The number of a FREE buffer of the two, the lower first (log 32). -/
def freeNumber (bs : List (LineBuffer α)) : Nat :=
  if bs.any (fun b => b.number == 0) then 1 else 0

/-- Place a record in a FREE buffer, which becomes WAITING. -/
def placeRecord (r : α) (bs : List (LineBuffer α)) : List (LineBuffer α) :=
  bs ++ [{ number := freeNumber bs, record := r, sending := false }]

/-- Start the record placed first, when no buffer is SENDING. -/
def startRecord : List (LineBuffer α) → List (LineBuffer α)
  | [] => []
  | b :: rest => if (b :: rest).any (fun x => x.sending) then b :: rest
      else { b with sending := true } :: rest

/-- The record that is SENDING. -/
def sendingRecord (bs : List (LineBuffer α)) : Option α :=
  (bs.find? (fun b => b.sending)).map (fun b => b.record)

/-- The buffers once the SENDING one is FREE. -/
def dropSending (bs : List (LineBuffer α)) : List (LineBuffer α) := bs.filter (fun b => !b.sending)

/-- The state and record of a buffer, as reported. -/
def bufferReport (bs : List (LineBuffer α)) (n : Nat) : BufferState × Option α :=
  match bs.find? (fun b => b.number == n) with
  | none => (.free, none)
  | some b => (if b.sending then .sending else .waiting, some b.record)

/-! ### Block updates -/

/-- The state with the Timeline Unit changed. -/
def State.onTlu (f : Tlu → Tlu) (s : State) : State := { s with tlu := f s.tlu }
/-- The state with the Capture Front changed. -/
def State.onCfr (f : Cfr → Cfr) (s : State) : State := { s with cfr := f s.cfr }
/-- The state with the Segment Coder changed. -/
def State.onSgc (f : Sgc → Sgc) (s : State) : State := { s with sgc := f s.sgc }
/-- The state with the Link Unit changed. -/
def State.onLku (f : Lku → Lku) (s : State) : State := { s with lku := f s.lku }
/-- The state with the Delivery Unit changed. -/
def State.onDlu (f : Dlu → Dlu) (s : State) : State := { s with dlu := f s.dlu }
/-- The state with the Roster changed. -/
def State.onRst (f : Rst → Rst) (s : State) : State := { s with rst := f s.rst }
/-- The state with the Peer and Cue Unit changed. -/
def State.onPcu (f : Pcu → Pcu) (s : State) : State := { s with pcu := f s.pcu }
/-- The state with the Air Outlet changed. -/
def State.onAou (f : Aou → Aou) (s : State) : State := { s with aou := f s.aou }
/-- The state with the Keep Spool changed. -/
def State.onKsp (f : Ksp → Ksp) (s : State) : State := { s with ksp := f s.ksp }
/-- The state with the Keep Outlet changed. -/
def State.onKou (f : Kou → Kou) (s : State) : State := { s with kou := f s.kou }
/-- The state with the Console Unit changed. -/
def State.onCsu (f : Csu → Csu) (s : State) : State := { s with csu := f s.csu }
/-- The state once the local timer has reached a time (log 2). -/
def State.reach (t : Time) (s : State) : State := { s with now := max s.now t }

/-! ### Ports -/

/-- The opposite port. -/
def other : PortId → PortId
  | .a => .b
  | .b => .a

/-- The port of a letter. -/
def Lku.port (k : Lku) : PortId → Port
  | .a => k.portA
  | .b => k.portB

/-- The Link Unit with one port replaced. -/
def Lku.setPort (k : Lku) (p : PortId) (x : Port) : Lku :=
  match p with
  | .a => { k with portA := x }
  | .b => { k with portB := x }

/-- The port of a letter. -/
def State.port (s : State) (p : PortId) : Port := s.lku.port p

/-- The state with one port changed. -/
def State.onPort (p : PortId) (f : Port → Port) (s : State) : State :=
  s.onLku fun k => k.setPort p (f (k.port p))

/-- Count something in a port's counters. -/
def State.countPort (p : PortId) (f : PortCounts → PortCounts) (s : State) : State :=
  s.onPort p fun x => { x with counts := f x.counts }

/-- Lane 2 of the port is held (R84). -/
def Port.held (x : Port) : Bool := x.heldUntil.isSome

/-- The port is congested (R80). -/
def Port.congested (x : Port) : Bool := x.refreshAt.isSome

/-! ### What the blocks read of one another -/

/-- The own station id of the loaded configuration; 0, which is no station id, without one. -/
def State.ownId (s : State) : Nat := (s.csu.config.map (·.station)).getD 0

/-- The station is UNCONFIGURED. -/
def State.unconfigured (s : State) : Bool := s.tlu.station == .unconfigured

/-- The station state is ARMED, RUNNING, ENDING or DONE. -/
def State.armedOnward (s : State) : Bool :=
  match s.tlu.station with
  | .unconfigured | .configured => false
  | .armed | .running | .ending | .done => true

/-- The station is MUTED (R74). -/
def State.muted (s : State) : Bool := s.dlu.muted.isSome

/-- The reference state is LOCKED. -/
def State.refLocked (s : State) : Bool := s.tlu.ref == .locked

/-- The current index: that of the last boundary presented under the held epoch, and before there is one
that of the current house count against it, so that it is 0 or more at once in a late join (R3, R9, R11,
log 15). -/
def Tlu.currentIndex (t : Tlu) : Option Index :=
  match t.curIndex, t.houseCount, t.epoch with
  | some n, _, _ => some n
  | none, some count, some e => some (count - e.base)
  | none, _, _ => none

/-- The reference-not-LOCKED condition of R4, R5 and Table 8-7: not LOCKED, or boundaries void. -/
def State.refNotLocked (s : State) : Bool := !s.refLocked || s.tlu.voidRun

/-- The station has the AIR outlet role (R127). -/
def State.airRole (s : State) : Bool := (s.csu.config.map (·.airRole)).getD false

/-- The station has the KEEP outlet role (R163). -/
def State.keepRole (s : State) : Bool := (s.csu.config.map (·.keepRole)).getD false

/-- The value of a cue item, DARK while the table is absent (R111). -/
def State.cueValue (s : State) (item : Nat) : CueValue :=
  match s.pcu.cues with
  | none => .dark
  | some items => ((items[item]?).map (·.value)).getD .dark

/-- PRIMED or ON. -/
def CueValue.onAir : CueValue → Bool
  | .primed | .on => true
  | .dark | .off => false

/-- The freeze item holds ON (R101). -/
def State.frozen (s : State) : Bool := s.cueValue 16 == .on

/-- Samples of one segment (spec/00 Table 4). -/
def SampleRate.samples : SampleRate → Nat
  | .r48 => 480
  | .r96 => 960

/-- RAW, the uncoded size of a segment in bytes (spec/00 Table 4). -/
def SampleRate.raw (r : SampleRate) : Nat := 3 * r.samples

/-- The configured sample rate; 48,000 Hz stands where no configuration is loaded and no rule reads it. -/
def State.rate (s : State) : SampleRate := (s.csu.config.map (·.rate)).getD .r48

/-- The patch entry of a capture channel (R26). -/
def State.patchOf (s : State) (channel : Nat) : Option PatchEntry :=
  s.csu.config.bind fun c => c.patch.getD channel none

/-- The patched channels, in ascending capture channel order (R26). -/
def State.patched (s : State) : List (Nat × PatchEntry) :=
  (List.range 32).filterMap fun ch => (s.patchOf ch).map fun e => (ch, e)

/-! ### Attention (R180) -/

/-- The place of a class in priority order, 0 for the highest; its mask bit is 2 to that power
(Table 10-6). -/
def AttnClass.rank : AttnClass → Nat
  | .dupid => 0
  | .ref => 1
  | .epoch => 2
  | .cut => 3
  | .spool => 4
  | .feed => 5
  | .claim => 6
  | .link => 7
  | .capture => 8
  | .peer => 9
  | .reset => 10

/-- The classes in priority order (Table 10-6). -/
def attnClasses : List AttnClass :=
  [.dupid, .ref, .epoch, .cut, .spool, .feed, .claim, .link, .capture, .peer, .reset]

/-- The Console Unit once an attention has been raised: the first cause of a pending class is kept,
and every raise is counted (R180). -/
def Csu.raise (c : AttnClass) (cause : Cause) (u : Csu) : Csu :=
  { u with
    pendingAttn := modifyAt (fun o => some (o.getD cause)) c.rank u.pendingAttn
    attnRaised := modifyAt up c.rank u.attnRaised }

/-- Raise an attention (R180). -/
def raiseAttn (c : AttnClass) (cause : Cause) (s : State) : State := s.onCsu (Csu.raise c cause)

end Sys2Proof.Machine
end

