-- ==== Sys2Proof/Machine/Flags.lean ====
section
/-! DEFINITION. The flags: the capture flags and their mask (R23, R24), the attention sets, their masks
and the ATTN pin (R180 to R182), and the persisting conditions of a cut (Table 8-7). -/

namespace Sys2Proof.Machine

/-! ### Capture flags -/

/-- The four flags in the order of their mask bits (R23). -/
def captureFlags : List CaptureFlag := [.framing, .parity, .overrun, .underrun]

/-- The number f of a flag within its line's four mask bits (R23). -/
def CaptureFlag.number : CaptureFlag → Nat
  | .framing => 0
  | .parity => 1
  | .overrun => 2
  | .underrun => 3

/-- Whether a flag of a line is set. -/
def CaptureLine.flag (l : CaptureLine) : CaptureFlag → Bool
  | .framing => l.framing
  | .parity => l.parity
  | .overrun => l.overrun
  | .underrun => l.underrun

/-- A line with one flag set or cleared. -/
def CaptureLine.withFlag (f : CaptureFlag) (v : Bool) (l : CaptureLine) : CaptureLine :=
  match f with
  | .framing => { l with framing := v }
  | .parity => { l with parity := v }
  | .overrun => { l with overrun := v }
  | .underrun => { l with underrun := v }

/-- A line with the counter of one kind of error incremented (R25). -/
def CaptureLine.countError (f : CaptureFlag) (l : CaptureLine) : CaptureLine :=
  match f with
  | .framing => { l with framingCount := up l.framingCount }
  | .parity => { l with parityCount := up l.parityCount }
  | .overrun => { l with overrunCount := up l.overrunCount }
  | .underrun => { l with underrunCount := up l.underrunCount }

/-- The capture line of a number; a number above 3 names no line and reads as an OFF one. -/
def State.captureLine (s : State) (k : Nat) : CaptureLine := s.cfr.lines.getD k {}

/-- The state with one capture line changed. -/
def State.onLine (k : Nat) (f : CaptureLine → CaptureLine) (s : State) : State :=
  s.onCfr fun c => { c with lines := modifyAt f k c.lines }

/-- An error of a kind on a line: its counter increments, its flag is set, and CAPTURE is raised when the
flag was clear (R23). -/
def lineError (k : Nat) (f : CaptureFlag) (s : State) : State :=
  let t := s.onLine k fun l => (l.countError f).withFlag f true
  if (s.captureLine k).flag f then t else raiseAttn .capture (.capture k f) t

/-- The bits of one line in the capture flag mask, before its place is given (R23). -/
def CaptureLine.mask (l : CaptureLine) : Nat :=
  (if l.framing then 1 else 0) + (if l.parity then 2 else 0) +
    (if l.overrun then 4 else 0) + (if l.underrun then 8 else 0)

/-- The capture flag mask: flag f of line k is the bit of value 2^(4k + f) (R23). -/
def captureMask : List CaptureLine → Nat
  | [] => 0
  | l :: rest => l.mask + 16 * captureMask rest

/-- A line with the flags named in its four bits of the mask cleared (R24). -/
def CaptureLine.clear (bits : Nat) (l : CaptureLine) : CaptureLine :=
  { l with
    framing := l.framing && !bits.testBit 0
    parity := l.parity && !bits.testBit 1
    overrun := l.overrun && !bits.testBit 2
    underrun := l.underrun && !bits.testBit 3 }

/-- The lines with the flags named in the mask cleared (R24). -/
def clearFlags : Nat → List CaptureLine → List CaptureLine
  | _, [] => []
  | mask, l :: rest => l.clear (mask % 16) :: clearFlags (mask / 16) rest

/-! ### Attention masks and the pin -/

/-- The pending mask of a list of first causes, the highest class first (Table 10-6). -/
def causeBits : Nat → List (Option Cause) → Nat
  | _, [] => 0
  | bit, o :: rest => (if o.isSome then bit else 0) + causeBits (2 * bit) rest

/-- The pending mask (R182). -/
def Csu.pendingMask (u : Csu) : BitVec 11 := BitVec.ofNat 11 (causeBits 1 u.pendingAttn)

/-- The ATTN pin is asserted: a class is both pending and enabled (R181). -/
def Csu.attnAsserted (u : Csu) : Bool := decide (u.pendingMask &&& u.enableMask ≠ 0)

/-- The pending set with the classes named in the mask cleared (R182). -/
def clearClasses : Nat → List (Option Cause) → List (Option Cause)
  | _, [] => []
  | mask, o :: rest => (if mask % 2 = 1 then none else o) :: clearClasses (mask / 2) rest

/-- Each pending class with its first cause, in priority order (R182). -/
def pendingClasses (u : Csu) : List (AttnClass × Cause) :=
  attnClasses.filterMap fun c => (u.pendingAttn.getD c.rank none).map fun x => (c, x)

/-! ### The cut state -/

/-- The station is CUT (R141). -/
def State.isCut (s : State) : Bool := s.aou.cut.isSome

/-- The configured cut mode (Table 8-1). -/
def State.cutMode (s : State) : CutMode := (s.csu.config.map (·.cutMode)).getD .quiet

/-- The station is CUT in mode STOP or FLOAT, which make no record (R143). -/
def State.cutSilent (s : State) : Bool :=
  s.isCut && (match s.cutMode with | .quiet => false | .stop | .float => true)

/-- The persisting condition of an enabled trigger holds (Table 8-7). -/
def State.cutPersists (s : State) : Bool :=
  match s.csu.config with
  | none => false
  | some c => (c.cutRef && s.refNotLocked) || (c.cutDup && s.muted)

end Sys2Proof.Machine
end

