-- ==== Sys2Proof/Machine/Capture.lean ====
section
/-! DEFINITION. The Capture Front's lines, takes and accumulations (chapter 2). -/

namespace Sys2Proof.Machine

/-! ### Slots (Table 2-1) -/

/-- The sample of a slot: its first 24 bits. -/
def sampleOf (x : LineSlot) : Sample := x.extractLsb' 1 24

/-- The number of ones among the lowest `n` bits of a slot, modulo 2. -/
def oddOnes (x : LineSlot) : Nat → Bool
  | 0 => false
  | n + 1 => xor (x.getLsbD n) (oddOnes x n)

/-- A slot's parity is good: an even number of ones in its 25 bits (section 2.1). -/
def parityGood (x : LineSlot) : Bool := !oddOnes x 25

/-! ### The bits of a line (R19 to R21) -/

/-- The sync pattern E591, most significant bit first (Table 2-1). -/
def syncWord : List Bool := (List.range 16).map fun i => (0xE591#16).getMsbD i

/-- A slot from its 25 bits, most significant first (Table 2-1). -/
def slotOf (bits : List Bool) : LineSlot := BitVec.ofNat 25 (bits.foldl (fun n b => 2 * n + b.toNat) 0)

/-- A number of slots from the bits that begin with them. -/
def slotsOf : Nat → List Bool → List LineSlot
  | 0, _ => []
  | n + 1, bits => slotOf (bits.take 25) :: slotsOf n (bits.drop 25)

/-- A list of bits, long enough to tell, does not begin with the sync pattern. -/
def notSync (bits : List Bool) : Bool := decide (16 ≤ bits.length) && bits.take 16 != syncWord

/-- A position of the search is given up: the pattern is not there, or not 216 bits on (R19). -/
def givesUp (bits : List Bool) : Bool := notSync bits || notSync (bits.drop 216)

/-- The search goes on, bit by bit, to the first position it has not to give up (R19). -/
def search : List Bool → List Bool
  | [] => []
  | b :: rest => if givesUp (b :: rest) then search rest else b :: rest

/-- The bits a line keeps until more arrive. -/
def CaptureLine.hold (bits : List Bool) (l : CaptureLine) : CaptureLine := { l with held := bits }

/-- A frame joins the tail of a line buffer. -/
def CaptureLine.join (f : List LineSlot) (l : CaptureLine) : CaptureLine :=
  { l with buffer := l.buffer ++ [f] }

/-- A HUNTING line locks with the frame of the second sync word as its only waiting frame (R19). -/
def CaptureLine.lock (f : List LineSlot) (l : CaptureLine) : CaptureLine :=
  { l with state := .locked, buffer := [f] }

/-- A line loses its framing: its buffer empties and it hunts (R20). -/
def CaptureLine.hunt (l : CaptureLine) : CaptureLine := { l with state := .hunting, buffer := [] }

/-- A sample frame is complete on a LOCKED line (R21). -/
def frameComplete (k : Nat) (f : List LineSlot) (s : State) : State :=
  if (s.captureLine k).buffer.length < 2 then s.onLine k (CaptureLine.join f)
  else lineError k .overrun s

/-- A LOCKED line loses framing (R20). -/
def framingLost (k : Nat) (s : State) : State := (lineError k .framing s).onLine k CaptureLine.hunt

/-- The bits that wait on a line are received, frame by frame: an OFF line ignores them; a HUNTING one
searches them and locks once both sync words and the slots of the second are there (R19); a LOCKED one
compares the 16 bits where a sync word is expected, and resumes the search at the first of them when they
are not the pattern (R20, R21). The number bounds the frames. -/
def receiveBits (k : Nat) : Nat → List Bool → State → State
  | 0, _, s => s
  | n + 1, bits, s =>
    match (s.captureLine k).state with
    | .off => s
    | .hunting =>
      let found := search bits
      if found.length < 432 then s.onLine k (CaptureLine.hold found)
      else receiveBits k n (found.drop 432) (s.onLine k (CaptureLine.lock (slotsOf 8 (found.drop 232))))
    | .locked =>
      if notSync bits then receiveBits k n bits (framingLost k s)
      else if bits.length < 216 then s.onLine k (CaptureLine.hold bits)
      else receiveBits k n (bits.drop 216) (frameComplete k (slotsOf 8 (bits.drop 16)) s)

/-- Bits arrive on a line, behind those it holds (R19 to R21). -/
def lineBits (k : Nat) (bits : List Bool) (s : State) : State :=
  let all := (s.captureLine k).held ++ bits
  receiveBits k (all.length + 2) all s

/-- A line's bit clock stops: the first 16 bits that arrive when it returns are where a LOCKED line expects
a sync word, so the bits of the frame under way are gone (R20); a HUNTING line keeps its search position
(R19), and an OFF one ignores its input (R18). -/
def clockStops (k : Nat) (s : State) : State :=
  match (s.captureLine k).state with
  | .off | .hunting => s
  | .locked => s.onLine k (CaptureLine.hold [])

/-- Bits arrive on a line in runs, its bit clock stopped between each run and the next (R19, R20, log 7). -/
def lineRuns (k : Nat) : List (List Bool) → State → State
  | [], s => s
  | bits :: later, s => later.foldl (fun t next => lineBits k next (clockStops k t)) (lineBits k bits s)

/-! ### Takes (R22) -/

/-- One sample of a take: its value and whether it is damaged. -/
structure TakenSample where
  value : Sample
  damaged : Bool
  deriving DecidableEq, Repr

/-- A slot taken from a frame: zero and damaged when its parity is bad (Table 2-4). -/
def takeSlot (x : LineSlot) : TakenSample :=
  if parityGood x then { value := sampleOf x, damaged := false } else { value := 0, damaged := true }

/-- Eight zero samples, all damaged. -/
def zeroTake : List TakenSample := List.replicate 8 { value := 0, damaged := true }

/-- The samples a take yields from a line (Table 2-4). -/
def CaptureLine.yields (l : CaptureLine) : List TakenSample :=
  match l.state, l.buffer with
  | .off, _ => []
  | .hunting, _ => zeroTake
  | .locked, [] => zeroTake
  | .locked, f :: _ => f.map takeSlot

/-- A number of errors of a kind on a line. -/
def lineErrors (k : Nat) (f : CaptureFlag) : Nat → State → State
  | 0, s => s
  | n + 1, s => lineErrors k f n (lineError k f s)

/-- The buffer, flags and counters of a line after a take (Table 2-4). -/
def afterTake (k : Nat) (s : State) : State :=
  let l := s.captureLine k
  match l.state, l.buffer with
  | .off, _ => s
  | .hunting, _ => s
  | .locked, [] => lineError k .underrun s
  | .locked, f :: rest =>
    lineErrors k .parity (f.filter fun x => !parityGood x).length
      (s.onLine k fun l => { l with buffer := rest })

/-- An accumulation with a sample taken into it (R27). -/
def Accumulation.push (x : TakenSample) (a : Accumulation) : Accumulation :=
  { a with samples := a.samples ++ [x.value], damage := if x.damaged then a.damage + 1 else a.damage }

/-- An accumulation with the sample of its channel from the take of a line. -/
def Accumulation.feed (k : Nat) (xs : List TakenSample) (a : Accumulation) : Accumulation :=
  if a.channel / 8 = k then
    match xs[a.channel % 8]? with
    | some x => a.push x
    | none => a
  else a

/-- The open accumulations receive the samples of a take. -/
def feedPeriod (k : Nat) (xs : List TakenSample) (s : State) : State :=
  s.onCfr fun c => { c with
    period := c.period.map fun p => { p with accs := p.accs.map (Accumulation.feed k xs) } }

/-- One take from one line (R22). -/
def takeLine (k : Nat) (s : State) : State := afterTake k (feedPeriod k (s.captureLine k).yields s)

/-- The takes of a sample clock edge, from CONFIGURED onward (R22). The manual gives no order among the
lines of one edge: the model takes line 0 first and line 3 last (DESIGN CHOICE, log 47). -/
def takeAll (s : State) : State :=
  if s.unconfigured then s else takeLine 3 (takeLine 2 (takeLine 1 (takeLine 0 s)))

/-! ### Closing and opening accumulations (R27, R28) -/

/-- The segment that an accumulation of an index forms (R28). -/
def formSegment (s : State) (n : Index) (a : Accumulation) : Option Segment :=
  (s.patchOf a.channel).map fun e =>
    { channel := a.channel
      track := e.track
      group := e.group
      keep := e.keep
      index := n
      samples := a.samples
      damage := a.damage }

/-- Add the damage counts of formed segments to their channels' counters (R28). -/
def countDamage : List Segment → List ChannelCounts → List ChannelCounts
  | [], cs => cs
  | g :: rest, cs =>
    countDamage rest (modifyAt (fun c => { c with damage := upBy c.damage g.damage }) g.channel cs)

/-- The accumulations a boundary opens (Table 2-7): none, or a period with an index or without one. That
boundary L + 1 has been taken is read as H being greater than L, so it holds too where a jump has skipped
that boundary (DESIGN CHOICE, log 48). -/
def opensPeriod (station : StationState) (last high : Option Index) (presented : Option Index) :
    Option (Option Index) :=
  match station with
  | .running => some presented
  | .ending =>
    match presented with
    | some n => if (last.map fun l => indexLe n l).getD false then some (some n) else none
    | none =>
      if (last.bind fun l => high.map fun h => indexLt l h).getD false then none else some none
  | .unconfigured | .configured | .armed | .done => none

/-- The period that opens with an index or without one, for each patched channel (R27). -/
def State.newPeriod (s : State) (n : Option Index) : Period :=
  { index := n, accs := s.patched.map fun p => { channel := p.1 } }

/-- A line after a successful LOAD (R18). -/
def CaptureLine.reload (inUse : Bool) (l : CaptureLine) : CaptureLine :=
  { l with state := if inUse then .hunting else .off, buffer := [], held := [] }

/-- A line is in use by a patch: a channel on it is patched (R18). -/
def lineInUse (patch : List (Option PatchEntry)) (k : Nat) : Bool :=
  ((patch.drop (8 * k)).take 8).any (·.isSome)

/-- The lines after a successful LOAD, from a line number on (R18). -/
def reloadLines (patch : List (Option PatchEntry)) : Nat → List CaptureLine → List CaptureLine
  | _, [] => []
  | k, l :: rest => l.reload (lineInUse patch k) :: reloadLines patch (k + 1) rest

end Sys2Proof.Machine
end

