-- ==== Sys2Proof/Config.lean ====
section
/-! DEFINITION. The values the manual leaves open, as constants without a body: nothing can be proved
of any one of them, so what is proved holds whatever they are. -/

namespace Sys2Proof

/-- The lossy coding of a segment at a grade (R37): its bytes by position. The manual gives the size of
the payload and not its content (log 5). -/
opaque Config.airByte : (grade : Nat) → List Sample → Nat → Byte

/-- The lossless coding of a segment (R39, log 5). -/
opaque Config.keepEncode : List Sample → Bytes

/-- The decoding of the lossless coding (R39, log 5). -/
opaque Config.keepDecode : Bytes → List Sample

/-- The number of characters of a report as sent, before the bound of R172; the manual gives no text
(log 6). -/
opaque Config.reportChars : Machine.Report → Nat

end Sys2Proof
end

