-- ==== Sys2Proof/Machine/Operands.lean ====
section
/-! DEFINITION. The operand forms of chapter 11: bytes and the CRC, the frames the station sends and
takes, and the two kinds of feed record. -/

namespace Sys2Proof.Machine

/-! ### Bytes and the CRC (R185) -/

/-- A byte of a frame or block; a byte past its end reads as 0. -/
def byteAt (bs : Bytes) (i : Nat) : Nat := (bs.getD i 0).toNat

/-- A 16-bit field, most significant byte first. -/
def wordAt16 (bs : Bytes) (i : Nat) : Nat := byteAt bs i * 256 + byteAt bs (i + 1)

/-- A 32-bit field, most significant byte first. -/
def wordAt32 (bs : Bytes) (i : Nat) : Word :=
  BitVec.ofNat 32 (wordAt16 bs i * 65536 + wordAt16 bs (i + 2))

/-- A one-byte field. -/
def put8 (n : Nat) : Bytes := [BitVec.ofNat 8 n]

/-- A 16-bit field, most significant byte first. -/
def put16 (n : Nat) : Bytes := [BitVec.ofNat 8 (n / 256), BitVec.ofNat 8 n]

/-- A 32-bit field, most significant byte first. -/
def put32 (w : Word) : Bytes := put16 (w.toNat / 65536) ++ put16 (w.toNat % 65536)

/-- A flag as a bit of the given value. -/
def bitIf (b : Bool) (v : Nat) : Nat := if b then v else 0

/-- One bit of the reflected CRC-32 register: polynomial 04C11DB7 read in reverse (Table 11-1). -/
def crcBit (c : Word) : Word := if c.getLsbD 0 then (c >>> 1) ^^^ 0xEDB88320#32 else c >>> 1

/-- One byte into the CRC register, least significant bit first (Table 11-1). -/
def crcByte (c : Word) (b : Byte) : Word :=
  crcBit (crcBit (crcBit (crcBit (crcBit (crcBit (crcBit (crcBit (c ^^^ b.setWidth 32))))))))

/-- The CRC-32 of Table 11-1. -/
def crc32 (bs : Bytes) : Word := (bs.foldl crcByte (BitVec.allOnes 32)) ^^^ BitVec.allOnes 32

/-- The bytes followed by their CRC field (R185). -/
def withCrc (bs : Bytes) : Bytes := bs ++ put32 (crc32 bs)

/-- A received frame's CRC matches its contents (R48). -/
def crcGood (bs : Bytes) : Bool :=
  decide (4 ≤ bs.length) &&
    wordAt32 bs (bs.length - 4) == crc32 (bs.take (bs.length - 4))

/-! ### Codes -/

/-- The state codes of HELLO and BEACON (section 11.1); UNCONFIGURED sends neither. -/
def StationState.code : StationState → Nat
  | .unconfigured => 0
  | .configured => 2
  | .armed => 3
  | .running => 4
  | .ending => 5
  | .done => 6

/-- The station state of a code, if it is one (section 11.1). -/
def stateOfCode : Nat → Option StationState
  | 2 => some .configured
  | 3 => some .armed
  | 4 => some .running
  | 5 => some .ending
  | 6 => some .done
  | _ => none

/-- The port letter byte (Table 11-3). -/
def portCode : PortId → Nat
  | .a => 0x41
  | .b => 0x42

/-- The port of a letter byte, if it is one (Table 11-3). -/
def portOfCode : Nat → Option PortId
  | 0x41 => some .a
  | 0x42 => some .b
  | _ => none

/-- The value codes of a cue (Table 11-6): for a group, and for the freeze. -/
def CueValue.code : CueValue → Nat
  | .dark => 0
  | .primed => 1
  | .on => 2
  | .off => 0

/-- The code of a value of a cue item: the freeze item's ON is 1 (Table 11-6). -/
def cueCode (item : Nat) (v : CueValue) : Nat :=
  if item = 16 then (if v = .on then 1 else 0) else v.code

/-- The value a code gives for a group's item, if it is one (Table 11-6). -/
def groupValueOf : Nat → Option CueValue
  | 0 => some .dark
  | 1 => some .primed
  | 2 => some .on
  | _ => none

/-- The value a code gives for the freeze item, if it is one (Table 11-6). -/
def freezeValueOf : Nat → Option CueValue
  | 0 => some .off
  | 1 => some .on
  | _ => none

/-- The value a code gives for a cue item, if it is one of the item's values (Table 11-6). -/
def cueOfCode (item code : Nat) : Option CueValue :=
  if item < 16 then groupValueOf code
  else if item = 16 then freezeValueOf code
  else none

/-- The AIR payload size of a grade (Table 3-2). -/
def gradeSize : Nat → Nat
  | 0 => 120
  | 1 => 160
  | 2 => 240
  | 3 => 320
  | 4 => 480
  | 5 => 640
  | 6 => 960
  | _ => 1280

/-! ### Link-local frames (section 11.2) -/

/-- The six kinds of ring-wide frame (R68). -/
inductive RingKind where
  | start
  | endFrame
  | cue
  | beacon
  | air
  | keep
  deriving DecidableEq, Repr

/-- The kind codes of ring-wide frames (Table 11-2). -/
def RingKind.code : RingKind → Nat
  | .start => 3
  | .endFrame => 4
  | .cue => 5
  | .beacon => 6
  | .air => 7
  | .keep => 8

/-- The ring-wide kind of a code, if it is one (Table 11-2). -/
def ringKindOf : Nat → Option RingKind
  | 3 => some .start
  | 4 => some .endFrame
  | 5 => some .cue
  | 6 => some .beacon
  | 7 => some .air
  | 8 => some .keep
  | _ => none

/-- The lane of a kind (Table 11-2). -/
def RingKind.lane : RingKind → Nat
  | .start | .endFrame | .cue | .beacon => 0
  | .air => 1
  | .keep => 2

/-- The bytes of a HELLO sent on a port now (R46, Table 11-3). -/
def helloBytes (s : State) (p : PortId) : Bytes :=
  let x := s.port p
  withCrc (put8 1 ++ put8 s.ownId ++ put8 (portCode p) ++ put8 s.tlu.station.code ++
    put32 (s.lku.digest.getD 0) ++
    put8 (bitIf s.lku.enabled 1 + bitIf s.lku.enabled 2) ++
    put8 (bitIf x.seen1 1 + bitIf x.seen2 2))

/-- The bytes of a HOLD (Table 11-4). -/
def holdBytes (sender time : Nat) : Bytes := withCrc (put8 2 ++ put8 sender ++ put16 time)

/-- The fields of a received HELLO, when it is valid (R48). -/
def parseHello (now : Time) (bs : Bytes) : Option Neighbour :=
  if bs.length = 14 ∧ 1 ≤ byteAt bs 1 ∧ byteAt bs 1 ≤ 16 then
    match portOfCode (byteAt bs 2), stateOfCode (byteAt bs 3) with
    | some letter, some st =>
      some {
        station := byteAt bs 1
        letter := letter
        state := st
        digest := wordAt32 bs 4
        enable1 := (byteAt bs 8).testBit 0
        enable2 := (byteAt bs 8).testBit 1
        seen1 := (byteAt bs 9).testBit 0
        seen2 := (byteAt bs 9).testBit 1
        takenAt := now }
    | _, _ => none
  else none

/-! ### Ring-wide frames (section 11.3) -/

/-- The header of a ring-wide frame (Table 5-1). -/
structure RingHeader where
  origin : Nat
  incarnation : Word
  sequence : Word
  deriving DecidableEq, Repr

/-- A ring-wide frame as sent: header, body, CRC (Table 11-5). -/
def ringBytes (k : RingKind) (h : RingHeader) (body : Bytes) : Bytes :=
  withCrc (put8 k.code ++ put8 h.origin ++ put8 k.lane ++ put8 0 ++ put32 h.incarnation ++
    put32 h.sequence ++ put16 (18 + body.length) ++ body)

/-- The header fields of a ring-wide frame (Table 11-5). -/
def ringHeader (bs : Bytes) : RingHeader :=
  { origin := byteAt bs 1, incarnation := wordAt32 bs 4, sequence := wordAt32 bs 8 }

/-- The index an AIR frame carries (Table 11-8). -/
def airIndex (bs : Bytes) : Index := wordAt32 bs 14

/-- The bytes of a frame's payload: `n` bytes from an offset. -/
def payloadAt (bs : Bytes) (at_ n : Nat) : Bytes := (bs.drop at_).take n

/-- A CUE frame's body, with its value not yet read (Table 11-6). -/
structure CueBody where
  item : Nat
  code : Nat
  number : Word
  deriving DecidableEq, Repr

/-- The body of a CUE frame (Table 11-6). -/
def parseCue (bs : Bytes) : CueBody :=
  { item := byteAt bs 14, code := byteAt bs 15, number := wordAt32 bs 16 }

/-- The body of a CUE frame as sent (Table 11-6). -/
def cueBytes (c : CueBody) : Bytes := put8 c.item ++ put8 c.code ++ put32 c.number

/-- An AIR frame's body (Table 11-8). -/
structure AirBody where
  track : Nat
  group : Nat
  index : Index
  load : AirPayload
  deriving DecidableEq, Repr

/-- The body of an AIR frame (Table 11-8). -/
def parseAir (bs : Bytes) : AirBody :=
  { track := wordAt16 bs 18
    group := byteAt bs 20
    index := airIndex bs
    load := {
      grade := byteAt bs 21
      damage := (byteAt bs 22).testBit 0
      payload := payloadAt bs 24 (gradeSize (byteAt bs 21)) } }

/-- The body of an AIR frame as sent (Table 11-8). -/
def airBytes (a : AirBody) : Bytes :=
  put32 a.index ++ put16 a.track ++ put8 a.group ++ put8 a.load.grade ++
    put8 (bitIf a.load.damage 1) ++ put8 0 ++ a.load.payload

/-- The body of a KEEP frame but for its floor (Table 11-9). -/
def parseKeep (bs : Bytes) : KeepBody :=
  { sequence := wordAt32 bs 14
    index := wordAt32 bs 22
    lossBefore := wordAt32 bs 26
    track := wordAt16 bs 30
    damage := wordAt16 bs 32
    group := byteAt bs 36
    payload := payloadAt bs 38 (wordAt16 bs 34) }

/-- The floor a KEEP frame carries (Table 11-9). -/
def keepFloor (bs : Bytes) : Word := wordAt32 bs 18

/-- The body of a KEEP frame as sent (Table 11-9). -/
def keepBytes (k : KeepBody) (floor : Word) : Bytes :=
  put32 k.sequence ++ put32 floor ++ put32 k.index ++ put32 k.lossBefore ++ put16 k.track ++
    put16 k.damage ++ put16 k.payload.length ++ put8 k.group ++ put8 0 ++ k.payload

/-- One item of a BEACON's cue table, with its value not yet read (Table 11-7). -/
structure BeaconItem where
  code : Nat
  origin : Nat
  number : Word
  deriving DecidableEq, Repr

/-- A BEACON's body as received (Table 11-7). -/
structure BeaconBody where
  stateCode : Nat
  airRole : Bool
  keepRole : Bool
  cut : Bool
  refFlag : Bool
  mutedPeer : Bool
  grade : Nat
  base : Option Word
  index : Option Index
  keptPresent : Bool
  keptCount : Nat
  items : List BeaconItem
  kept : List KeptEntry
  deriving DecidableEq, Repr

/-- The body of a BEACON (Table 11-7). -/
def parseBeacon (bs : Bytes) : BeaconBody :=
  let presence := byteAt bs 18
  let k := byteAt bs 19
  { stateCode := byteAt bs 14
    airRole := (byteAt bs 15).testBit 0
    keepRole := (byteAt bs 15).testBit 1
    cut := (byteAt bs 16).testBit 0
    refFlag := (byteAt bs 16).testBit 1
    mutedPeer := (byteAt bs 16).testBit 2
    grade := byteAt bs 17
    base := if presence.testBit 0 then some (wordAt32 bs 22) else none
    index := if presence.testBit 1 then some (wordAt32 bs 26) else none
    keptPresent := presence.testBit 2
    keptCount := k
    items := (List.range 17).map fun i =>
      { code := byteAt bs (30 + 6 * i), origin := byteAt bs (31 + 6 * i),
        number := wordAt32 bs (32 + 6 * i) }
    kept := (List.range k).map fun i =>
      { origin := byteAt bs (132 + 10 * i), incarnation := wordAt32 bs (134 + 10 * i),
        kept := wordAt32 bs (138 + 10 * i) } }

/-- The body of a BEACON as sent (Table 11-7). -/
def beaconBytes (b : BeaconBody) : Bytes :=
  put8 b.stateCode ++
  put8 (bitIf b.airRole 1 + bitIf b.keepRole 2) ++
  put8 (bitIf b.cut 1 + bitIf b.refFlag 2 + bitIf b.mutedPeer 4) ++
  put8 b.grade ++
  put8 (bitIf b.base.isSome 1 + bitIf b.index.isSome 2 + bitIf b.keptPresent 4) ++
  put8 b.keptCount ++ put16 0 ++
  put32 (b.base.getD 0) ++ put32 (b.index.getD 0) ++
  (b.items.flatMap fun i => put8 i.code ++ put8 i.origin ++ put32 i.number) ++
  (b.kept.flatMap fun e => put8 e.origin ++ put8 0 ++ put32 e.incarnation ++ put32 e.kept)

/-- The length and body fields of a ring-wide frame are allowed for its kind (R186, Table 11-10). -/
def lengthAllowed (rate : SampleRate) (k : RingKind) (bs : Bytes) : Bool :=
  let len := wordAt16 bs 12
  match k with
  | .start => decide (len = 22)
  | .endFrame => decide (len = 26)
  | .cue => decide (len = 24)
  | .beacon => decide (len = 136 + 10 * byteAt bs 19)
  | .air => decide (byteAt bs 21 ≤ 7 ∧ len = 28 + gradeSize (byteAt bs 21) ∧
      wordAt16 bs 18 ≤ 511 ∧ byteAt bs 20 ≤ 15 ∧ byteAt bs 22 ≤ 1)
  | .keep => decide (16 ≤ wordAt16 bs 34 ∧ wordAt16 bs 34 ≤ rate.raw ∧ len = 42 + wordAt16 bs 34 ∧
      wordAt16 bs 30 ≤ 511 ∧ byteAt bs 36 ≤ 15 ∧ wordAt16 bs 32 ≤ rate.samples)

/-! ### Feed records (section 11.4) -/

/-- The kind codes of a slot record entry (Table 11-12). -/
def EntryKind.code : EntryKind → Nat
  | .arrived => 1
  | .repeated => 2
  | .silent => 3

/-- An entry of a slot record as sent (Table 11-12). -/
def SlotEntry.bytes (e : SlotEntry) : Bytes :=
  put16 e.track ++ put8 e.origin ++ put8 e.kind.code ++ put8 e.grade ++ put8 (bitIf e.damage 1) ++
    e.payload

/-- A slot record as sent on the program feed line (Table 11-11). -/
def SlotRecord.bytes (r : SlotRecord) : Bytes :=
  let entries := r.entries.flatMap SlotEntry.bytes
  withCrc (put32 (BitVec.ofNat 32 (24 + entries.length)) ++ put8 r.station ++
    put8 (bitIf r.cut 1 + bitIf (r.cause == .deadline) 2) ++ put16 r.expected ++ put16 r.arrived ++
    put16 0 ++ put32 r.incarnation ++ put32 r.index ++ entries)

/-- An archive record as sent on the archive feed line (Table 11-13). -/
def ArchiveRecord.bytes : ArchiveRecord → Bytes
  | .join origin inc first =>
    withCrc (put16 16 ++ put8 1 ++ put8 origin ++ put32 inc ++ put32 first)
  | .data origin inc b =>
    withCrc (put16 (32 + b.payload.length) ++ put8 2 ++ put8 origin ++ put32 inc ++
      put32 b.sequence ++ put32 b.index ++ put32 b.lossBefore ++ put16 b.track ++ put16 b.damage ++
      put16 b.payload.length ++ put8 b.group ++ put8 0 ++ b.payload)

/-- The record on the program feed line, with its bytes: none while the line is idle or released. -/
def programLine (s : State) : Option Bytes := (sendingRecord s.aou.feed).map SlotRecord.bytes

/-- The record on the archive feed line, with its bytes. -/
def archiveLine (s : State) : Option Bytes := (sendingRecord s.kou.lines).map ArchiveRecord.bytes

end Sys2Proof.Machine
end

