-- ==== Sys2Proof/Machine/Link.lean ====
section
/-! DEFINITION. The Link Unit: queues, arbiter, lanes, link states, HELLO and HOLD (chapters 4 and 5). -/

namespace Sys2Proof.Machine

/-! ### Configured marks and times (Table 5-7) -/

/-- The KEEP high mark. -/
def State.highMark (s : State) : Nat := (s.csu.config.map (·.highMark)).getD 0

/-- The KEEP low mark. -/
def State.lowMark (s : State) : Nat := (s.csu.config.map (·.lowMark)).getD 0

/-- The HOLD time in µs. -/
def State.holdTime (s : State) : Nat := (s.csu.config.map (·.holdTime)).getD 0

/-- When a refresh timer started now expires: half the HOLD time, rounded down to a whole µs (R80). -/
def State.refreshDue (s : State) : Time := s.now + micros (s.holdTime / 2)

/-- Both transmitters send carrier: from the LOAD that enters CONFIGURED, until a reset (R45). -/
def State.carrierSent (s : State) : Bool := !s.unconfigured

/-! ### The link-local queue (R45, R63, R83) -/

/-- Start the head of the link-local queue when the transmitter is idle; a HELLO's fields are filled at
that instant (R46, R63). -/
def startLinkLocal (p : PortId) (s : State) : State :=
  match (s.port p).tx, (s.port p).linkQueue with
  | none, .hello :: rest =>
    s.onPort p fun x => { x with linkQueue := rest, tx := some (.hello (helloBytes s p)) }
  | none, .hold sender t :: rest =>
    s.onPort p fun x => { x with linkQueue := rest, tx := some (.hold t (holdBytes sender t)) }
  | _, _ => s

/-- Place a HELLO in a port's link-local queue: one waiting HELLO stands for both, and a queue full of
HOLDs drops it (R45). -/
def offerHello (p : PortId) (s : State) : State :=
  let q := (s.port p).linkQueue
  if q.contains .hello then s
  else if 2 ≤ q.length then s.countPort p fun c => { c with llDrop := up c.llDrop }
  else startLinkLocal p (s.onPort p fun x => { x with linkQueue := x.linkQueue ++ [.hello] })

/-- Offer HOLD(t) to a port's link-local queue, when the port is UP (R80, R82, R83). -/
def offerHold (p : PortId) (t : Nat) (s : State) : State :=
  if (s.port p).link = .up then
    if 2 ≤ (s.port p).linkQueue.length then
      s.countPort p fun c => { c with llDrop := up c.llDrop }
    else startLinkLocal p
      (s.onPort p fun x => { x with linkQueue := x.linkQueue ++ [.hold s.ownId t] })
  else s

/-! ### Congestion (R80, R82) -/

/-- The congestion of port `p` begins: refresh timer, HOLD(t) on the other port, CONGESTED (R80). -/
def startCongestion (p : PortId) (s : State) : State :=
  offerHold (other p) s.holdTime
    (s.onPort p fun x => { x with
      refreshAt := some s.refreshDue
      counts := { x.counts with congested := up x.counts.congested } })

/-- The congestion of port `p` ends: the timer stops and HOLD(0) is offered on the other port (R82). -/
def endCongestion (p : PortId) (s : State) : State :=
  offerHold (other p) 0 (s.onPort p fun x => { x with refreshAt := none })

/-- A frame has joined lane 2: the port becomes congested at the high mark (R80). -/
def lane2Rose (p : PortId) (s : State) : State :=
  if !(s.port p).congested && decide (s.highMark ≤ (s.port p).queue2.length) then startCongestion p s
  else s

/-- Frames have left lane 2: the port ceases to be congested below the low mark (R82). -/
def lane2Fell (p : PortId) (s : State) : State :=
  if (s.port p).congested && decide ((s.port p).queue2.length < s.lowMark) then endCongestion p s
  else s

/-! ### Staleness and the arbiter (R63, R65) -/

/-- An AIR frame at the head of lane 1 is stale: its index is below the current index minus 8 (R65). -/
def State.staleFrame (s : State) (frame : Bytes) : Bool :=
  match s.tlu.currentIndex with
  | none => false
  | some n => decide ((airIndex frame).toInt < n.toInt - 8)

/-- Remove the stale frames that stand at the head of lane 1, one after the other (R65). -/
def dropStale (p : PortId) (s : State) : State :=
  s.onPort p fun x =>
    let q := x.queue1.dropWhile s.staleFrame
    { x with
      queue1 := q
      counts := { x.counts with airStale := upBy x.counts.airStale (x.queue1.length - q.length) } }

/-- The arbiter: while the transmitter is idle, start the head of the first eligible queue (R63). -/
def kick (p : PortId) (s : State) : State :=
  let x := s.port p
  if x.tx.isSome then s
  else match x.linkQueue, x.queue0, x.queue1, x.queue2 with
    | _ :: _, _, _, _ => startLinkLocal p s
    | [], f :: rest, _, _ =>
      s.onPort p fun x => { x with queue0 := rest, tx := some (.ring 0 f) }
    | [], [], f :: rest, _ =>
      dropStale p (s.onPort p fun x => { x with queue1 := rest, tx := some (.ring 1 f) })
    | [], [], [], f :: rest =>
      if x.held then s
      else lane2Fell p (s.onPort p fun x => { x with queue2 := rest, tx := some (.ring 2 f) })
    | [], [], [], [] => s

/-! ### Offers to the lane queues (R61) -/

/-- The outcomes of an offer (Table 4-8). -/
inductive Offer where
  | queued
  | full
  | notOpen
  deriving DecidableEq, Repr

/-- The capacity of a lane queue (Table 4-7). -/
def laneCapacity : Nat → Nat
  | 0 => 32
  | 1 => 64
  | _ => 128

/-- The frames waiting in a lane queue. -/
def Port.laneQueue (x : Port) : Nat → List Bytes
  | 0 => x.queue0
  | 1 => x.queue1
  | _ => x.queue2

/-- A lane passes frames: lane 0 with the port UP, lanes 1 and 2 when OPEN (R61). -/
def Port.laneOpen (x : Port) : Nat → Bool
  | 0 => x.link == .up
  | 1 => x.link == .up && x.lane1 == .opened
  | _ => x.link == .up && x.lane2 == .opened

/-- The answer to an offer of a frame to a lane (Table 4-8). -/
def Port.offer (x : Port) (lane : Nat) : Offer :=
  if !x.laneOpen lane then .notOpen
  else if laneCapacity lane ≤ (x.laneQueue lane).length then .full
  else .queued

/-- QFULL of a lane. -/
def countFull (lane : Nat) (c : PortCounts) : PortCounts :=
  match lane with
  | 0 => { c with qfullL0 := up c.qfullL0 }
  | 1 => { c with qfullL1 := up c.qfullL1 }
  | _ => { c with qfullL2 := up c.qfullL2 }

/-- A frame joins the tail of a lane queue. -/
def Port.join (x : Port) (lane : Nat) (f : Bytes) : Port :=
  match lane with
  | 0 => { x with queue0 := x.queue0 ++ [f] }
  | 1 => { x with queue1 := x.queue1 ++ [f] }
  | _ => { x with queue2 := x.queue2 ++ [f] }

/-- What follows a join: the stale check of a frame that joins an empty lane 1 (R65), and the high mark
of lane 2 (R80). -/
def afterJoin (p : PortId) (lane : Nat) (s : State) : State :=
  match lane with
  | 0 => s
  | 1 => if (s.port p).queue1.length = 1 then dropStale p s else s
  | _ => lane2Rose p s

/-- Offer a ring-wide frame to a lane of one port; the answer is `Port.offer` of the port before (R61). -/
def offerFrame (p : PortId) (lane : Nat) (f : Bytes) (s : State) : State :=
  match (s.port p).offer lane with
  | .notOpen => s
  | .full => s.countPort p (countFull lane)
  | .queued => kick p (afterJoin p lane (s.onPort p fun x => x.join lane f))

/-! ### Lane states (R59, R60) -/

/-- A lane as its port enters UP, or as ARM enables it (Table 4-6). -/
def laneOnUp (own enable seen : Bool) : LaneState :=
  if own then (if enable && seen then .opened else .pending) else .closed

/-- A lane as a valid HELLO is taken in UP (Table 4-6). -/
def laneOnHello (own enable seen : Bool) : LaneState → LaneState
  | .closed => if own && enable then (if seen then .opened else .pending) else .closed
  | .pending => if enable then (if seen then .opened else .pending) else .closed
  | .opened => if enable then (if seen then .opened else .pending) else .closed

/-- A lane leaves OPEN. -/
def leavesOpen (before after : LaneState) : Bool := before == .opened && after != .opened

/-- A lane falls from OPEN to PENDING (LANE_RESYNC). -/
def resyncs (before after : LaneState) : Bool := before == .opened && after == .pending

/-- The port with lanes 1 and 2 in new states; a lane that leaves OPEN flushes its queue (R60). -/
def Port.setLanes (x : Port) (l1 l2 : LaneState) : Port :=
  let n1 := if leavesOpen x.lane1 l1 then x.queue1.length else 0
  let n2 := if leavesOpen x.lane2 l2 then x.queue2.length else 0
  { x with
    lane1 := l1
    lane2 := l2
    queue1 := if leavesOpen x.lane1 l1 then [] else x.queue1
    queue2 := if leavesOpen x.lane2 l2 then [] else x.queue2
    counts := { x.counts with
      flushL1 := upBy x.counts.flushL1 n1
      flushL2 := upBy x.counts.flushL2 n2
      laneResync := upIf (resyncs x.lane2 l2) (upIf (resyncs x.lane1 l1) x.counts.laneResync) } }

/-- Lanes 1 and 2 of a port move to new states; a change queues an extra HELLO (R45, R59). -/
def moveLanes (p : PortId) (l1 l2 : LaneState) (s : State) : State :=
  let x := s.port p
  let t := lane2Fell p (s.onPort p fun x => x.setLanes l1 l2)
  if x.lane1 = l1 ∧ x.lane2 = l2 then t else offerHello p t

/-! ### Leaving and entering UP (R53, R55, R57) -/

/-- The frame in transmission that goes on as its port goes to DOWN: a HELLO alone (R55, Table 4-9). -/
def txInDown : Option TxFrame → Option TxFrame
  | some (.hello b) => some (.hello b)
  | some (.hold _ _) | some (.ring _ _) | none => none

/-- The port as it goes to DOWN, from whatever link state: a ring-wide or HOLD frame in transmission is
aborted and counted (R64, Table 4-9). -/
def Port.abort (x : Port) : Port :=
  { x with
    tx := txInDown x.tx
    counts := { x.counts with
      txAbort := upIf (x.tx.isSome && (txInDown x.tx).isNone) x.counts.txAbort } }

/-- A link-local frame is a HELLO. -/
def LinkFrame.isHello : LinkFrame → Bool
  | .hello => true
  | .hold _ _ => false

/-- The port as it leaves UP for a link state (R55); the frame in transmission is not touched. -/
def Port.leave (x : Port) (dest : LinkState) : Port :=
  { x with
    link := dest
    seen1 := false
    seen2 := false
    lane1 := .closed
    lane2 := .closed
    linkQueue := x.linkQueue.filter LinkFrame.isHello
    queue0 := []
    queue1 := []
    queue2 := []
    heldUntil := none
    refreshAt := none
    counts := { x.counts with
      flushL0 := upBy x.counts.flushL0 x.queue0.length
      flushL1 := upBy x.counts.flushL1 x.queue1.length
      flushL2 := upBy x.counts.flushL2 x.queue2.length
      flushLL := upBy x.counts.flushLL (x.linkQueue.filter fun f => !f.isHello).length
      linkLost := up x.counts.linkLost } }

/-- A port leaves UP (R55): the port's own changes, the end of its congestion on the other port, the
extra HELLO for lanes that close, and LINK. -/
def leaveUp (p : PortId) (dest : LinkState) (s : State) : State :=
  let x := s.port p
  let t := s.onPort p fun x => x.leave dest
  let t := if x.congested then offerHold (other p) 0 t else t
  let t := if x.lane1 = .closed ∧ x.lane2 = .closed then t else offerHello p t
  raiseAttn .link (.link p dest) (startLinkLocal p t)

/-- A port goes to DOWN, and straight on to LISTEN when carrier is present (R49, R53). A transmitter that an
abort leaves idle starts a HELLO that waits (R63, R64). -/
def goDown (p : PortId) (s : State) : State :=
  let t := s.onPort p Port.abort
  let t := if (s.port p).link = .up then leaveUp p .down t else startLinkLocal p t
  t.onPort p fun x => { x with
    link := if x.carrier then .listen else .down
    cause := {}
    neighbour := none
    silence := none }

/-- When a silence timer restarted now expires (R53). -/
def State.silenceDue (s : State) : Time := s.now + millis 4

/-- The port as it takes a HELLO into its neighbour record and restarts its silence timer (R50). -/
def Port.heard (x : Port) (h : Neighbour) (due : Time) : Port :=
  { x with neighbour := some h, silence := some due }

/-- A port enters UP with the HELLO that brought it there (R57). -/
def enterUp (p : PortId) (h : Neighbour) (s : State) : State :=
  offerHello p (s.onPort p fun x => { x.heard h s.silenceDue with
    link := .up
    cause := {}
    seen1 := h.enable1
    seen2 := h.enable2
    lane1 := laneOnUp s.lku.enabled h.enable1 h.seen1
    lane2 := laneOnUp s.lku.enabled h.enable2 h.seen2
    heldUntil := none
    refreshAt := none })

/-! ### HELLO taken (R50 to R52) -/

/-- The cause a HELLO shows for barring its sender (Table 4-3). -/
def State.barCauseOf (s : State) (h : Neighbour) : BarCause :=
  { digest := s.lku.digest != some h.digest, dupid := h.station == s.ownId }

/-- No cause. -/
def BarCause.clear (c : BarCause) : Bool := !c.digest && !c.dupid

/-- A port is BARRED with a cause; each cause that the old one lacks is counted and raised (Table 4-3,
R51). The manual names no content for the cause of this DUPID attention, and the model holds the port (DESIGN
CHOICE, log 60). -/
def barPort (p : PortId) (old new : BarCause) (h : Neighbour) (s : State) : State :=
  let t := s.onPort p fun x => { x.heard h s.silenceDue with
    link := .barred
    cause := new
    counts := { x.counts with
      barredDigest := upIf (new.digest && !old.digest) x.counts.barredDigest
      barredDupid := upIf (new.dupid && !old.dupid) x.counts.barredDupid } }
  let t := if new.digest && !old.digest then raiseAttn .link (.link p .barred) t else t
  if new.dupid && !old.dupid then raiseAttn .dupid (.barredDupid p) t else t

/-- A valid HELLO taken in LISTEN, or as if in LISTEN (R50). -/
def listenHello (p : PortId) (h : Neighbour) (s : State) : State :=
  if (s.barCauseOf h).clear then enterUp p h s else barPort p {} (s.barCauseOf h) h s

/-- A valid HELLO of the same neighbour taken in UP (R52, R56, R59). -/
def keepUp (p : PortId) (h : Neighbour) (s : State) : State :=
  let x := s.port p
  moveLanes p (laneOnHello s.lku.enabled h.enable1 h.seen1 x.lane1)
    (laneOnHello s.lku.enabled h.enable2 h.seen2 x.lane2)
    (s.onPort p fun x => { x.heard h s.silenceDue with seen1 := h.enable1, seen2 := h.enable2 })

/-- A valid HELLO is taken according to the link state (R50 to R52). -/
def helloTaken (p : PortId) (h : Neighbour) (s : State) : State :=
  let x := s.port p
  match x.link with
  | .down => s
  | .listen => listenHello p h s
  | .barred =>
    if (s.barCauseOf h).clear then enterUp p h s else barPort p x.cause (s.barCauseOf h) h s
  | .up =>
    if (s.barCauseOf h).clear then
      if x.neighbour.map (·.station) = some h.station then keepUp p h s
      else listenHello p h (leaveUp p .listen
        (s.countPort p fun c => { c with neighbourChange := up c.neighbourChange }))
    else barPort p {} (s.barCauseOf h) h (leaveUp p .barred s)

/-! ### HOLD taken (R79, R84, R85) -/

/-- Lane 2 of a port is released, and its KEEP frames become eligible (R85). -/
def releaseLane2 (p : PortId) (s : State) : State :=
  kick p (s.onPort p fun x => { x with heldUntil := none })

/-- A valid HOLD of the neighbour is taken in UP: a hold, or a release for a time of 0 (R84, R85). -/
def obeyHold (p : PortId) (t : Nat) (s : State) : State :=
  if t = 0 then
    releaseLane2 p (s.countPort p fun c => { c with releaseTaken := up c.releaseTaken })
  else s.onPort p fun x => { x with
    heldUntil := some (s.now + micros t)
    counts := { x.counts with holdTaken := up x.counts.holdTaken } }

/-- A HOLD frame with a good CRC (R54, R79): its length, then the link state, then its sender. -/
def holdTaken (p : PortId) (bs : Bytes) (s : State) : State :=
  let bad := s.countPort p fun c => { c with rxBadHold := up c.rxBadHold }
  if bs.length ≠ 8 then bad
  else match (s.port p).link with
    | .down => s
    | .listen | .barred => s.countPort p fun c => { c with rxNotUp := up c.rxNotUp }
    | .up =>
      if (s.port p).neighbour.map (·.station) = some (byteAt bs 1) then
        obeyHold p (min 10000 (wordAt16 bs 2)) s
      else bad

/-! ### Transmission (R64) -/

/-- The count made when a frame has been sent: HOLD_SENT or RELEASE_SENT for a HOLD (R83). -/
def countSent (f : TxFrame) (c : PortCounts) : PortCounts :=
  match f with
  | .hold t _ =>
    if t = 0 then { c with releaseSent := up c.releaseSent } else { c with holdSent := up c.holdSent }
  | .hello _ => c
  | .ring _ _ => c

/-- ARM enables lanes 1 and 2: a CLOSED lane of an UP port moves by the neighbour record (R59, R66). -/
def enablePort (p : PortId) (s : State) : State :=
  let x := s.port p
  match x.link, x.neighbour with
  | .up, some h =>
    moveLanes p
      (if x.lane1 = .closed then laneOnUp true h.enable1 h.seen1 else x.lane1)
      (if x.lane2 = .closed then laneOnUp true h.enable2 h.seen2 else x.lane2) s
  | _, _ => s

/-- ARM reaches the Link Unit; from DONE it finds the lanes enabled and changes nothing (R66). -/
def enableLanes (s : State) : State :=
  if s.lku.enabled then s
  else enablePort .b (enablePort .a (s.onLku fun k => { k with enabled := true }))

end Sys2Proof.Machine
end

