-- ==== Sys2Proof/Machine/Spool.lean ====
section
/-! DEFINITION. The Keep Spool: append, freeing, go-back, and the conditions of the drain (chapter 9). -/

namespace Sys2Proof.Machine

/-- The capacity of the spool (R149). -/
def spoolCapacity : Nat := 262144

/-- The retained entries, write − free (R150). -/
def Ksp.retained (k : Ksp) : Nat := (k.write - k.free).toNat

/-- The undrained entries, write − drain (R150). -/
def Ksp.undrained (k : Ksp) : Nat := (k.write - k.drain).toNat

/-- The drained entries, drain − free (R150). -/
def Ksp.drained (k : Ksp) : Nat := (k.drain - k.free).toNat

/-- The spool is full (R150). -/
def Ksp.full (k : Ksp) : Bool := decide (spoolCapacity ≤ k.retained)

/-! ### Append (R151) -/

/-- A KEEP record becomes the entry of sequence write (R151). -/
def Ksp.append (b : KeepBody) (k : Ksp) : Ksp :=
  { k with
    entries := k.entries ++ [{ b with sequence := k.write, lossBefore := k.lostRun }]
    write := k.write + 1
    lostRun := 0
    counts := { k.counts with spoolAppended := up k.counts.spoolAppended } }

/-- A KEEP record is refused for a full spool (R151). -/
def Ksp.lose (k : Ksp) : Ksp :=
  { k with
    lostRun := up k.lostRun
    counts := { k.counts with spoolLost := up k.counts.spoolLost } }

/-- A KEEP record is handed to the spool, from ARMED onward (R151). -/
def appendKeep (b : KeepBody) (s : State) : State :=
  if !s.armedOnward then s
  else if s.ksp.full then
    let t := s.onKsp Ksp.lose
    if s.ksp.lostRun = 0 then raiseAttn .spool (.spoolFull s.ksp.write) t else t
  else s.onKsp (Ksp.append b)

/-! ### Freeing (R154, R155) -/

/-- The kept sequence a peer reports for this station's current incarnation, when it is attached (R154). The
manual refuses no kept list that names one origin and incarnation twice (R120), and does not say which of the
two sequences counts: the model takes the first in the list (DESIGN CHOICE, log 55). -/
def Peer.attached (own : Nat) (incarnation : Word) (p : Peer) : Option Word :=
  if p.keepRole then
    (p.keptList.find? fun e => e.origin == own && e.incarnation == incarnation).map (·.kept)
  else none

/-- The kept sequence of the own Keep Outlet, when it is counted (R154). -/
def State.ownKept (s : State) (incarnation : Word) : Option Word :=
  if s.keepRole then
    (atStation s.kou.take s.ownId).bind fun e =>
      if e.incarnation = incarnation then some e.lastSent else none
  else none

/-- The outlets counted for freeing, with their kept sequences, in ascending station id (R154). -/
def State.countedOutlets (s : State) : List (Nat × Word) :=
  match s.tlu.incarnation with
  | none => []
  | some inc =>
    (List.range 16).filterMap fun i =>
      let id := i + 1
      if id = s.ownId then (s.ownKept inc).map fun k => (id, k)
      else (atStation s.pcu.peers id).bind fun p => (p.attached s.ownId inc).map fun k => (id, k)

/-- The oldest of a list of sequences, each compared with the oldest before it in the list; of two exactly 2^31
apart the one before stays (DESIGN CHOICE, log 56). -/
def oldestOf : List Word → Option Word
  | [] => none
  | x :: rest => some (rest.foldl olderOf x)

/-- The target of freeing: the older of drain and 1 plus the oldest kept sequence (R155); drain where the two
lie exactly 2^31 apart (DESIGN CHOICE, log 56). -/
def State.freeTarget (s : State) : Option Word :=
  (oldestOf (s.countedOutlets.map (·.2))).map fun k => olderOf s.ksp.drain (k + 1)

/-- When a resend timer started now expires (R156). -/
def State.resendDue (s : State) : Time := s.now + millis ((s.csu.config.map (·.resend)).getD 0)

/-- Free takes a target newer than it; the timer restarts, or stops when free reaches drain (R155,
R156). -/
def moveFree (target : Word) (s : State) : State :=
  let n := (target - s.ksp.free).toNat
  s.onKsp fun k => { k with
    entries := k.entries.drop n
    free := target
    resendAt := if target = k.drain then none else some s.resendDue
    counts := { k.counts with spoolFreed := upBy k.counts.spoolFreed n } }

/-- An update taken at the instant of a go-back, and behind it (Table 9-3, log 44). -/
def State.meetsGoBack (s : State) : Bool := s.ksp.wentBack == some s.now

/-- The spool recomputes free at a kept-position update (R155). The first update that falls together with a
go-back and is taken behind it does not move free: the outlets' next report does (R157). -/
def recomputeFree (s : State) : State :=
  match s.freeTarget with
  | none => s
  | some t =>
    if newer t s.ksp.free then
      if s.meetsGoBack then s.onKsp fun k => { k with wentBack := none } else moveFree t s
    else s

/-! ### The drain's conditions and go-back (R152, R156) -/

/-- The first condition of R152 that fails at an UP port. -/
def State.portBlock (s : State) (p : PortId) : Option DrainBlock :=
  let x := s.port p
  if x.link ≠ .up then none
  else if x.lane2 ≠ .opened then some (.laneNotOpen p)
  else if x.held then some (.laneHeld p)
  else if x.congested then some (.portCongested p)
  else if s.highMark < x.queue2.length + 2 then some (.laneFull p)
  else none

/-- The free places of the archive queue (R162). -/
def Kou.room (k : Kou) : Nat := 64 - k.queue.length

/-- No port is UP. -/
def State.noPortUp (s : State) : Bool :=
  decide ((s.port .a).link ≠ .up) && decide ((s.port .b).link ≠ .up)

/-- The condition of R152 when no port is UP. -/
def State.outletBlock (s : State) : Option DrainBlock :=
  if !s.noPortUp then none
  else if !s.keepRole then some .noOutlet
  else if s.kou.room < 2 then some .archiveFull
  else none

/-- The station state is RUNNING or ENDING. -/
def State.performing (s : State) : Bool :=
  s.tlu.station == .running || s.tlu.station == .ending

/-- The first condition of R152 that fails; none when the drain may send. Where it fails at both UP ports
the one of port A is named, alone (DESIGN CHOICE, log 53). -/
def State.drainBlock (s : State) : Option DrainBlock :=
  if !s.performing then some .stationState
  else if s.muted then some .muted
  else if s.ksp.drain = s.ksp.write then some .nothingUndrained
  else match s.portBlock .a, s.portBlock .b with
    | some x, _ => some x
    | none, some y => some y
    | none, none => s.outletBlock

/-- The entry at drain. -/
def Ksp.atDrain (k : Ksp) : Option KeepBody := k.entries[k.drained]?

/-- Drain increments after an entry has been sent; the resend timer starts when drain moves ahead of a
free equal to it (R153, R156). -/
def advanceDrain (s : State) : State :=
  s.onKsp fun k => { k with
    drain := k.drain + 1
    resendAt := if k.free = k.drain then some s.resendDue else k.resendAt
    counts := { k.counts with keepDrained := up k.counts.keepDrained } }

/-- A go-back, made at a time: drain takes the value of free (R156). -/
def Ksp.goBack (now : Time) (k : Ksp) : Ksp :=
  { k with
    drain := k.free
    resendAt := none
    wentBack := some now
    counts := { k.counts with
      rewind := up k.counts.rewind
      rewindEntries := upBy k.counts.rewindEntries k.drained } }

/-- The spool at ARM (R158). -/
def Ksp.atArm (k : Ksp) : Ksp :=
  { k with
    entries := []
    free := 0
    drain := 0
    write := 0
    lostRun := 0
    resendAt := none
    wentBack := none
    counts := { k.counts with spoolDiscarded := upBy k.counts.spoolDiscarded k.retained } }

end Sys2Proof.Machine
end

