-- ==== Sys2Proof/Machine/KeepOutlet.lean ====
section
/-! DEFINITION. The Keep Outlet: the take table, the archive queue and the archive feed line (chapter 9). -/

namespace Sys2Proof.Machine

/-! ### The archive feed line (R163) -/

/-- Move records from the queue into free line buffers. -/
def fillLines : Nat → Kou → Kou
  | 0, k => k
  | n + 1, k =>
    match k.queue with
    | [] => k
    | r :: rest =>
      if k.lines.length < 2 then fillLines n { k with queue := rest, lines := placeRecord r k.lines }
      else k

/-- The archive line driver: driven while the loaded configuration gives the KEEP outlet role (R163). -/
def State.archiveDriven (s : State) : Bool := s.keepRole

/-- The outlet looks for a move into a buffer and for a start (R163). -/
def archiveSettle (s : State) : State :=
  s.onKou fun k =>
    let filled := fillLines 2 k
    if s.archiveDriven && k.ready then { filled with lines := startRecord filled.lines } else filled

/-! ### KEEP frames (R160) -/

/-- A change of the own kept position reaches the own spool (R155, R165). -/
def tellOwnSpool (origin : Nat) (incarnation : Word) (s : State) : State :=
  if origin = s.ownId ∧ s.tlu.incarnation = some incarnation then recomputeFree s else s

/-- The results of Table 9-6. -/
inductive TakeResult where
  | start
  | taken
  | gap
  | duplicate
  | ahead
  | stale
  | queueFull
  deriving DecidableEq, Repr

/-- A frame judged against a place of the same incarnation (Table 9-6). With s newer than next take and a floor
exactly 2^31 from next take the table's row for a floor that is not newer and R160's word on values 2^31 away
disagree: the model takes the frame as ahead (DESIGN CHOICE, log 59). -/
def judgeSequence (e : TakeEntry) (s floor : Word) (room : Nat) : TakeResult :=
  if s = e.nextTake then (if 1 ≤ room then .taken else .queueFull)
  else if newer e.nextTake s then .duplicate
  else if newer s e.nextTake then
    if newer floor e.nextTake then (if 2 ≤ room then .gap else .queueFull)
    else .ahead
  else .stale

/-- A KEEP frame judged against the place of its origin (Table 9-6). -/
def judgeKeep (place : Option TakeEntry) (incarnation s floor : Word) (room : Nat) : TakeResult :=
  match place with
  | none => if 2 ≤ room then .start else .queueFull
  | some e =>
    if e.incarnation = incarnation then judgeSequence e s floor room
    else if newer incarnation e.incarnation then (if 2 ≤ room then .start else .queueFull)
    else .stale

/-- Replace the place of an origin and queue records. -/
def Kou.takeInto (origin : Nat) (e : TakeEntry) (rs : List ArchiveRecord) (k : Kou) : Kou :=
  { k with take := setStation k.take origin (some e), queue := k.queue ++ rs }

/-- The counters of one judged frame, a gap at the floor apart (Table 9-6). -/
def TakeResult.count (r : TakeResult) (c : KouCounts) : KouCounts :=
  match r with
  | .start => { c with takeJoin := up c.takeJoin, takeData := up c.takeData }
  | .taken => { c with takeData := up c.takeData }
  | .gap => { c with takeGap := up c.takeGap }
  | .duplicate => { c with takeDup := up c.takeDup }
  | .ahead => { c with takeAhead := up c.takeAhead }
  | .stale => { c with takeStale := up c.takeStale }
  | .queueFull => { c with takeQueueFull := up c.takeQueueFull }

/-- The outlet with the effect of a judged frame on its take table and queue (Table 9-6). -/
def Kou.judged (origin : Nat) (incarnation : Word) (b : KeepBody) (floor : Word) (r : TakeResult)
    (k : Kou) : Kou :=
  let k := { k with counts := r.count k.counts }
  match r with
  | .start => k.takeInto origin
      { incarnation := incarnation, nextTake := b.sequence + 1, lastSent := b.sequence - 1 }
      [.join origin incarnation b.sequence, .data origin incarnation b]
  | .taken => k.takeInto origin
      { incarnation := incarnation
        nextTake := b.sequence + 1
        lastSent := ((atStation k.take origin).map (·.lastSent)).getD 0 }
      [.data origin incarnation b]
  | .gap =>
    if b.sequence = floor then
      { k with counts := { k.counts with takeData := up k.counts.takeData } }.takeInto origin
        { incarnation := incarnation, nextTake := floor + 1, lastSent := floor - 1 }
        [.join origin incarnation floor, .data origin incarnation b]
    else
      { k with counts := { k.counts with takeAhead := up k.counts.takeAhead } }.takeInto origin
        { incarnation := incarnation, nextTake := floor, lastSent := floor - 1 }
        [.join origin incarnation floor]
  | .duplicate | .ahead | .stale | .queueFull => k

/-- A KEEP frame reaches the Keep Outlet, from ARMED onward (R160). -/
def takeKeep (origin : Nat) (incarnation : Word) (b : KeepBody) (floor : Word) (s : State) : State :=
  if !s.armedOnward then s
  else
    let r := judgeKeep (atStation s.kou.take origin) incarnation b.sequence floor s.kou.room
    let t := archiveSettle (s.onKou (Kou.judged origin incarnation b floor r))
    match r with
    | .start | .gap => tellOwnSpool origin incarnation t
    | .taken | .duplicate | .ahead | .stale | .queueFull => t

/-! ### Kept positions (R165) -/

/-- A record has completed: a DATA record newer than last sent, of the incarnation the place holds,
advances last sent (R165). -/
def recordSent (r : ArchiveRecord) (s : State) : State :=
  match r with
  | .join _ _ _ => s
  | .data origin incarnation b =>
    match atStation s.kou.take origin with
    | none => s
    | some e =>
      if e.incarnation = incarnation ∧ newer b.sequence e.lastSent then
        tellOwnSpool origin incarnation (s.onKou fun k => { k with
          take := setStation k.take origin (some { e with lastSent := b.sequence }) })
      else s

/-- The kept list of a BEACON (R165). -/
def State.keptList (s : State) : List KeptEntry :=
  (places s.kou.take).map fun p =>
    { origin := p.1, incarnation := p.2.incarnation, kept := p.2.lastSent }

end Sys2Proof.Machine
end

