-- ==== Sys2Proof/Machine/Outlet.lean ====
section
/-! DEFINITION. The Air Outlet: the slot window, emission, the conceal store, the program feed line and the
cut state (chapter 8). -/

namespace Sys2Proof.Machine

/-! ### Arrivals (R131, R132) -/

/-- An AIR segment as the Air Outlet takes it (section 8.3). -/
structure Arrival where
  track : Nat
  origin : Nat
  index : Index
  load : AirPayload
  deriving DecidableEq, Repr

/-- The classifications of an arrival (Table 8-3). -/
inductive ArrivalClass where
  | ahead
  | late
  | unexpected
  | stray
  | duplicate
  | stored
  deriving DecidableEq, Repr

/-- The places of a slot that hold a segment: the arrived count (R128). -/
def Slot.arrived (t : Slot) : Nat := (t.expected.filter fun e => e.arrived.isSome).length

/-- A slot is OPEN. -/
def Slot.isOpen (t : Slot) : Bool :=
  match t.state with
  | .opened _ => true
  | .closed _ => false

/-- The slot of an index in the window (R128). -/
def Aou.slotOf (u : Aou) (n : Index) : Option Slot := u.window.find? fun t => t.index == n

/-- The class of an arrival: the first row of Table 8-3 that applies (R131). -/
def Aou.classify (u : Aou) (a : Arrival) : ArrivalClass :=
  match u.openMark with
  | none => .ahead
  | some m =>
    if indexLt m a.index then .ahead
    else match u.slotOf a.index with
      | none => .late
      | some t =>
        if !t.isOpen then .late
        else match t.expected.find? fun e => e.track == a.track with
          | none => .unexpected
          | some e =>
            if e.origin ≠ a.origin then .stray
            else if e.arrived.isSome then .duplicate
            else .stored

/-- Count an arrival by its classification. -/
def ArrivalClass.count (k : ArrivalClass) (c : AouCounts) : AouCounts :=
  match k with
  | .ahead => { c with arrAhead := up c.arrAhead }
  | .late => { c with arrLate := up c.arrLate }
  | .unexpected => { c with arrUnexpected := up c.arrUnexpected }
  | .stray => { c with arrStray := up c.arrStray }
  | .duplicate => { c with arrDuplicate := up c.arrDuplicate }
  | .stored => { c with arrStored := up c.arrStored }

/-- A slot with the segment in the place of its track; a slot whose every place is filled closes
COMPLETE (R132). -/
def Slot.store (a : Arrival) (t : Slot) : Slot :=
  let filled := { t with
    expected := t.expected.map fun e =>
      if e.track = a.track then { e with arrived := some a.load } else e }
  if filled.arrived = filled.expected.length then { filled with state := .closed .complete } else filled

/-- Change the slot of an index. -/
def updateSlot (n : Index) (f : Slot → Slot) (ts : List Slot) : List Slot :=
  ts.map fun t => if t.index = n then f t else t

/-! ### Resolution of an emitted slot (R135 to R137) -/

/-- A SILENT entry (Table 8-4). -/
def silentEntry (e : Expected) : SlotEntry :=
  { track := e.track, origin := e.origin, kind := .silent, grade := 0, damage := false, payload := [] }

/-- An entry that carries a payload. -/
def payloadEntry (kind : EntryKind) (e : Expected) (a : AirPayload) : SlotEntry :=
  { track := e.track, origin := e.origin, kind := kind, grade := a.grade, damage := a.damage
    payload := a.payload }

/-- The miss run after one more miss (R135). -/
def ConcealPlace.missed (c : ConcealPlace) : ConcealPlace := { c with missRun := min 255 (c.missRun + 1) }

/-- The entry of an expected track and its conceal store place afterwards (Table 8-4). -/
def resolveTrack (limit : Nat) (e : Expected) (c : ConcealPlace) : SlotEntry × ConcealPlace :=
  match e.arrived with
  | some a => (payloadEntry .arrived e a, { last := some a, missRun := 0 })
  | none =>
    match c.last with
    | some a =>
      if c.missed.missRun ≤ limit then (payloadEntry .repeated e a, c.missed)
      else (silentEntry e, c.missed)
    | none => (silentEntry e, c.missed)

/-- Resolve the expected tracks in turn against the conceal store (R136). -/
def resolveAll (limit : Nat) : List Expected → List ConcealPlace → List SlotEntry × List ConcealPlace
  | [], store => ([], store)
  | e :: rest, store =>
    let r := resolveTrack limit e (store.getD e.track {})
    let q := resolveAll limit rest (store.set e.track r.2)
    (r.1 :: q.1, q.2)

/-- The configured conceal limit (Table 8-1). -/
def State.concealLimit (s : State) : Nat := (s.csu.config.map (·.conceal)).getD 0

/-- The entries of a slot and the conceal store after its emission: under a QUIET cut every track is
SILENT and the store is left as it was (R136, R143). -/
def State.resolveSlot (s : State) (t : Slot) : List SlotEntry × List ConcealPlace :=
  if s.isCut then (t.expected.map silentEntry, s.aou.conceal)
  else resolveAll s.concealLimit t.expected s.aou.conceal

/-- The entries of a kind in a record. -/
def entriesOf (k : EntryKind) (es : List SlotEntry) : Nat := (es.filter fun e => e.kind == k).length

/-- The slot record made at emission (Table 8-5). -/
def State.slotRecord (s : State) (t : Slot) (cause : CloseCause) : SlotRecord :=
  { station := s.ownId
    incarnation := s.tlu.incarnation.getD 0
    index := t.index
    cut := s.isCut
    cause := cause
    expected := t.expected.length
    arrived := t.arrived
    entries := (s.resolveSlot t).1 }

/-- Emit the oldest slot, CLOSED with a cause: resolve it, place its record, count it (R134). -/
def emitSlot (t : Slot) (cause : CloseCause) (rest : List Slot) (s : State) : State :=
  let r := s.slotRecord t cause
  s.onAou fun u => { u with
    window := rest
    conceal := (s.resolveSlot t).2
    feed := placeRecord r u.feed
    counts := { u.counts with
      slotEmitted := up u.counts.slotEmitted
      entryArrived := upBy u.counts.entryArrived (entriesOf .arrived r.entries)
      entryRepeat := upBy u.counts.entryRepeat (entriesOf .repeated r.entries)
      entrySilent := upBy u.counts.entrySilent (entriesOf .silent r.entries) } }

/-- Remove the oldest slot without sending it, under a STOP or FLOAT cut (R143). -/
def removeSlot (rest : List Slot) (s : State) : State :=
  s.onAou fun u => { u with
    window := rest
    counts := { u.counts with slotCut := up u.counts.slotCut } }

/-- Take emission opportunities at the head of the window, as long as there is one (R134, R143). -/
def drainWindow : Nat → State → State
  | 0, s => s
  | k + 1, s =>
    match s.aou.window with
    | [] => s
    | t :: rest =>
      match t.state with
      | .opened _ => s
      | .closed cause =>
        if s.cutSilent then drainWindow k (removeSlot rest s)
        else if s.aou.feed.length < 2 then drainWindow k (emitSlot t cause rest s)
        else s

/-- Start a WAITING record when the line is idle and driven and READY is high (R138). -/
def startFeed (s : State) : State :=
  if s.aou.driven && s.aou.ready then s.onAou fun u => { u with feed := startRecord u.feed } else s

/-- The Air Outlet looks for emission opportunities, then for a start (R134, R138). -/
def feedSettle (s : State) : State := startFeed (drainWindow s.aou.window.length s)

/-- An AIR segment reaches the Air Outlet (R131, R132). -/
def takeArrival (a : Arrival) (s : State) : State :=
  let k := s.aou.classify a
  let t := s.onAou fun u => { u with counts := k.count u.counts }
  if k = .stored then
    let window := updateSlot a.index (Slot.store a) s.aou.window
    let closes := window.any fun t => t.index == a.index && !t.isOpen
    feedSettle (t.onAou fun u => { u with
      window := window
      counts := { u.counts with slotComplete := upIf closes u.counts.slotComplete } })
  else t

/-! ### Slots at a boundary (R129, R130) -/

/-- The deadline of a slot that opens now: 10 ms and the latency budget (R129). -/
def State.slotDeadline (s : State) : Time :=
  s.now + millis 10 + millis ((s.csu.config.map (·.latency)).getD 0)

/-- Slot `n` joins the window in state OPEN (R129). -/
def joinSlot (n : Index) (expected : List Expected) (s : State) : State :=
  s.onAou fun u => { u with
    window := u.window ++ [{ index := n, state := .opened s.slotDeadline, expected := expected }]
    openMark := some n
    counts := { u.counts with slotOpened := up u.counts.slotOpened } }

/-- Slot `n` opens, or finds a full window (R130). -/
def openSlot (n : Index) (expected : List Expected) (s : State) : State :=
  if s.aou.window.length < 12 then joinSlot n expected s
  else match s.aou.window with
    | [] => joinSlot n expected s
    | t :: rest =>
      if t.isOpen then
        raiseAttn .feed (.slotRefused n) (s.onAou fun u => { u with
          openMark := some n
          counts := { u.counts with slotRefused := up u.counts.slotRefused } })
      else
        joinSlot n expected (raiseAttn .feed (.slotDropped t.index) (s.onAou fun u => { u with
          window := rest
          counts := { u.counts with feedOverrun := up u.counts.feedOverrun } }))

/-- The deadline of a slot that is OPEN (R128). -/
def Aou.deadlineOf (u : Aou) (n : Index) : Option Time :=
  (u.slotOf n).bind fun t =>
    match t.state with
    | .opened d => some d
    | .closed _ => none

/-! ### The cut state and the line driver (R140 to R144) -/

/-- The program feed buffers and the driver as the cut is entered (Table 8-8). -/
def Aou.stopFeed (m : CutMode) (u : Aou) : Aou :=
  let waiting := (u.feed.filter fun b => !b.sending).length
  let sending := u.feed.filter fun b => b.sending
  match m with
  | .quiet => u
  | .stop => { u with
      feed := sending
      counts := { u.counts with recDiscarded := upBy u.counts.recDiscarded waiting } }
  | .float => { u with
      feed := []
      driven := false
      counts := { u.counts with
        recDiscarded := upBy u.counts.recDiscarded waiting
        recTruncated := upBy u.counts.recTruncated sending.length } }

/-- The station enters CUT from CLEAR (R141, R142). -/
def enterCut (cause : CutCause) (s : State) : State :=
  feedSettle (raiseAttn .cut (.cutEntered cause) (s.onAou fun u =>
    ({ u with
      cut := some cause
      counts := { u.counts with cutEntered := up u.counts.cutEntered } } : Aou).stopFeed s.cutMode))

/-- A trigger reaches the cut state: ignored when its field is off, else counted and taken (R141). -/
def cutTrigger (field : Configuration → Bool) (cause : CutCause) (s : State) : State :=
  if (s.csu.config.map field).getD false then
    let t := s.onAou fun u => { u with counts := { u.counts with cutTrigger := up u.counts.cutTrigger } }
    if s.isCut then t else enterCut cause t
  else s

/-- The cut state leaves CUT; the driver is driven when the station has run since the reset (R140,
R144). -/
def leaveCut (s : State) : State :=
  feedSettle (s.onAou fun u => { u with
    cut := none
    driven := u.driven || (s.airRole && u.hasRun) })

/-- The station enters RUNNING: the first time after a reset the driver is driven, unless released by
role or by a FLOAT cut (R140). -/
def driveOnRunning (s : State) : State :=
  feedSettle (s.onAou fun u => { u with
    hasRun := true
    driven := u.driven ||
      (!u.hasRun && s.airRole && !(s.isCut && decide (s.cutMode = .float))) })

/-! ### Ending (R145) -/

/-- The condition of the finished report in ENDING (R145). -/
def State.outletPassed (s : State) : Bool :=
  match s.tlu.last with
  | none => false
  | some l =>
    s.aou.window.isEmpty &&
      ((s.aou.openMark.map fun m => indexLe l m).getD false ||
        (s.tlu.high.map fun h => indexLt l h).getD false)

/-- The Air Outlet reports finished, once in each ENDING (R145). -/
def reportFinished (s : State) : State :=
  if s.tlu.station = .ending ∧ s.airRole ∧ s.outletPassed then
    s.onAou fun u => { u with finished := true }
  else s

end Sys2Proof.Machine
end

