-- ==== Sys2Proof/Machine/Roster.lean ====
section
/-! DEFINITION. The track roster (chapter 6). -/

namespace Sys2Proof.Machine

/-! ### Entries (R89, R90, R96) -/

/-- The group of an entry; a BAR has none. -/
def Claim.group : Claim → Option Nat
  | .localTrack g => some g
  | .learned _ g _ => some g
  | .pin _ g => some g
  | .bar => none

/-- An entry is LEARNED from a station. -/
def Claim.learnedFrom (st : Nat) : Claim → Bool
  | .learned o _ _ => o == st
  | .localTrack _ | .pin _ _ | .bar => false

/-- An entry is LEARNED. -/
def Claim.isLearned : Claim → Bool
  | .learned _ _ _ => true
  | .localTrack _ | .pin _ _ | .bar => false

/-- An entry is LOCAL. -/
def Claim.isLocal : Claim → Bool
  | .localTrack _ => true
  | .learned _ _ _ | .pin _ _ | .bar => false

/-- The origin of an entry, for a station id; none for BAR (Table 6-1). -/
def Claim.origin (own : Nat) : Claim → Option Nat
  | .localTrack _ => some own
  | .learned o _ _ => some o
  | .pin o _ => some o
  | .bar => none

/-- The entry of a track. -/
def findClaim (track : Nat) (es : List RosterEntry) : Option Claim :=
  (es.find? fun e => e.track == track).map (·.claim)

/-- Put an entry in its place by track, replacing one of the same track (R89). -/
def putEntry (e : RosterEntry) : List RosterEntry → List RosterEntry
  | [] => [e]
  | x :: rest =>
    if e.track < x.track then e :: x :: rest
    else if e.track = x.track then e :: rest
    else x :: putEntry e rest

/-- The LEARNED count of a station (R96). -/
def learnedCount (st : Nat) (es : List RosterEntry) : Nat :=
  (es.filter fun e => e.claim.learnedFrom st).length

/-- The capacity of the roster (R90). -/
def rosterCapacity : Nat := 320

/-- The roster is full (R90). -/
def Rst.full (r : Rst) : Bool := decide (rosterCapacity ≤ r.entries.length)

/-- The claim limit configured for a station (Table 6-2). The manual gives no limit while no configuration
is loaded: the model takes 0 then, and SHOW ROSTER reports it (DESIGN CHOICE, log 51). -/
def State.claimLimit (s : State) (st : Nat) : Nat :=
  match s.csu.config, st with
  | some c, k + 1 => c.limits.getD k 0
  | _, _ => 0

/-- The claim guard is on (Table 6-2). -/
def State.guardOn (s : State) : Bool := (s.csu.config.map (·.guard)).getD false

/-! ### Violations (R99) -/

/-- Count a violation. -/
def Violation.count (v : Violation) (c : RstCounts) : RstCounts :=
  match v with
  | .frozen => { c with claimFrozen := up c.claimFrozen }
  | .limit => { c with claimLimit := up c.claimLimit }
  | .full => { c with claimFull := up c.claimFull }
  | .doubleClaim => { c with claimDouble := up c.claimDouble }
  | .barred => { c with claimBarred := up c.claimBarred }

/-- A violation is counted and raises CLAIM (R99). -/
def violate (v : Violation) (track station : Nat) (s : State) : State :=
  raiseAttn .claim (.claim v track station)
    (s.onRst fun r => { r with counts := v.count r.counts })

/-! ### AIR frames (R93 to R100) -/

/-- The judgement of an AIR frame whose group is on the air (Table 6-3). -/
inductive Judgement where
  | violation (v : Violation)
  | learn
  | refresh
  | move
  | accept
  deriving DecidableEq, Repr

/-- Table 6-3 (R94 to R98). -/
def State.judge (s : State) (origin track : Nat) : Judgement :=
  let atLimit := decide (s.claimLimit origin ≤ learnedCount origin s.rst.entries)
  match findClaim track s.rst.entries with
  | none =>
    if s.frozen then .violation .frozen
    else if atLimit then .violation .limit
    else if s.rst.full then .violation .full
    else .learn
  | some (.learned o _ _) =>
    if o = origin then .refresh
    else if s.guardOn then .violation .doubleClaim
    else if atLimit then .violation .limit
    else .move
  | some (.localTrack _) => .violation .doubleClaim
  | some (.pin o _) => if o = origin then .accept else .violation .doubleClaim
  | some .bar => .violation .barred

/-- The roster with the LEARNED entry an accepted frame makes, refreshes or moves (R95, R97, R98). -/
def Rst.learnFrom (origin : Nat) (a : AirBody) (r : Rst) : Rst :=
  { r with
    entries := putEntry { track := a.track, claim := .learned origin a.group a.index } r.entries }

/-- An accepted frame is counted, and offered to the Air Outlet of a station with the role (R100). -/
def acceptAir (origin : Nat) (a : AirBody) (s : State) : State :=
  let t := s.onRst fun r => { r with counts := { r.counts with airAccepted := up r.counts.airAccepted } }
  if s.airRole then
    takeArrival { track := a.track, origin := origin, index := a.index, load := a.load } t
  else t

/-- An AIR frame of another origin reaches the roster, from ARMED onward (R93, R94). -/
def rosterAir (origin : Nat) (a : AirBody) (s : State) : State :=
  if !s.armedOnward then s
  else if !(s.cueValue a.group).onAir then
    s.onRst fun r => { r with counts := { r.counts with airDark := up r.counts.airDark } }
  else match s.judge origin a.track with
    | .violation v => violate v a.track origin s
    | .learn => acceptAir origin a (s.onRst fun r => { r.learnFrom origin a with
        counts := { r.counts with rosterLearned := up r.counts.rosterLearned } })
    | .refresh => acceptAir origin a (s.onRst fun r => r.learnFrom origin a)
    | .move => acceptAir origin a (s.onRst fun r => { r.learnFrom origin a with
        counts := { r.counts with rosterMoved := up r.counts.rosterMoved } })
    | .accept => acceptAir origin a s

/-! ### Local and static entries (R92, R104) -/

/-- Make the LOCAL entry of a patched channel, or find its track held (Table 6-4). The station concerned is
the other one that the track's entry names, and this one in a FULL or a BARRED violation (DESIGN CHOICE,
log 29). -/
def makeLocal (e : PatchEntry) (s : State) : State :=
  let put := s.onRst fun r => { r with
    entries := putEntry { track := e.track, claim := .localTrack e.group } r.entries }
  match findClaim e.track s.rst.entries with
  | none => if s.rst.full then violate .full e.track s.ownId s else put
  | some (.localTrack _) => s
  | some (.learned o _ _) => violate .doubleClaim e.track o put
  | some (.pin o _) => violate .doubleClaim e.track o s
  | some .bar => violate .barred e.track s.ownId s

/-- Make the LOCAL entries of patched channels, in ascending channel order. -/
def makeLocals : List (Nat × PatchEntry) → State → State
  | [], s => s
  | (_, e) :: rest, s => makeLocals rest (makeLocal e s)

/-- The roster entry of a static list entry (R92). -/
def staticEntry : StaticEntry → RosterEntry
  | .pin track origin group => { track := track, claim := .pin origin group }
  | .bar track => { track := track, claim := .bar }

/-- The static list of the configuration. -/
def State.statics (s : State) : List StaticEntry := (s.csu.config.map (·.statics)).getD []

/-- The roster is emptied and filled at ARM (R92). -/
def fillRoster (s : State) : State :=
  makeLocals (s.patched.filter fun p => (s.cueValue p.2.group).onAir)
    (s.onRst fun r => { r with
      entries := s.statics.foldl (fun es x => putEntry (staticEntry x) es) [] })

/-! ### Removals (R102, R103, R105) -/

/-- An entry that a DARK cue of a group removes (R103). -/
def darkens (g : Nat) (c : Claim) : Bool := (c.isLearned || c.isLocal) && c.group == some g

/-- Remove the entries of which a test holds, and count them as flushed. -/
def flushWhere (f : Claim → Bool) (r : Rst) : Rst :=
  { r with
    entries := r.entries.filter fun e => !f e.claim
    counts := { r.counts with
      rosterFlushed := upBy r.counts.rosterFlushed (r.entries.filter fun e => f e.claim).length } }

/-- A peer is lost or renewed: its LEARNED entries go (R105). -/
def flushPeer (st : Nat) (s : State) : State := s.onRst (flushWhere (Claim.learnedFrom st))

/-- A group cue reaches the roster, from ARMED onward (R103, R104, R115). -/
def rosterCue (item : Nat) (v : CueValue) (s : State) : State :=
  if !s.armedOnward || decide (16 ≤ item) then s
  else if v.onAir then makeLocals (s.patched.filter fun p => p.2.group == item) s
  else s.onRst (flushWhere (darkens item))

/-- A LEARNED entry is more than the roster age behind an index (R102). -/
def agedAt (n : Index) (age : Nat) : Claim → Bool
  | .learned _ _ last => decide ((age : Int) < indexDiff n last)
  | .localTrack _ | .pin _ _ | .bar => false

/-- The roster age (Table 6-2). -/
def State.rosterAge (s : State) : Nat := (s.csu.config.map (·.age)).getD 0

/-- The roster ages at a boundary presented with an index, from ARMED onward (R102). -/
def ageRoster (n : Index) (s : State) : State :=
  if s.armedOnward then
    s.onRst fun r => { r with
      entries := r.entries.filter fun e => !agedAt n s.rosterAge e.claim
      counts := { r.counts with
        rosterAged := upBy r.counts.rosterAged
          (r.entries.filter fun e => agedAt n s.rosterAge e.claim).length } }
  else s

/-! ### What the roster supplies (R106, R107) -/

/-- The AIR track count N (R106). -/
def State.airCount (s : State) : Nat :=
  (s.rst.entries.filter fun e => (e.claim.group.map fun g => (s.cueValue g).onAir).getD false).length

/-- The expected set, in ascending track order (R107). -/
def State.expectedSet (s : State) : List Expected :=
  s.rst.entries.filterMap fun e =>
    match e.claim.group, e.claim.origin s.ownId with
    | some g, some o => if s.cueValue g = .on then some { track := e.track, origin := o } else none
    | _, _ => none

end Sys2Proof.Machine
end

