-- ==== Sys2Proof/Machine/Timeline.lean ====
section
/-! DEFINITION. The Timeline Unit: adoption and conflict of epochs, ENDING and DONE, the loss of the
reference (chapter 1), and the discard of accumulations that follows from it (R29, R30). -/

namespace Sys2Proof.Machine

/-- Add one to SEG_DISCARD of each channel of a list. -/
def countDiscards : List Nat → List ChannelCounts → List ChannelCounts
  | [], cs => cs
  | ch :: rest, cs =>
    countDiscards rest (modifyAt (fun c => { c with segDiscard := up c.segDiscard }) ch cs)

/-- The open accumulations are discarded; those with an index are counted (R29, R30). -/
def discardPeriod (s : State) : State :=
  match s.cfr.period with
  | none => s
  | some p =>
    s.onCfr fun c => { c with
      period := none
      channels := if p.index.isSome then countDiscards (p.accs.map (·.channel)) c.channels
        else c.channels }

/-! ### The reference (R1, R2) -/

/-- The reference leaves LOCKED: attention REF, the reference cut trigger and the discard of the
accumulations (R1, R2, R29, R141). The manual names no content for the cause of either: the model holds
whether a loss or a mark that broke the run brought it (DESIGN CHOICE, log 61). -/
def leaveLocked (cause : Cause) (cut : CutCause) (s : State) : State :=
  discardPeriod (cutTrigger (·.cutRef) cut (raiseAttn .ref cause
    (s.onTlu fun t => { t with voidNoted := false })))

/-- When a loss timer restarted now expires (R2). -/
def State.lossDue (s : State) : Time := s.now + millis 15

/-! ### The epoch (R9, R11 to R13) -/

/-- Adopt an epoch: no boundary has been presented with an index of it yet (R9). -/
def adoptEpoch (base : Word) (source : Nat) (s : State) : State :=
  s.onTlu fun t => { t with
    epoch := some { base := base, source := source }
    curIndex := none }

/-- An EPOCH conflict is raised (R13). The manual names no content for the cause of the attention or of the cut
trigger: the model holds the other base and the station it came from (DESIGN CHOICE, log 61). -/
def epochConflict (base : Word) (station : Nat) (s : State) : State :=
  cutTrigger (·.cutEpoch) (.epoch base station) (raiseAttn .epoch (.epochConflict base station)
    (s.onTlu fun t => { t with
      counts := { t.counts with epochConflict := up t.counts.epochConflict } }))

/-- START_IGNORED. -/
def ignoreStart (s : State) : State :=
  s.onTlu fun t => { t with counts := { t.counts with startIgnored := up t.counts.startIgnored } }

/-- END_IGNORED. -/
def ignoreEnd (s : State) : State :=
  s.onTlu fun t => { t with counts := { t.counts with endIgnored := up t.counts.endIgnored } }

/-- The current index is below 0, or there is none for want of a boundary (Table 1-6). In a late join it is
0 or more from the adoption on (R9, log 15). -/
def Tlu.beforeStart (t : Tlu) : Bool := (t.currentIndex.map fun n => decide (n.toInt < 0)).getD true

/-- A START judged against an epoch that can no longer be replaced (Table 1-6). -/
def startAgainst (e : Epoch) (base : Word) (origin : Nat) (s : State) : State :=
  if base = e.base then s else epochConflict base origin s

/-- A START frame is taken (Table 1-6). -/
def startTaken (base : Word) (origin : Nat) (s : State) : State :=
  match s.tlu.station, s.tlu.epoch with
  | .armed, none =>
    if s.tlu.droppedBase = some base then ignoreStart s else adoptEpoch base origin s
  | .armed, some e =>
    if s.tlu.beforeStart then
      if origin < e.source then adoptEpoch base origin s else ignoreStart s
    else startAgainst e base origin s
  | .running, some e => startAgainst e base origin s
  | .ending, some e => startAgainst e base origin s
  | _, _ => s

/-- The conflict record with a station's pair, in place of the one it had (R13). -/
def recordConflict (station : Nat) (incarnation : Word) (ps : List ConflictPair) : List ConflictPair :=
  { station := station, incarnation := incarnation } :: ps.filter fun p => p.station != station

/-- A BEACON whose base differs from the held one: a conflict, unless its pair is in the record (R13). -/
def beaconConflict (base : Word) (station : Nat) (incarnation : Word) (s : State) : State :=
  match s.tlu.conflicts.find? fun p => p.station == station with
  | none => epochConflict base station
      (s.onTlu fun t => { t with conflicts := recordConflict station incarnation t.conflicts })
  | some p =>
    if p.incarnation = incarnation then s
    else if newer incarnation p.incarnation then epochConflict base station
      (s.onTlu fun t => { t with conflicts := recordConflict station incarnation t.conflicts })
    else epochConflict base station s

/-- A BEACON's base judged against the epoch held (Table 1-7). -/
def beaconAgainst (e : Epoch) (base : Word) (station : Nat) (incarnation : Word) (s : State) : State :=
  if base = e.base then s else beaconConflict base station incarnation s

/-- A BEACON's epoch base is taken (Table 1-7). -/
def beaconEpoch (base : Word) (peerState : StationState) (station : Nat) (incarnation : Word)
    (s : State) : State :=
  match s.tlu.station, s.tlu.epoch with
  | .armed, none =>
    if peerState = .running ∧ s.tlu.droppedBase ≠ some base then adoptEpoch base station s else s
  | .armed, some e => beaconAgainst e base station incarnation s
  | .running, some e => beaconAgainst e base station incarnation s
  | .ending, some e => beaconAgainst e base station incarnation s
  | _, _ => s

/-! ### Ending (R14 to R16) -/

/-- When an END drain timer started now expires (Table 1-9). -/
def State.drainDue (s : State) : Time :=
  s.now + seconds ((s.csu.config.map (·.drainEnd)).getD 0)

/-- The station enters ENDING with a last index (R14, R15). -/
def enterEnding (last : Index) (s : State) : State :=
  s.onTlu fun t => { t with
    station := .ending
    last := some last
    endTimer := .runningUntil s.drainDue }

/-- The last index never falls below the current one (R15). -/
def Tlu.notBelowCurrent (t : Tlu) (l : Index) : Index :=
  match t.curIndex with
  | none => l
  | some n => indexMax l n

/-- The epoch is dropped in ARMED (Table 1-8). -/
def dropEpoch (base : Word) (s : State) : State :=
  s.onTlu fun t => { t with
    droppedBase := some base
    epoch := none
    curIndex := none
    high := none
    last := none
    voidRun := false }

/-- An END frame is taken (Table 1-8). -/
def endTaken (base : Word) (last : Index) (s : State) : State :=
  match s.tlu.station, s.tlu.epoch with
  | .running, some e =>
    if base = e.base then enterEnding (s.tlu.notBelowCurrent last) s else ignoreEnd s
  | .ending, some e =>
    if base = e.base then
      s.onTlu fun t => { t with
        last := some (t.notBelowCurrent ((t.last.map fun l => indexMin l last).getD last)) }
    else ignoreEnd s
  | .armed, some e => if base = e.base then dropEpoch base s else ignoreEnd s
  | _, _ => ignoreEnd s

/-- Condition (a) of R16. -/
def State.outletDone (s : State) : Bool := !s.airRole || s.aou.finished

/-- Condition (b) of R16. -/
def State.spoolDone (s : State) : Bool :=
  s.tlu.endTimer == .expired ||
    (s.tlu.last.isSome && s.tlu.codedIndex == s.tlu.last && s.ksp.free == s.ksp.write)

/-- The station enters DONE (R16); open accumulations are discarded (R30). -/
def enterDone (s : State) : State :=
  discardPeriod (s.onTlu fun t => { t with
    station := .done
    endTimer := .stopped
    voidRun := false
    counts := { t.counts with
      endUndrained := if t.endTimer = .expired then
          upBy t.counts.endUndrained (s.ksp.write - s.ksp.free).toNat
        else t.counts.endUndrained } })

/-- In ENDING, DONE is entered once both conditions hold (R16). -/
def testDone (s : State) : State :=
  if s.tlu.station = .ending ∧ s.outletDone ∧ s.spoolDone then enterDone s else s

end Sys2Proof.Machine
end

