-- ==== Sys2Proof/Machine/Cues.lean ====
section
/-! DEFINITION. The Peer and Cue Unit: the cue table, BEACON and the peer table (chapter 7). -/

namespace Sys2Proof.Machine

/-! ### Cues (R113 to R117) -/

/-- The pair (n, o) is greater than the pair (m, p) (R113). -/
def pairGreater (n : Word) (o : Nat) (m : Word) (p : Nat) : Bool :=
  newer n m || (n == m && decide (p < o))

/-- A cue: an item, a value and a pair (R114). -/
structure Cue where
  item : Nat
  value : CueValue
  number : Word
  origin : Nat
  deriving DecidableEq, Repr

/-- The entry of an item in the cue table, when there is a table. -/
def Pcu.item (u : Pcu) (i : Nat) : Option CueItem := u.cues.bind fun items => items[i]?

/-- A cue is applied: its pair is greater than that of its item (R114). -/
def Pcu.applies (u : Pcu) (c : Cue) : Bool :=
  ((u.item c.item).map fun x => pairGreater c.number c.origin x.number x.origin).getD false

/-- The cue table with an item's value and pair those of a cue. -/
def Pcu.setItem (u : Pcu) (c : Cue) : Pcu :=
  { u with cues := u.cues.map fun items =>
      items.set c.item { value := c.value, number := c.number, origin := c.origin } }

/-- The cue clock takes a newer number (R114). -/
def Pcu.advance (u : Pcu) (n : Word) : Pcu := if newer n u.clock then { u with clock := n } else u

/-- A cue reaches the apply rule: clock, table and roster effects (R114, R115). -/
def applyCue (c : Cue) (s : State) : State :=
  if s.pcu.applies c then
    rosterCue c.item c.value (s.onPcu fun u => (u.setItem c).advance c.number)
  else s.onPcu fun u => u.advance c.number

/-- A CUE frame is taken (R117). -/
def cueTaken (origin : Nat) (b : CueBody) (s : State) : State :=
  match cueOfCode b.item b.code with
  | none => s.onPcu fun u => { u with counts := { u.counts with cueBad := up u.counts.cueBad } }
  | some v =>
    let c : Cue := { item := b.item, value := v, number := b.number, origin := origin }
    applyCue c (s.onPcu fun u => { u with
      counts := if u.applies c then { u.counts with cueApplied := up u.counts.cueApplied }
        else { u.counts with cueStale := up u.counts.cueStale } })

/-- One item of a BEACON's cue table is merged (R121). -/
def mergeItem (c : Cue) (s : State) : State :=
  applyCue c (s.onPcu fun u => { u with
    counts := { u.counts with mergeApplied := upIf (u.applies c) u.counts.mergeApplied } })

/-- A BEACON's cue table is merged, item by item (R121). -/
def mergeItems : Nat → List BeaconItem → State → State
  | _, [], s => s
  | i, b :: rest, s =>
    mergeItems (i + 1) rest
      (mergeItem { item := i, value := (cueOfCode i b.code).getD .dark, number := b.number,
                   origin := b.origin } s)

/-! ### BEACON (R119, R120) -/

/-- The epoch base a BEACON carries: in RUNNING and ENDING (Table 7-4). -/
def State.beaconBase (s : State) : Option Word :=
  if s.tlu.station = .running ∨ s.tlu.station = .ending then s.tlu.epoch.map (·.base) else none

/-- The current index a BEACON carries (Table 7-4). -/
def State.beaconIndex (s : State) : Option Index :=
  if s.tlu.station = .done ∨ s.tlu.epoch = none then none else s.tlu.curIndex

/-- A port is BARRED with a cause that includes DUPID (Table 7-4). -/
def Port.barsDupid (x : Port) : Bool := x.link == .barred && x.cause.dupid

/-- The items of the cue table as a BEACON carries them. -/
def State.beaconItems (s : State) : List BeaconItem :=
  (List.range 17).map fun i =>
    match s.pcu.item i with
    | none => { code := 0, origin := 0, number := 0 }
    | some x => { code := cueCode i x.value, origin := x.origin, number := x.number }

/-- The fields of a BEACON filled now (R119). -/
def State.beaconBody (s : State) : BeaconBody :=
  let kept := if s.keepRole then s.keptList else []
  { stateCode := s.tlu.station.code
    airRole := s.airRole
    keepRole := s.keepRole
    cut := s.airRole && s.isCut
    refFlag := s.refNotLocked
    mutedPeer := (s.port .a).barsDupid || (s.port .b).barsDupid
    grade := s.sgc.grade
    base := s.beaconBase
    index := s.beaconIndex
    keptPresent := s.keepRole
    keptCount := kept.length
    items := s.beaconItems
    kept := kept }

/-- The state of a BEACON, if it is one of the four (Table 7-4). -/
def beaconState (code : Nat) : Option StationState :=
  match stateOfCode code with
  | some .armed => some .armed
  | some .running => some .running
  | some .ending => some .ending
  | some .done => some .done
  | _ => none

/-- A base is present exactly in RUNNING and ENDING (R120). -/
def basePresence (st : StationState) (base : Option Word) : Bool :=
  base.isSome == (st == .running || st == .ending)

/-- A cue item of a BEACON is valid at its place (R120). -/
def itemValid (i : Nat) (b : BeaconItem) : Bool :=
  (cueOfCode i b.code).isSome && decide (b.origin ≤ 16) && (b.origin != 0 || b.number == 0)

/-- Every cue item of a BEACON is valid, from a place on (R120). -/
def itemsValid : Nat → List BeaconItem → Bool
  | _, [] => true
  | i, b :: rest => itemValid i b && itemsValid (i + 1) rest

/-- The kept list of a BEACON is valid (R120). -/
def keptValid (b : BeaconBody) : Bool :=
  b.keptPresent == b.keepRole && decide (b.keptCount ≤ 16) &&
    (b.kept.all fun e => decide (1 ≤ e.origin) && decide (e.origin ≤ 16)) &&
    (b.keptPresent || b.keptCount == 0)

/-- The station state of a valid BEACON; none for a bad one (R120). -/
def BeaconBody.valid (b : BeaconBody) : Option StationState :=
  match beaconState b.stateCode with
  | none => none
  | some st =>
    if basePresence st b.base && itemsValid 0 b.items && keptValid b then some st else none

/-! ### The peer table (R122 to R124) -/

/-- The peer entry a BEACON makes (Table 7-5). -/
def BeaconBody.peer (b : BeaconBody) (st : StationState) (incarnation : Word) (now : Time) : Peer :=
  { incarnation := incarnation
    state := st
    airRole := b.airRole
    keepRole := b.keepRole
    base := b.base
    index := b.index
    grade := b.grade
    cut := b.cut
    refFlag := b.refFlag
    mutedPeer := b.mutedPeer
    keptList := b.kept
    lastBeacon := now }

/-- Fill or empty a place of the peer table. -/
def setPeer (station : Nat) (p : Option Peer) (s : State) : State :=
  s.onPcu fun u => { u with peers := setStation u.peers station p }

/-- A BEACON makes an entry in an empty place (Table 7-6). -/
def newPeer (station : Nat) (p : Peer) (s : State) : State :=
  raiseAttn .peer (.peerNew station) (setPeer station (some p)
    (s.onPcu fun u => { u with counts := { u.counts with peerNew := up u.counts.peerNew } }))

/-- A BEACON renews an entry under a newer incarnation (Table 7-6). -/
def renewPeer (station : Nat) (old : Word) (p : Peer) (s : State) : State :=
  raiseAttn .peer (.peerRenewed station old p.incarnation) (flushPeer station
    (setPeer station (some p)
      (s.onPcu fun u => { u with counts := { u.counts with peerRenewed := up u.counts.peerRenewed } })))

/-- A BEACON is taken into the peer table; an older incarnation leaves it as it was (R122, log 28). -/
def peerTaken (station : Nat) (p : Peer) (s : State) : State :=
  match atStation s.pcu.peers station with
  | none => newPeer station p s
  | some e =>
    if p.incarnation = e.incarnation then setPeer station (some p) s
    else if newer p.incarnation e.incarnation then renewPeer station e.incarnation p s
    else s

/-- A BEACON calls for a kept-position update (R124). -/
def keptUpdate (old : Option Peer) (p : Peer) : Bool :=
  match old with
  | none => p.keepRole
  | some e =>
    if p.incarnation = e.incarnation then p.keepRole
    else newer p.incarnation e.incarnation && (p.keepRole || e.keepRole)

/-- A BEACON's epoch base reaches the Timeline Unit (R120, step 5). -/
def handBase (b : BeaconBody) (st : StationState) (station : Nat) (incarnation : Word) (s : State) :
    State :=
  match b.base with
  | none => s
  | some base => beaconEpoch base st station incarnation s

/-- A BEACON of another origin is taken, in the steps of R120. -/
def beaconTaken (h : RingHeader) (b : BeaconBody) (s : State) : State :=
  match b.valid with
  | none => s.onPcu fun u => { u with counts := { u.counts with beaconBad := up u.counts.beaconBad } }
  | some st =>
    let p := b.peer st h.incarnation s.now
    let t := handBase b st h.origin h.incarnation
      (mergeItems 0 b.items (peerTaken h.origin p s))
    let t := if keptUpdate (atStation s.pcu.peers h.origin) p then recomputeFree t else t
    t.onPcu fun u => { u with counts := { u.counts with beaconTaken := up u.counts.beaconTaken } }

/-- When a peer's loss timer expires (R123). -/
def Peer.lossAt (p : Peer) : Time := p.lastBeacon + millis 200

/-- A peer is lost (R123). -/
def losePeer (station : Nat) (p : Peer) (s : State) : State :=
  let t := flushPeer station (setPeer station none s)
  let t := if p.keepRole then recomputeFree t else t
  raiseAttn .peer (.peerLost station)
    (t.onPcu fun u => { u with counts := { u.counts with peerLost := up u.counts.peerLost } })

/-! ### LOAD (R112, R125) -/

/-- An item of the cue table after a LOAD: an item with a cue's pair is kept (R112). -/
def reloadItem (v : CueValue) : Option CueItem → CueItem
  | some x => if x.number = 0 ∧ x.origin = 0 then { value := v, number := 0, origin := 0 } else x
  | none => { value := v, number := 0, origin := 0 }

/-- The cue table after a LOAD (R112). -/
def Pcu.reload (initial : List CueValue) (u : Pcu) : List CueItem :=
  (List.range 17).map fun i => reloadItem (initial.getD i .dark) (u.item i)

end Sys2Proof.Machine
end

