-- ==== Sys2Proof/Machine/Delivery.lean ====
section
/-! DEFINITION. The Delivery Unit: arrival checks, the first-copy filter, the own-origin check, relay, local
delivery and origination (chapter 5). -/

namespace Sys2Proof.Machine

/-- The state with the delivery counters changed. -/
def State.countDlu (f : DluCounts → DluCounts) (s : State) : State :=
  s.onDlu fun d => { d with counts := f d.counts }

/-! ### Local delivery (R76) -/

/-- DELIVERED of a kind. -/
def RingKind.countDelivered (k : RingKind) (c : DluCounts) : DluCounts :=
  match k with
  | .start => { c with deliveredStart := up c.deliveredStart }
  | .endFrame => { c with deliveredEnd := up c.deliveredEnd }
  | .cue => { c with deliveredCue := up c.deliveredCue }
  | .beacon => { c with deliveredBeacon := up c.deliveredBeacon }
  | .air => { c with deliveredAir := up c.deliveredAir }
  | .keep => { c with deliveredKeep := up c.deliveredKeep }

/-- A frame is delivered: AIR originated here and KEEP need an outlet role (Table 5-6). -/
def State.delivers (s : State) (k : RingKind) (own : Bool) : Bool :=
  match k with
  | .start | .endFrame | .cue | .beacon => true
  | .air => !own || s.airRole
  | .keep => s.keepRole

/-- A frame reaches the block that uses its kind (Table 5-6); `own` says that it was originated here. A
BEACON delivered at origination is not taken (R120). -/
def toBlock (k : RingKind) (own : Bool) (bs : Bytes) (s : State) : State :=
  let h := ringHeader bs
  match k with
  | .start => startTaken (wordAt32 bs 14) h.origin s
  | .endFrame => endTaken (wordAt32 bs 14) (wordAt32 bs 18) s
  | .cue => cueTaken h.origin (parseCue bs) s
  | .beacon => if own then s else beaconTaken h (parseBeacon bs) s
  | .air =>
    let a := parseAir bs
    if own then
      takeArrival { track := a.track, origin := h.origin, index := a.index, load := a.load } s
    else rosterAir h.origin a s
  | .keep => takeKeep h.origin h.incarnation (parseKeep bs) (keepFloor bs) s

/-- A frame is delivered inside the station and counted, where Table 5-6 delivers it (R76). -/
def deliver (k : RingKind) (own : Bool) (bs : Bytes) (s : State) : State :=
  if s.delivers k own then toBlock k own bs (s.countDlu k.countDelivered) else s

/-! ### Origination (R77) -/

/-- The header of the next frame the station originates. -/
def State.nextHeader (s : State) : RingHeader :=
  { origin := s.ownId, incarnation := s.tlu.incarnation.getD 0, sequence := s.dlu.nextSeq }

/-- An offer was answered queued. -/
def Offer.isQueued : Offer → Bool
  | .queued => true
  | .full | .notOpen => false

/-- An origination request is taken while MUTED is clear (R77). -/
def originateFrame (k : RingKind) (body : Bytes) (s : State) : State :=
  let bs := ringBytes k s.nextHeader body
  let unsent := !((s.port .a).offer k.lane).isQueued && !((s.port .b).offer k.lane).isQueued
  let t := s.onDlu fun d => { d with
    nextSeq := d.nextSeq + 1
    counts := { d.counts with
      originated := up d.counts.originated
      origUnsent := upIf unsent d.counts.origUnsent } }
  deliver k true bs (offerFrame .b k.lane bs (offerFrame .a k.lane bs t))

/-- An origination request: declined while MUTED (R77). -/
def originate (k : RingKind) (body : Bytes) (s : State) : State :=
  if s.muted then s.countDlu fun c => { c with muteDeclined := up c.muteDeclined }
  else originateFrame k body s

/-! ### The first-copy filter (R70 to R72) -/

/-- The decisions of the filter (Table 5-3). -/
inductive FilterResult where
  | accepted (entry : FilterEntry)
  | newIncarnation (entry : FilterEntry)
  | duplicate
  | stale
  deriving DecidableEq, Repr

/-- The entry that holds one sequence alone (R71). -/
def freshEntry (incarnation sequence : Word) : FilterEntry :=
  { incarnation := incarnation, top := sequence, seen := 1 }

/-- The window advances to a newer sequence; an advance of 64 or more forgets every sequence (R72). -/
def FilterEntry.advance (e : FilterEntry) (sequence : Word) : FilterEntry :=
  let d := (sequence - e.top).toNat
  { e with top := sequence, seen := if d < 64 then (e.seen <<< d) ||| 1 else 1 }

/-- A sequence of the entry's own incarnation (Table 5-3). -/
def filterSequence (e : FilterEntry) (sequence : Word) : FilterResult :=
  if newer sequence e.top then .accepted (e.advance sequence)
  else
    let back := (e.top - sequence).toNat
    if back < 64 then
      if e.seen.getLsbD back then .duplicate
      else .accepted { e with seen := e.seen ||| BitVec.twoPow 64 back }
    else .stale

/-- A frame of another origin judged against its filter entry (Table 5-3). -/
def filterFrame (entry : Option FilterEntry) (h : RingHeader) : FilterResult :=
  match entry with
  | none => .accepted (freshEntry h.incarnation h.sequence)
  | some e =>
    if h.incarnation = e.incarnation then filterSequence e h.sequence
    else if newer h.incarnation e.incarnation then
      .newIncarnation (freshEntry h.incarnation h.sequence)
    else .stale

/-- Set the filter entry of a station. -/
def setFilter (station : Nat) (e : FilterEntry) (s : State) : State :=
  s.onDlu fun d => { d with filter := setStation d.filter station (some e) }

/-! ### Relay (R75) -/

/-- The count of a relay by its outcome (Table 5-5). -/
def Offer.countRelay (o : Offer) (c : DluCounts) : DluCounts :=
  match o with
  | .queued => { c with relayed := up c.relayed }
  | .full => { c with relayFull := up c.relayFull }
  | .notOpen => { c with relayNone := up c.relayNone }

/-- A first copy is offered unchanged to its lane on the opposite port (R75). -/
def relay (p : PortId) (k : RingKind) (bs : Bytes) (s : State) : State :=
  offerFrame (other p) k.lane bs
    (s.countDlu (((s.port (other p)).offer k.lane).countRelay))

/-- A first copy: its filter entry, its relay, its delivery (R71, R75, R76). -/
def firstCopy (p : PortId) (k : RingKind) (bs : Bytes) (e : FilterEntry) (s : State) : State :=
  deliver k false bs (relay p k bs (setFilter (ringHeader bs).origin e s))

/-- A frame of another origin meets the filter (R71). -/
def otherOrigin (p : PortId) (k : RingKind) (bs : Bytes) (s : State) : State :=
  match filterFrame (atStation s.dlu.filter (ringHeader bs).origin) (ringHeader bs) with
  | .accepted e => firstCopy p k bs e s
  | .newIncarnation e =>
    firstCopy p k bs e (s.countDlu fun c => { c with filterNewInc := up c.filterNewInc })
  | .duplicate => s.countDlu fun c => { c with filterDup := up c.filterDup }
  | .stale => s.countDlu fun c => { c with filterStale := up c.filterStale }

/-! ### Frames of the own origin (R73, R74) -/

/-- The results of the own-origin check (Table 5-4). -/
inductive OwnResult where
  | duplicateId
  | fullCircle
  | stale
  deriving DecidableEq, Repr

/-- A sequence has been issued under the current incarnation (R73). -/
def issued (next s : Word) : Bool := newer next s

/-- A frame of the own origin (Table 5-4). -/
def judgeOwn (own : Option Word) (next : Word) (h : RingHeader) : OwnResult :=
  match own with
  | none => .duplicateId
  | some inc =>
    if h.incarnation = inc then (if issued next h.sequence then .fullCircle else .duplicateId)
    else if newer h.incarnation inc then .duplicateId
    else .stale

/-- A duplicate station id: counted, and the first sets MUTED (R74). -/
def duplicateId (p : PortId) (h : RingHeader) (s : State) : State :=
  let t := s.countDlu fun c => { c with dupidFrame := up c.dupidFrame }
  if s.muted then t
  else
    cutTrigger (·.cutDup) (.dupid p h.incarnation h.sequence)
      (raiseAttn .dupid (.dupidFrame p h.incarnation h.sequence)
        (t.onDlu fun d => { d with
          muted := some { port := p, incarnation := h.incarnation, sequence := h.sequence } }))

/-- A frame of the own origin is judged (R73). -/
def ownOrigin (p : PortId) (bs : Bytes) (s : State) : State :=
  match judgeOwn s.tlu.incarnation s.dlu.nextSeq (ringHeader bs) with
  | .duplicateId => duplicateId p (ringHeader bs) s
  | .fullCircle => s.countDlu fun c => { c with ownReturn := up c.ownReturn }
  | .stale => s.countDlu fun c => { c with ownStale := up c.ownStale }

/-! ### Arrival checks and admission (R48, R54, R69) -/

/-- An admitted frame of a known ring-wide kind: length, origin, then the filter or the own-origin check
(R69). -/
def admitted (p : PortId) (k : RingKind) (bs : Bytes) (s : State) : State :=
  if wordAt16 bs 12 ≠ bs.length ∨ ¬ lengthAllowed s.rate k bs then
    s.countDlu fun c => { c with rxLength := up c.rxLength }
  else if ¬ (1 ≤ byteAt bs 1 ∧ byteAt bs 1 ≤ 16) then
    s.countDlu fun c => { c with rxOrigin := up c.rxOrigin }
  else if byteAt bs 1 = s.ownId then ownOrigin p bs s
  else otherOrigin p k bs s

/-- An admitted frame of an unknown kind (R69, log 25). -/
def unknownKind (bs : Bytes) (s : State) : State :=
  if wordAt16 bs 12 ≠ bs.length then s.countDlu fun c => { c with rxLength := up c.rxLength }
  else s.countDlu fun c => { c with rxKind := up c.rxKind }

/-- The lane of a frame is CLOSED on a port (R54). -/
def Port.laneClosed (x : Port) : Nat → Bool
  | 0 => false
  | 1 => x.lane1 == .closed
  | _ => x.lane2 == .closed

/-- A frame that is not link-local is admitted by the link state, then by its lane (R54). -/
def admission (p : PortId) (bs : Bytes) (s : State) : State :=
  match (s.port p).link with
  | .down => s
  | .listen | .barred => s.countPort p fun c => { c with rxNotUp := up c.rxNotUp }
  | .up =>
    match ringKindOf (byteAt bs 0) with
    | none => unknownKind bs s
    | some k =>
      if byteAt bs 2 ≠ k.lane then s.countPort p fun c => { c with rxBadLane := up c.rxBadLane }
      else if (s.port p).laneClosed k.lane then
        s.countPort p fun c => { c with rxLaneClosed := up c.rxLaneClosed }
      else admitted p k bs s

/-- A HELLO with a good CRC is taken when it is valid (R48). -/
def receiveHello (p : PortId) (bs : Bytes) (s : State) : State :=
  match parseHello s.now bs with
  | none => s.countPort p fun c => { c with rxBadHello := up c.rxBadHello }
  | some h => helloTaken p h s

/-- A frame that a receiver has delimited: its length, its CRC, then its kind (R48). In UNCONFIGURED, and
in DOWN, a port receives nothing. -/
def receiveFrame (p : PortId) (bs : Bytes) (s : State) : State :=
  if s.unconfigured || decide ((s.port p).link = .down) then s
  else if 3072 < bs.length then s.countPort p fun c => { c with rxLong := up c.rxLong }
  else if !crcGood bs then s.countPort p fun c => { c with rxCrc := up c.rxCrc }
  else if byteAt bs 0 = 1 then receiveHello p bs s
  else if byteAt bs 0 = 2 then holdTaken p bs s
  else admission p bs s

/-! ### The drain (R152, R153) -/

/-- Send the entry at drain as a KEEP frame with the floor (R153). -/
def sendEntry (b : KeepBody) (s : State) : State :=
  advanceDrain (originate .keep (keepBytes b s.ksp.free) s)

/-- Send entries in a burst until a condition of R152 fails. -/
def drainLoop : Nat → State → State
  | 0, s => s
  | n + 1, s =>
    match s.drainBlock, s.ksp.atDrain with
    | none, some b => drainLoop n (sendEntry b s)
    | _, _ => s

/-- The drain makes its test, and sends what it may (R152). -/
def drain (s : State) : State := drainLoop s.ksp.undrained s

/-- What the blocks test at the end of an event: the drain (R152), the Air Outlet's finished report
(R145) and the ending (R16) (log 12). -/
def settle (s : State) : State := testDone (reportFinished (drain s))

/-! ### BEACON requests (R118) -/

/-- The beacon timer restarts for 50 ms (R118). -/
def restartBeacon (s : State) : State :=
  s.onPcu fun u => { u with beaconAt := some (s.now + millis 50) }

/-- The PCU originates a BEACON and restarts its timer (R118). -/
def sendBeacon (s : State) : State :=
  restartBeacon (originate .beacon (beaconBytes s.beaconBody) s)

end Sys2Proof.Machine
end

