-- ==== Sys2Proof/Machine/Coder.lean ====
section
/-! DEFINITION. The Segment Coder: the records of a batch and the choice of grade (chapter 3). -/

namespace Sys2Proof.Machine

/-! ### Records (R37 to R39) -/

/-- The AIR payload: the lossy coding, a free value of the size of the grade (R37, log 5). -/
def airPayload (grade : Nat) (samples : List Sample) : Bytes :=
  (List.range (gradeSize grade)).map (Config.airByte grade samples)

/-- A sample as three bytes, most significant first (R39). -/
def sampleBytes (x : Sample) : Bytes :=
  [x.extractLsb' 16 8, x.extractLsb' 8 8, x.extractLsb' 0 8]

/-- The samples of a segment in raw form, each from its three bytes (R39). -/
def rawSamples : Bytes → List Sample
  | a :: b :: c :: rest => (a ++ b ++ c : BitVec 24) :: rawSamples rest
  | _ => []

/-- The segment has a coded form: the lossless coding, a free value, gives back its samples and is not
below 16 bytes (R39, log 5). -/
def isCoded (samples : List Sample) : Bool :=
  Config.keepDecode (Config.keepEncode samples) == samples &&
    decide (16 ≤ (Config.keepEncode samples).length)

/-- The KEEP payload is in raw form: no coded form is shorter than RAW (R39). -/
def keepsRaw (rate : SampleRate) (samples : List Sample) : Bool :=
  !(isCoded samples && decide ((Config.keepEncode samples).length < rate.raw))

/-- The KEEP payload, coded or raw (R39). -/
def keepPayload (rate : SampleRate) (samples : List Sample) : Bytes :=
  if keepsRaw rate samples then samples.flatMap sampleBytes else Config.keepEncode samples

/-- The samples that a KEEP payload holds; its length alone tells its form (R39). -/
def keepSamples (rate : SampleRate) (payload : Bytes) : List Sample :=
  if payload.length = rate.raw then rawSamples payload else Config.keepDecode payload

/-- The state of a group in a batch. -/
def Batch.groupState (b : Batch) (g : Nat) : CueValue := b.groups.getD g .dark

/-- The AIR record of a segment (Table 3-5). -/
def airRecord (grade : Nat) (g : Segment) : AirBody :=
  { track := g.track
    group := g.group
    index := g.index
    load := {
      grade := grade
      damage := decide (0 < g.damage)
      payload := airPayload grade g.samples } }

/-- The KEEP record of a segment, before its append (Table 3-6). -/
def keepRecord (rate : SampleRate) (g : Segment) : KeepBody :=
  { sequence := 0
    track := g.track
    group := g.group
    index := g.index
    damage := g.damage
    lossBefore := 0
    payload := keepPayload rate g.samples }

/-- The AIR record of a segment is made and originated, when its group was PRIMED or ON (R37). -/
def makeAir (b : Batch) (g : Segment) (s : State) : State :=
  if (b.groupState g.group).onAir then
    originate .air (airBytes (airRecord b.grade g))
      (s.onSgc fun c => { c with counts := { c.counts with airMade := up c.counts.airMade } })
  else s

/-- The KEEP record of a segment is made and handed to the spool, when its keep flag is set (R38). -/
def makeKeep (g : Segment) (s : State) : State :=
  if g.keep then
    appendKeep (keepRecord s.rate g) (s.onSgc fun c => { c with
      counts := { c.counts with
        keepMade := up c.counts.keepMade
        keepRaw := upIf (keepsRaw s.rate g.samples) c.counts.keepRaw } })
  else s

/-- The batch completes: its index is reported to the Timeline Unit (R35). -/
def completeBatch (b : Batch) (s : State) : State :=
  (s.onSgc fun c => { c with batch := none }).onTlu fun t => { t with codedIndex := some b.index }

/-- The coder goes on with the rest of a batch, or completes it (R35). -/
def continueBatch (b : Batch) (rest : List Segment) (s : State) : State :=
  match rest with
  | [] => completeBatch b s
  | _ :: _ => s.onSgc fun c => { c with batch := some { b with segments := rest } }

/-- The coder finishes one segment: its records, then the drain's test (R35, R152). -/
def codeSegment (s : State) : State :=
  match s.sgc.batch with
  | none => s
  | some b =>
    match b.segments with
    | [] => completeBatch b s
    | g :: rest => continueBatch b rest (drain (makeKeep g (makeAir b g s)))

/-- The coder finishes a number of segments. -/
def codeSegments : Nat → State → State
  | 0, s => s
  | n + 1, s => codeSegments n (codeSegment s)

/-- A batch still in flight completes (R35, log 9). -/
def finishBatch (s : State) : State :=
  match s.sgc.batch with
  | none => s
  | some b => codeSegments (max 1 b.segments.length) s

/-- The coder takes a batch; an empty one completes at once (R34, R35). -/
def takeBatch (b : Batch) (s : State) : State :=
  if b.segments.isEmpty then completeBatch b s else s.onSgc fun c => { c with batch := some b }

/-! ### The grade (R40 to R43) -/

/-- The highest grade, from `g` down, whose payload size does not exceed an allowance; 0 when even that
of grade 0 does (R41). -/
def gradeWithin (allowance : Nat) : Nat → Nat
  | 0 => 0
  | g + 1 => if gradeSize (g + 1) ≤ allowance then g + 1 else gradeWithin allowance g

/-- The target grade (R41). -/
def targetGrade (allowance ceiling : Nat) (held : Bool) : Nat :=
  let g0 := min ceiling (gradeWithin allowance 7)
  if held then g0 - 1 else g0

/-- The allowance A for a track count N (R41). -/
def allowanceOf (budget n : Nat) : Nat := budget / max 1 n

/-- The grade update of a grade boundary (Table 3-7). -/
def Sgc.update (entering : Bool) (target : Nat) (g : Sgc) : Sgc :=
  if entering then { g with grade := target, stepUp := 0 }
  else if target < g.grade then
    { g with
      grade := target
      stepUp := 0
      counts := { g.counts with gradeDown := up g.counts.gradeDown } }
  else if target = g.grade then { g with stepUp := 0 }
  else if g.stepUp + 1 < 50 then { g with stepUp := g.stepUp + 1 }
  else
    { g with
      grade := g.grade + 1
      stepUp := 0
      counts := { g.counts with gradeUp := up g.counts.gradeUp } }

/-- Lane 2 of either port is held (R41). -/
def State.anyHeld (s : State) : Bool := (s.port .a).held || (s.port .b).held

/-- A grade boundary: N, the allowance, the target and the update (R40 to R42). -/
def gradeBoundary (entering : Bool) (s : State) : State :=
  let n := s.airCount
  let a := allowanceOf ((s.csu.config.map (·.budget)).getD 0) n
  let target := targetGrade a ((s.csu.config.map (·.ceiling)).getD 0) s.anyHeld
  s.onSgc fun g => { g.update entering target with
    lastTarget := some target
    lastN := some n
    lastAllowance := some a }

/-- The coder at ARM (R33, R36). -/
def Sgc.atArm (g : Sgc) : Sgc :=
  { g with
    grade := 0
    stepUp := 0
    lastTarget := none
    lastN := none
    lastAllowance := none
    batch := none
    counts := { g.counts with batchDiscard := upIf g.batch.isSome g.counts.batchDiscard } }

end Sys2Proof.Machine
end

