-- ==== Sys2Proof/Machine/Boundary.lean ====
section
/-! DEFINITION. Marks and boundaries (R1 to R5, R9), and what every block does at a boundary. -/

namespace Sys2Proof.Machine

/-! ### The index of a boundary -/

/-- The index of a house count against the held epoch (R3). -/
def Tlu.indexAt (t : Tlu) (count : Word) : Option Index := t.epoch.map fun e => count - e.base

/-- A boundary of an index is void: in RUNNING or ENDING it is not greater than H (R5). -/
def Tlu.isVoid (t : Tlu) (n : Index) : Bool :=
  (t.station == .running || t.station == .ending) &&
    (t.high.map fun h => indexLe n h).getD false

/-- The index a boundary is presented with: none without an epoch, and none when void (R3, R5). -/
def Tlu.presents (t : Tlu) (count : Word) : Option Index :=
  (t.indexAt count).filter fun n => !t.isVoid n

/-- The boundary is a void one (R5). -/
def Tlu.voidAt (t : Tlu) (count : Word) : Bool := ((t.indexAt count).map t.isVoid).getD false

/-- The boundary is the one at which the station enters RUNNING (R9). -/
def Tlu.entersAt (t : Tlu) (count : Word) : Bool :=
  t.station == .armed && ((t.indexAt count).map fun n => decide (0 ≤ n.toInt)).getD false

/-- The boundary raises H: it enters RUNNING, or is presented in RUNNING or ENDING and not void (R5). -/
def Tlu.raisesHigh (t : Tlu) (count : Word) : Bool :=
  t.entersAt count || ((t.station == .running || t.station == .ending) && !t.voidAt count)

/-- H after a boundary: the greatest index presented while RUNNING or ENDING (R5). -/
def Tlu.highAt (t : Tlu) (count : Word) : Option Index :=
  match t.indexAt count with
  | none => t.high
  | some n => if t.raisesHigh count then some n else t.high

/-- The Timeline Unit after a boundary (R3, R5, R9). -/
def Tlu.atBoundary (count : Word) (t : Tlu) : Tlu :=
  { t with
    station := if t.entersAt count then .running else t.station
    houseCount := some count
    curIndex := if t.voidAt count then t.curIndex else t.indexAt count
    high := t.highAt count
    voidRun := t.voidAt count
    voidNoted := t.voidNoted || t.voidAt count
    counts := { t.counts with refVoid := upIf (t.voidAt count) t.counts.refVoid } }

/-- The Timeline Unit takes a boundary; the first void one after a relock raises REF (R5). The manual
names no content for its cause: the model holds that a void boundary brought it (DESIGN CHOICE, log 61). -/
def tluBoundary (count : Word) (s : State) : State :=
  let t := s.onTlu (Tlu.atBoundary count)
  if s.tlu.voidAt count && !s.tlu.voidNoted then raiseAttn .ref .refVoid t else t

/-! ### The other blocks at a boundary -/

/-- The batch an indexed period gives, at the grade and group states of now (R28, R34). -/
def State.batchOf (s : State) (n : Index) (p : Period) : Batch :=
  { index := n
    grade := s.sgc.grade
    groups := (List.range 16).map s.cueValue
    segments := p.accs.filterMap (formSegment s n) }

/-- The open accumulations close: at a boundary with an index, an indexed period forms its segments and
hands them over; any other is dropped (R5, R28). -/
def closePeriod (presented : Option Index) (s : State) : State :=
  match s.cfr.period with
  | none => s
  | some p =>
    let t := s.onCfr fun c => { c with period := none }
    match p.index, presented with
    | some n, some _ =>
      let b := s.batchOf n p
      takeBatch b (t.onCfr fun c => { c with channels := countDamage b.segments c.channels })
    | _, _ => t

/-- New accumulations open by the station state presented (R27). -/
def openPeriod (presented : Option Index) (s : State) : State :=
  s.onCfr fun c => { c with
    period := (opensPeriod s.tlu.station s.tlu.last s.tlu.high presented).map s.newPeriod }

/-- The grade at a boundary: a grade boundary is one presented with an index in RUNNING or ENDING
(R43). -/
def gradeAt (presented : Option Index) (entering : Bool) (s : State) : State :=
  if presented.isSome && s.performing then gradeBoundary entering s else s

/-- The roster at a boundary (R102). -/
def ageAt (presented : Option Index) (s : State) : State :=
  match presented with
  | none => s
  | some n => ageRoster n s

/-- The slot of a boundary is to open: in RUNNING, and in ENDING up to L, at a station with the AIR
outlet role (R127, R129). -/
def State.opensSlot (s : State) (n : Index) : Bool :=
  s.airRole && (s.tlu.station == .running ||
    (s.tlu.station == .ending && (s.tlu.last.map fun l => indexLe n l).getD false))

/-- The slot of a boundary, with the expected set of that boundary (R107, R129). -/
def slotAt (presented : Option Index) (expected : List Expected) (s : State) : State :=
  match presented with
  | none => s
  | some n => if s.opensSlot n then openSlot n expected s else s

/-- The line driver as the station enters RUNNING (R140). -/
def driverAt (entering : Bool) (s : State) : State := if entering then driveOnRunning s else s

/-- A boundary is taken (R3): the Timeline Unit, the grade, the batch and the accumulations, the roster's
aging, the driver and the slot (log 9, log 10). -/
def takeBoundary (count : Word) (s : State) : State :=
  let s := finishBatch s
  let presented := s.tlu.presents count
  let entering := s.tlu.entersAt count
  let expected := s.expectedSet
  feedSettle (slotAt presented expected (driverAt entering (ageAt presented
    (openPeriod presented (closePeriod presented (gradeAt presented entering
      (tluBoundary count s)))))))

/-! ### Marks (R1) -/

/-- A mark continues the run: correct spacing, and the previous count plus one (section 1.1). -/
def State.continuesRun (s : State) (count : Word) (spacing : Nat) : Bool :=
  decide (spacing = s.rate.samples) && s.tlu.lastMark.map (· + 1) == some count

/-- The Timeline Unit with a mark taken into a reference state and a run; every mark restarts the loss
timer (R1, R2). -/
def Tlu.mark (count : Word) (due : Time) (ref : RefState) (run : Nat) (t : Tlu) : Tlu :=
  { t with ref := ref, run := run, lastMark := some count, lossTimer := some due }

/-- A mark breaks the run in LOCKED (Table 1-2): REF_JUMP, and the reference is no longer LOCKED. -/
def breakRun (s : State) : State :=
  leaveLocked .refJump .refJump (s.onTlu fun t => { t with
    counts := { t.counts with refJump := up t.counts.refJump } })

/-- A mark is taken (Table 1-2). -/
def takeMark (count : Word) (spacing : Nat) (s : State) : State :=
  let cont := s.continuesRun count spacing
  let mark := fun ref run => s.onTlu (Tlu.mark count s.lossDue ref run)
  match s.tlu.ref with
  | .noRef => mark .acquiring 1
  | .lost => mark .acquiring 1
  | .acquiring =>
    if cont then
      if 3 ≤ s.tlu.run + 1 then takeBoundary count (mark .locked (s.tlu.run + 1))
      else mark .acquiring (s.tlu.run + 1)
    else mark .acquiring 1
  | .locked =>
    if cont then takeBoundary count (mark .locked (s.tlu.run + 1))
    else breakRun (mark .acquiring 1)

/-- The reference loss timer expires: LOST, with the loss counted and signalled when it was LOCKED
(R2). The manual gives the run no value in LOST: the model leaves it as it was (DESIGN CHOICE, log 46). -/
def loseReference (s : State) : State :=
  let t := s.onTlu fun t => { t with ref := .lost, lossTimer := none }
  if s.tlu.ref = .locked then
    leaveLocked .refLoss .refLoss (t.onTlu fun t => { t with
      counts := { t.counts with refLoss := up t.counts.refLoss } })
  else t

end Sys2Proof.Machine
end

