-- ==== Sys2Proof/Machine/Clockwork.lean ====
section
/-! DEFINITION. The meanings of the house reference, the capture lines and the coder (chapters 1 to 3). -/

namespace Sys2Proof.Machine

/-- MARK_TAKEN (R1): in UNCONFIGURED marks are ignored. -/
def markTaken (count : Word) (spacing : Nat) (s : State) : State :=
  if s.unconfigured then s else settle (takeMark count spacing s)

/-- MARK_TAKEN (R1). -/
def execMarkTaken (count : Word) (spacing : Nat) (s : State) : Answer :=
  .next (markTaken count spacing s)

/-- The loss timer expires, when it runs (R2, log 2). -/
def lossTimerExpires (s : State) : State :=
  match s.tlu.lossTimer with
  | none => s
  | some t => settle (loseReference (s.reach t))

/-- REFERENCE_LOSS_TIMER (R2). -/
def execReferenceLossTimer (s : State) : Answer := .next (lossTimerExpires s)

/-- SAMPLE_FRAME_COMPLETE (R19, R21): the bits up to the end of an eighth slot have arrived. -/
def execSampleFrameComplete (line : Nat) (runs : List (List Bool)) (s : State) : Answer :=
  .next (lineRuns line runs s)

/-- LOSS_OF_FRAMING (R20): the 16 bits where a sync word is expected have arrived, and are none. -/
def execLossOfFraming (arrived : LineBits) (s : State) : Answer :=
  .next (lineRuns arrived.line arrived.runs s)

/-- SAMPLE_TAKE (R22). -/
def execSampleTake (s : State) : Answer := .next (takeAll s)

/-- SEGMENT_CODED (R35). -/
def execSegmentCoded (s : State) : Answer := .next (settle (codeSegment s))

end Sys2Proof.Machine
end

