-- ==== Sys2Proof/Machine/Setup.lean ====
section
/-! DEFINITION. The configuration block: its decoding (R187), its check word and its validation (R177). -/

namespace Sys2Proof.Machine

/-- The sum of the 16-bit words of a block, most significant byte first, modulo 65,536 (R177). -/
def wordSum : Bytes → Nat
  | [] => 0
  | [x] => x.toNat * 256 % 65536
  | x :: y :: rest => (x.toNat * 256 + y.toNat + wordSum rest) % 65536

/-- The first `n` offsets of a table of entries `size` bytes long that begins at `start`. -/
def offsets (start size n : Nat) : List Nat := (List.range n).map fun i => start + size * i

/-- A byte holds an on-off value (R187). -/
def onOff (bs : Bytes) (i : Nat) : Bool := decide (byteAt bs i ≤ 1)

/-- A value lies in a range, end points included. -/
def within (lo hi n : Nat) : Bool := decide (lo ≤ n) && decide (n ≤ hi)

/-- The patch entry at an offset (Table 11-14): flags, group, track. -/
def patchAt (bs : Bytes) (i : Nat) : Option PatchEntry :=
  if (byteAt bs i).testBit 0 then
    some { track := wordAt16 bs (i + 2), group := byteAt bs (i + 1), keep := (byteAt bs i).testBit 1 }
  else none

/-- The patch table of the block. -/
def patchTable (bs : Bytes) : List (Option PatchEntry) := (offsets 18 4 32).map (patchAt bs)

/-- No value stands twice in a list. -/
def allDistinct : List Nat → Bool
  | [] => true
  | x :: rest => !rest.contains x && allDistinct rest

/-- PATCH (R26, R177): tracks and groups in range, no track twice. -/
def patchValid (bs : Bytes) : Bool :=
  (patchTable bs).all (fun o => o.all fun e => within 0 511 e.track && within 0 15 e.group) &&
    allDistinct ((patchTable bs).filterMap fun o => o.map (·.track))

/-- The offsets of the static entries within the count. -/
def staticOffsets (bs : Bytes) : List Nat := offsets 168 5 (min (byteAt bs 167) 64)

/-- A static entry is a valid PIN or BAR (Table 6-2, R177). -/
def staticValid (bs : Bytes) (i : Nat) : Bool :=
  within 0 511 (wordAt16 bs (i + 3)) &&
    (match byteAt bs i with
     | 1 => within 1 16 (byteAt bs (i + 1)) && byteAt bs (i + 1) != byteAt bs 11 &&
         within 0 15 (byteAt bs (i + 2))
     | 2 => true
     | _ => false)

/-- STATIC (R177): the count, each entry, and no track twice. -/
def staticsValid (bs : Bytes) : Bool :=
  within 0 64 (byteAt bs 167) && (staticOffsets bs).all (staticValid bs) &&
    allDistinct ((staticOffsets bs).map fun i => wordAt16 bs (i + 3))

/-- CUEINIT (R111): a group holds 0 to 2, the freeze 0 or 1. -/
def cueInitValid (bs : Bytes) : Bool :=
  (List.range 17).all fun i => (cueOfCode i (byteAt bs (488 + i))).isSome

/-- A byte of the block is 0. -/
def zeroAt (bs : Bytes) (i : Nat) : Bool := byteAt bs i == 0

/-- The unused bits and bytes of a patch entry are 0 (R187). -/
def patchPad (bs : Bytes) (i : Nat) : Bool :=
  if (byteAt bs i).testBit 0 then decide (byteAt bs i / 4 = 0)
  else zeroAt bs i && zeroAt bs (i + 1) && zeroAt bs (i + 2) && zeroAt bs (i + 3)

/-- The unused bytes of a static entry within the count are 0: a BAR has no origin and no group (R187). -/
def staticPad (bs : Bytes) (i : Nat) : Bool :=
  byteAt bs i != 2 || (zeroAt bs (i + 1) && zeroAt bs (i + 2))

/-- PAD (R177, R187): every byte and bit without a field is 0. -/
def padValid (bs : Bytes) : Bool :=
  (offsets 18 4 32).all (patchPad bs) && (staticOffsets bs).all (staticPad bs) &&
    ((bs.drop (168 + 5 * byteAt bs 167)).take (320 - 5 * byteAt bs 167)).all (· == 0) &&
    ((bs.drop 516).take 508).all (· == 0)

/-- The fields of the block in the order of Table 10-5, each with its check (R177). PAD is no row of that table,
and some of its bits lie within PATCH and STATIC: the model checks PAD after every row of the table (DESIGN
CHOICE, log 58). -/
def fieldChecks (bs : Bytes) : List (FieldName × Bool) :=
  [(.hall, true),
   (.rate, within 1 2 (byteAt bs 4)),
   (.budget, within 100000 2000000 (wordAt32 bs 5).toNat),
   (.ceiling, within 0 7 (byteAt bs 9)),
   (.age, within 5 200 (byteAt bs 10)),
   (.station, within 1 16 (byteAt bs 11)),
   (.attn, within 0 0x7FF (wordAt16 bs 12)),
   (.lead, within 10 500 (wordAt16 bs 14)),
   (.drainEnd, within 1 600 (wordAt16 bs 16)),
   (.patch, patchValid bs),
   (.high, within 16 120 (byteAt bs 146)),
   (.low, within 8 (byteAt bs 146 - 8) (byteAt bs 147)),
   (.holdT, within 100 10000 (wordAt16 bs 148)),
   (.guard, onOff bs 150),
   (.limit, (offsets 151 1 16).all fun i => within 0 32 (byteAt bs i)),
   (.static, staticsValid bs),
   (.cueInit, cueInitValid bs),
   (.airRole, onOff bs 505),
   (.latency, within 10 80 (byteAt bs 506)),
   (.conceal, within 0 8 (byteAt bs 507)),
   (.cutMode, within 1 3 (byteAt bs 508)),
   (.cutRef, onOff bs 509),
   (.cutEpoch, onOff bs 510),
   (.cutDup, onOff bs 511),
   (.cutOp, onOff bs 512),
   (.keepRole, onOff bs 513),
   (.resend, within 100 5000 (wordAt16 bs 514)),
   (.pad, padValid bs)]

/-- The first field of a list of checks that fails. -/
def firstBad : List (FieldName × Bool) → Option FieldName
  | [] => none
  | (n, ok) :: rest => if ok then firstBad rest else some n

/-- The static entry at an offset. -/
def staticAt (bs : Bytes) (i : Nat) : StaticEntry :=
  if byteAt bs i = 1 then .pin (wordAt16 bs (i + 3)) (byteAt bs (i + 1)) (byteAt bs (i + 2))
  else .bar (wordAt16 bs (i + 3))

/-- The cut mode of a code (Table 11-14). -/
def cutModeOf : Nat → CutMode
  | 1 => .quiet
  | 2 => .stop
  | _ => .float

/-- The configuration a validated block gives (Table 11-14). -/
def decodeBlock (bs : Bytes) : Configuration :=
  { hall := wordAt32 bs 0
    rate := if byteAt bs 4 = 1 then .r48 else .r96
    budget := (wordAt32 bs 5).toNat
    ceiling := byteAt bs 9
    age := byteAt bs 10
    station := byteAt bs 11
    attn := BitVec.ofNat 11 (wordAt16 bs 12)
    lead := wordAt16 bs 14
    drainEnd := wordAt16 bs 16
    patch := patchTable bs
    highMark := byteAt bs 146
    lowMark := byteAt bs 147
    holdTime := wordAt16 bs 148
    guard := byteAt bs 150 == 1
    limits := (offsets 151 1 16).map (byteAt bs)
    statics := (staticOffsets bs).map (staticAt bs)
    cueInit := (List.range 17).map fun i => (cueOfCode i (byteAt bs (488 + i))).getD .dark
    airRole := byteAt bs 505 == 1
    latency := byteAt bs 506
    conceal := byteAt bs 507
    cutMode := cutModeOf (byteAt bs 508)
    cutRef := byteAt bs 509 == 1
    cutEpoch := byteAt bs 510 == 1
    cutDup := byteAt bs 511 == 1
    cutOp := byteAt bs 512 == 1
    keepRole := byteAt bs 513 == 1
    resend := wordAt16 bs 514 }

/-- The configuration digest: the CRC over bytes 0 to 10 of the block (R47, R185). -/
def blockDigest (bs : Bytes) : Word := crc32 (bs.take 11)

/-- What the 1,026 bytes of a LOAD come to (R177): a reply of failure, or the configuration. -/
inductive LoadResult where
  | failed (r : Reply)
  | loaded (c : Configuration) (digest : Word)
  deriving DecidableEq, Repr

/-- The check word, then the fields in order (R177). -/
def checkBlock (bs : Bytes) : LoadResult :=
  if wordSum bs ≠ 0 then .failed (.refused .sum)
  else match firstBad (fieldChecks bs) with
    | some n => .failed (.badField n)
    | none => .loaded (decodeBlock bs) (blockDigest bs)

end Sys2Proof.Machine
end

