-- ==== Sys2Proof/Machine/Load.lean ====
section
/-! DEFINITION. What a successful LOAD does to every block (R178), and the state after a reset (R184). -/

namespace Sys2Proof.Machine

/-- The Timeline Unit after a LOAD: CONFIGURED, the reference NONE (R7). -/
def Tlu.reload (t : Tlu) : Tlu :=
  { t with station := .configured, ref := .noRef, run := 0, lastMark := none, lossTimer := none }

/-- The Capture Front after a LOAD (R18, R31). -/
def Cfr.reload (c : Configuration) (f : Cfr) : Cfr := { f with lines := reloadLines c.patch 0 f.lines }

/-- The Delivery Unit after a LOAD: the filter entry of the new own id is emptied (R70). -/
def Dlu.reload (c : Configuration) (d : Dlu) : Dlu :=
  { d with filter := setStation d.filter c.station none }

/-- The Peer and Cue Unit after a LOAD: the cue table loaded or partly reloaded, the place of the new own
id emptied (R112, R125). -/
def Pcu.load (c : Configuration) (u : Pcu) : Pcu :=
  { u with cues := some (u.reload c.cueInit), peers := setStation u.peers c.station none }

/-- The Console Unit after a LOAD: the configuration, the attention mask and LOAD_DONE (R177, R181). R87
has a LOAD leave the HOLD fields in force, and R178 has every block take the new configuration: the model
takes the KEEP marks and the HOLD time of every LOAD at once (DESIGN CHOICE, log 54). -/
def Csu.reload (c : Configuration) (u : Csu) : Csu :=
  { u with
    config := some c
    enableMask := c.attn
    counts := { u.counts with loadDone := up u.counts.loadDone } }

/-- A port in DOWN whose receiver has carrier enters LISTEN as carrier is first sent (R49). -/
def Port.listenIfCarrier (x : Port) : Port :=
  if x.link = .down ∧ x.carrier then { x with link := .listen } else x

/-- The entry into CONFIGURED starts HELLO on both ports: the first is placed at once (R45, R49). -/
def startHello (s : State) : State :=
  offerHello .b (offerHello .a (s.onLku fun k => { k with
    portA := k.portA.listenIfCarrier
    portB := k.portB.listenIfCarrier
    helloAt := some (s.now + millis 1) }))

/-- The blocks' own changes at a LOAD. -/
def loadBlocks (c : Configuration) (digest : Word) (s : State) : State :=
  { s with
    tlu := s.tlu.reload
    cfr := s.cfr.reload c
    lku := { s.lku with digest := some digest }
    dlu := s.dlu.reload c
    pcu := s.pcu.load c
    aou := { s.aou with finished := false }
    csu := s.csu.reload c }

/-- A successful LOAD takes effect in every block at once (R178). -/
def applyLoad (c : Configuration) (digest : Word) (s : State) : State :=
  let t := loadBlocks c digest s
  archiveSettle (if s.unconfigured then startHello t else t)

/-- The station after a reset with a cause: every block at its reset table, attention RESET raised; local
time, the queue and the levels of the input pins are kept (R6, R184, log 13, log 14). -/
def resetWith (cause : Cause) (s : State) : State :=
  { State.reset with
    pending := s.pending
    now := s.now
    lku := { portA := { carrier := s.lku.portA.carrier }, portB := { carrier := s.lku.portB.carrier } }
    aou := { ready := s.aou.ready }
    kou := { ready := s.kou.ready }
    csu := { State.reset.csu with pendingAttn := List.replicate 10 none ++ [some cause] } }

end Sys2Proof.Machine
end

