-- ==== Sys2Proof/Machine/Reports.lean ====
section
/-! DEFINITION. The reports of SHOW and WATCH, each formed from the state as it stands (the last section of
each chapter). -/

namespace Sys2Proof.Machine

/-- SHOW STATE (R17). -/
def State.reportState (s : State) : StateReport :=
  { station := s.tlu.station
    epoch := s.tlu.epoch
    droppedBase := s.tlu.droppedBase
    incarnation := s.tlu.incarnation
    houseCount := s.tlu.houseCount
    index := if s.tlu.epoch.isSome then s.tlu.currentIndex else none
    high := s.tlu.high
    last := s.tlu.last
    drainLeft := match s.tlu.endTimer with
      | .runningUntil t => some (leftUntil s.now t)
      | .expired => some 0
      | .stopped => none
    muted := s.muted }

/-- SHOW REF (R17). -/
def State.reportRef (s : State) : RefReport :=
  { ref := s.tlu.ref
    run := s.tlu.run
    houseCount := s.tlu.houseCount
    refLoss := s.tlu.counts.refLoss
    refJump := s.tlu.counts.refJump
    refVoid := s.tlu.counts.refVoid
    voidRun := s.tlu.voidRun }

/-- One port of SHOW PORTS (R67). -/
def Port.report (now : Time) (x : Port) : PortReport :=
  { link := x.link
    cause := if x.link = .barred then some x.cause else none
    carrier := x.carrier
    neighbour := x.neighbour
    sinceHello := x.neighbour.map fun h => now - h.takenAt
    seen1 := x.seen1
    seen2 := x.seen2 }

/-- The queue whose frame a transmitter sends. -/
def TxFrame.queue : TxFrame → TxQueue
  | .hello _ => .linkLocal
  | .hold _ _ => .linkLocal
  | .ring n _ => .lane n

/-- One port of SHOW LANES (R67, R88). -/
def Port.reportLanes (now : Time) (x : Port) : LaneReport :=
  { lane1 := x.lane1
    lane2 := x.lane2
    fillLink := x.linkQueue.length
    fill0 := x.queue0.length
    fill1 := x.queue1.length
    fill2 := x.queue2.length
    tx := x.tx.map TxFrame.queue
    heldLeft := x.heldUntil.map (leftUntil now)
    refreshLeft := x.refreshAt.map (leftUntil now) }

/-- The sequences marked seen in a window. -/
def seenCount (m : BitVec 64) : Nat := ((List.range 64).filter fun i => m.getLsbD i).length

/-- SHOW FILTER (R88). -/
def State.reportFilter (s : State) : FilterReport :=
  { ownId := s.csu.config.map (·.station)
    incarnation := s.tlu.incarnation
    nextSeq := s.dlu.nextSeq
    muted := s.dlu.muted
    entries := (places s.dlu.filter).map fun p =>
      { station := p.1, incarnation := p.2.incarnation, top := p.2.top,
        seenCount := seenCount p.2.seen } }

/-- The number of roster entries of which a test holds. -/
def Rst.count (r : Rst) (f : Claim → Bool) : Nat := (r.entries.filter fun e => f e.claim).length

/-- An entry is a PIN. -/
def Claim.isPin : Claim → Bool
  | .pin _ _ => true
  | .localTrack _ | .learned _ _ _ | .bar => false

/-- An entry is a BAR. -/
def Claim.isBar : Claim → Bool
  | .bar => true
  | .localTrack _ | .learned _ _ _ | .pin _ _ => false

/-- SHOW ROSTER (R110). -/
def State.reportRoster (s : State) : RosterReport :=
  { total := s.rst.entries.length
    locals := s.rst.count Claim.isLocal
    learned := s.rst.count Claim.isLearned
    pins := s.rst.count Claim.isPin
    bars := s.rst.count Claim.isBar
    full := s.rst.full
    freeze := (s.pcu.item 16).map (·.value)
    guard := s.csu.config.map (·.guard)
    age := s.csu.config.map (·.age)
    limits := (List.range 16).map fun i =>
      (i + 1, s.claimLimit (i + 1), learnedCount (i + 1) s.rst.entries)
    entries := s.rst.entries.map fun e =>
      { entry := e, origin := e.claim.origin s.ownId, groupState := e.claim.group.map s.cueValue }
    airCount := s.airCount
    expectedSize := s.expectedSet.length
    counts := s.rst.counts }

/-- SHOW CUES (R126). -/
def State.reportCues (s : State) : CuesReport :=
  { clock := s.pcu.clock
    items := s.pcu.cues
    cueApplied := s.pcu.counts.cueApplied
    cueStale := s.pcu.counts.cueStale
    cueBad := s.pcu.counts.cueBad
    mergeApplied := s.pcu.counts.mergeApplied }

/-- SHOW PEERS (R126). -/
def State.reportPeers (s : State) : PeersReport :=
  { peers := (places s.pcu.peers).map fun p =>
      { station := p.1, peer := p.2, since := s.now - p.2.lastBeacon,
        lossLeft := leftUntil s.now p.2.lossAt }
    beaconLeft := s.pcu.beaconAt.map (leftUntil s.now)
    beaconTaken := s.pcu.counts.beaconTaken
    beaconBad := s.pcu.counts.beaconBad
    peerNew := s.pcu.counts.peerNew
    peerRenewed := s.pcu.counts.peerRenewed
    peerLost := s.pcu.counts.peerLost }

/-- One slot of SHOW SLOTS. -/
def Slot.report (now : Time) (t : Slot) : SlotLine :=
  { index := t.index
    state := t.state
    left := match t.state with
      | .opened d => some (leftUntil now d)
      | .closed _ => none
    expected := t.expected.length
    arrived := t.arrived }

/-- SHOW SLOTS (R147). -/
def State.reportSlots (s : State) : SlotsReport :=
  { airRole := s.airRole
    latency := s.csu.config.map (·.latency)
    concealLimit := s.csu.config.map (·.conceal)
    openMark := s.aou.openMark
    slots := s.aou.window.map (Slot.report s.now)
    oldest := match s.aou.window with
      | [] => []
      | t :: _ => t.expected.map fun e => (e.track, e.origin, e.arrived.isSome) }

/-- The non-empty places of the conceal store, from a track on (R147). -/
def concealLines : Nat → List ConcealPlace → List ConcealLine
  | _, [] => []
  | track, c :: rest =>
    if c.last.isSome || decide (0 < c.missRun) then
      { track := track, held := c.last.isSome, grade := c.last.map (·.grade), missRun := c.missRun } ::
        concealLines (track + 1) rest
    else concealLines (track + 1) rest

/-- SHOW FEED (R147). The manual gives the trigger fields no value while no configuration is loaded: the
model reports them off (DESIGN CHOICE, log 52). -/
def State.reportFeed (s : State) : FeedReport :=
  { cut := s.isCut
    cutMode := s.csu.config.map (·.cutMode)
    cutRef := (s.csu.config.map (·.cutRef)).getD false
    cutEpoch := (s.csu.config.map (·.cutEpoch)).getD false
    cutDup := (s.csu.config.map (·.cutDup)).getD false
    cutOp := (s.csu.config.map (·.cutOp)).getD false
    cutCause := s.aou.cut
    persisting := s.isCut && s.cutPersists
    buffers := [0, 1].map fun n =>
      let b := bufferReport s.aou.feed n
      (b.1, b.2.map (·.index))
    driven := s.aou.driven
    ready := s.aou.ready
    conceal := concealLines 0 s.aou.conceal
    counts := s.aou.counts }

/-- SHOW SPOOL (R167). -/
def State.reportSpool (s : State) : SpoolReport :=
  let outlets := s.countedOutlets
  { incarnation := s.tlu.incarnation
    free := s.ksp.free
    drain := s.ksp.drain
    write := s.ksp.write
    drained := s.ksp.drained
    undrained := s.ksp.undrained
    full := s.ksp.full
    lostRun := s.ksp.lostRun
    resendLeft := s.ksp.resendAt.map (leftUntil s.now)
    blockedBy := s.drainBlock
    outlets := outlets
    oldestOutlets := (outlets.filter fun p => some p.2 == oldestOf (outlets.map (·.2))).map (·.1)
    counts := s.ksp.counts }

/-- SHOW TAKE (R168). -/
def State.reportTake (s : State) : TakeReport :=
  { keepRole := s.keepRole
    places := places s.kou.take
    queueFill := s.kou.queue.length
    buffers := [0, 1].map (bufferReport s.kou.lines)
    driven := s.archiveDriven
    ready := s.kou.ready
    counts := s.kou.counts }

/-- One line of SHOW CAPTURE. -/
def CaptureLine.report (l : CaptureLine) : CaptureLineReport :=
  { state := l.state
    waiting := l.buffer.length
    framing := l.framing
    parity := l.parity
    overrun := l.overrun
    underrun := l.underrun
    framingCount := l.framingCount
    parityCount := l.parityCount
    overrunCount := l.overrunCount
    underrunCount := l.underrunCount }

/-- SHOW CAPTURE (R32). -/
def State.reportCapture (s : State) : CaptureReport :=
  { lines := s.cfr.lines.map CaptureLine.report
    mask := captureMask s.cfr.lines
    channels := s.patched.map fun p =>
      { channel := p.1, patch := p.2, counts := s.cfr.channels.getD p.1 {} } }

/-- SHOW COUNTS (R44, R183). -/
def State.reportCounts (s : State) : CountsReport :=
  { tlu := s.tlu.counts
    capture := s.cfr.lines.map CaptureLine.report
    channels := s.cfr.channels
    sgc := s.sgc.counts
    grade := s.sgc.grade
    stepUp := s.sgc.stepUp
    lastTarget := s.sgc.lastTarget
    lastN := s.sgc.lastN
    lastAllowance := s.sgc.lastAllowance
    portA := s.lku.portA.counts
    portB := s.lku.portB.counts
    dlu := s.dlu.counts
    rst := s.rst.counts
    pcu := s.pcu.counts
    aou := s.aou.counts
    ksp := s.ksp.counts
    kou := s.kou.counts
    csu := s.csu.counts
    attnRaised := s.csu.attnRaised }

/-- SHOW ATTN (R182). -/
def State.reportAttn (s : State) : AttnReport :=
  { highest := (pendingClasses s.csu).head?
    pendingMask := s.csu.pendingMask
    enableMask := s.csu.enableMask
    pinAsserted := s.csu.attnAsserted
    pending := pendingClasses s.csu
    raised := s.csu.attnRaised }

/-- SHOW CONFIG (R179). -/
def State.reportConfig (s : State) : ConfigReport :=
  { status := if s.csu.config.isNone then .absent else if s.csu.locked then .locked else .loaded
    fields := s.csu.config
    digest := if s.csu.config.isSome then s.lku.digest else none }

/-- The report of an item. -/
def State.reportOf (s : State) : ShowItem → Report
  | .state => .state s.reportState
  | .ref => .ref s.reportRef
  | .ports => .ports (s.lku.portA.report s.now) (s.lku.portB.report s.now) s.lku.digest s.lku.enabled
  | .lanes => .lanes (s.lku.portA.reportLanes s.now) (s.lku.portB.reportLanes s.now)
  | .filter => .filter s.reportFilter
  | .roster => .roster s.reportRoster
  | .cues => .cues s.reportCues
  | .peers => .peers s.reportPeers
  | .slots => .slots s.reportSlots
  | .feed => .feed s.reportFeed
  | .spool => .spool s.reportSpool
  | .take => .take s.reportTake
  | .capture => .capture s.reportCapture
  | .counts => .counts s.reportCounts
  | .attn => .attn s.reportAttn
  | .config => .config s.reportConfig

end Sys2Proof.Machine
end

