-- ==== Sys2Proof/Machine/Words.lean ====
section
/-! DEFINITION. The words of a command line (R174): keywords, numbers, and the command a line spells. -/

namespace Sys2Proof.Machine

/-- The ASCII bytes of a word. -/
def ascii (w : String) : Bytes := w.toList.map fun c => BitVec.ofNat 8 c.toNat

/-- A letter as its capital: case does not matter (R170). -/
def capital (b : Byte) : Byte :=
  if 0x61 ≤ b.toNat ∧ b.toNat ≤ 0x7A then b - 0x20 else b

/-- The words of a line, capitals throughout, in order; `acc` is the word under way. -/
def wordsFrom (acc : Bytes) : Bytes → List Bytes
  | [] => if acc.isEmpty then [] else [acc]
  | b :: rest =>
    if b = 0x20 then
      if acc.isEmpty then wordsFrom [] rest else acc :: wordsFrom [] rest
    else wordsFrom (acc ++ [capital b]) rest

/-- The words of a line, separated by spaces (R174). -/
def lineWords (line : Bytes) : List Bytes := wordsFrom [] line

/-- The value of a decimal digit, or of a hexadecimal one in a base of 16. -/
def digitValue (base : Nat) (b : Byte) : Option Nat :=
  let n := b.toNat
  if 0x30 ≤ n ∧ n ≤ 0x39 then some (n - 0x30)
  else if base = 16 ∧ 0x41 ≤ n ∧ n ≤ 0x46 then some (n - 55)
  else none

/-- The number that digits spell, after a value read so far. -/
def numberFrom (base : Nat) : Nat → Bytes → Option Nat
  | acc, [] => some acc
  | acc, b :: rest => (digitValue base b).bind fun d => numberFrom base (acc * base + d) rest

/-- The number a word spells in a base (R174, log 43). -/
def wordNumber (base : Nat) (w : Bytes) : Option Nat :=
  if w.isEmpty then none else numberFrom base 0 w

/-- The items of SHOW and WATCH by name (R174). -/
def itemNames : List (String × ShowItem) :=
  [("STATE", .state), ("REF", .ref), ("PORTS", .ports), ("LANES", .lanes), ("FILTER", .filter),
   ("ROSTER", .roster), ("CUES", .cues), ("PEERS", .peers), ("SLOTS", .slots), ("FEED", .feed),
   ("SPOOL", .spool), ("TAKE", .take), ("CAPTURE", .capture), ("COUNTS", .counts), ("ATTN", .attn),
   ("CONFIG", .config)]

/-- The item a word names. -/
def itemOfWord (w : Bytes) : Option ShowItem :=
  (itemNames.find? fun p => ascii p.1 == w).map (·.2)

/-- The value word of a CUE command (R116). -/
def cueWordOf (w : Bytes) : CueWord :=
  if w = ascii "DARK" then .dark
  else if w = ascii "PRIMED" then .primed
  else if w = ascii "ON" then .on
  else if w = ascii "OFF" then .off
  else .other

/-- The SHOW command of an item. -/
def showOf : ShowItem → Instr
  | .state => .showState
  | .ref => .showRef
  | .ports => .showPorts
  | .lanes => .showLanes
  | .filter => .showFilter
  | .roster => .showRoster
  | .cues => .showCues
  | .peers => .showPeers
  | .slots => .showSlots
  | .feed => .showFeed
  | .spool => .showSpool
  | .take => .showTake
  | .capture => .showCapture
  | .counts => .showCounts
  | .attn => .showAttn
  | .config => .showConfig

/-- A command as a line spells it: the command, and whether its words are in order; a word that is no
allowed value is carried as an argument out of range where the command has one (R174). -/
structure Spelled where
  command : Instr
  wordsGood : Bool
  deriving DecidableEq, Repr

/-- A command that takes no word after its name. -/
def spelledAlone (c : Instr) (args : List Bytes) : Spelled :=
  { command := c, wordsGood := args.isEmpty }

/-- The words after SHOW. -/
def spellShow : List Bytes → Spelled
  | [w] =>
    match itemOfWord w with
    | some i => { command := showOf i, wordsGood := true }
    | none => { command := .showState, wordsGood := false }
  | _ => { command := .showState, wordsGood := false }

/-- The words after WATCH. -/
def spellWatch : List Bytes → Spelled
  | [w] => { command := .watch (itemOfWord w), wordsGood := true }
  | _ => { command := .watch none, wordsGood := true }

/-- The words after CUE; 17 is no item. -/
def spellCue : List Bytes → Spelled
  | [i, v] => { command := .cue ((wordNumber 10 i).getD 17) (cueWordOf v), wordsGood := true }
  | _ => { command := .cue 17 .other, wordsGood := true }

/-- A mask word; one that is no hexadecimal number lies outside every mask's range. -/
def maskOf (args : List Bytes) : Nat :=
  match args with
  | [w] => (wordNumber 16 w).getD 0x10000
  | _ => 0x10000

/-- The words after CLEAR. -/
def spellClear : List Bytes → Spelled
  | [] => { command := .clearCounts, wordsGood := false }
  | w :: args =>
    if w = ascii "ATTN" then { command := .clearAttn (maskOf args), wordsGood := true }
    else if w = ascii "CAPTURE" then { command := .clearCapture (maskOf args), wordsGood := true }
    else if w = ascii "COUNTS" then spelledAlone .clearCounts args
    else { command := .clearCounts, wordsGood := false }

/-- The command a line's words spell; none when the first word is no command (Table 10-3). -/
def spell : List Bytes → Option Spelled
  | [] => none
  | w :: args =>
    if w = ascii "LOAD" then some (spelledAlone .load args)
    else if w = ascii "SHOW" then some (spellShow args)
    else if w = ascii "WATCH" then some (spellWatch args)
    else if w = ascii "ARM" then some (spelledAlone .arm args)
    else if w = ascii "GO" then some (spelledAlone .go args)
    else if w = ascii "END" then some (spelledAlone .endPerformance args)
    else if w = ascii "CUE" then some (spellCue args)
    else if w = ascii "CUT" then some (spelledAlone .cut args)
    else if w = ascii "UNCUT" then some (spelledAlone .uncut args)
    else if w = ascii "CLEAR" then some (spellClear args)
    else if w = ascii "RESET" then some (spelledAlone .reset args)
    else none

/-! ### Texts of replies (Table 10-2, Table 10-5) -/

/-- A refusal code as sent. -/
def RefusalCode.text : RefusalCode → String
  | .state => "?STATE"
  | .ref => "?REF"
  | .mute => "?MUTE"
  | .arg => "?ARG"
  | .locked => "?LOCKED"
  | .sum => "?SUM"
  | .time => "?TIME"
  | .ovr => "?OVR"
  | .brk => "?BRK"
  | .cmd => "?CMD"
  | .long => "?LONG"

/-- A field's name as sent. -/
def FieldName.text : FieldName → String
  | .hall => "HALL"
  | .rate => "RATE"
  | .budget => "BUDGET"
  | .ceiling => "CEILING"
  | .age => "AGE"
  | .station => "STATION"
  | .attn => "ATTN"
  | .lead => "LEAD"
  | .drainEnd => "DRAINEND"
  | .patch => "PATCH"
  | .high => "HIGH"
  | .low => "LOW"
  | .holdT => "HOLDT"
  | .guard => "GUARD"
  | .limit => "LIMIT"
  | .static => "STATIC"
  | .cueInit => "CUEINIT"
  | .airRole => "AIRROLE"
  | .latency => "LATENCY"
  | .conceal => "CONCEAL"
  | .cutMode => "CUTMODE"
  | .cutRef => "CUTREF"
  | .cutEpoch => "CUTEPOCH"
  | .cutDup => "CUTDUP"
  | .cutOp => "CUTOP"
  | .keepRole => "KEEPROLE"
  | .resend => "RESEND"
  | .pad => "PAD"

end Sys2Proof.Machine
end

