-- ==== Sys2Proof/Machine/Console.lean ====
section
/-! DEFINITION. The Console Unit's line: replies, the console commands with their refusals (Table 10-3), the
command line, WATCH, breaks and LOAD (chapter 10). -/

namespace Sys2Proof.Machine

/-! ### Replies (R172) -/

/-- The characters of a report as sent: a free value within the transmit buffer (R172, log 6). -/
def reportLength (r : Report) (closed : Bool) : Nat :=
  1 + Config.reportChars r % 65531 + (if closed then 4 else 0)

/-- The characters of a reply, its CR and LF among them (R172). -/
def Reply.length : Reply → Nat
  | .ok => 4
  | .refused c => c.text.length + 2
  | .badField n => 5 + n.text.length + 2
  | .report r closed => reportLength r closed

/-- The state with the Console Unit's counters changed. -/
def State.countCsu (f : CsuCounts → CsuCounts) (s : State) : State :=
  s.onCsu fun u => { u with counts := f u.counts }

/-- A reply joins the transmit buffer. -/
def sendReply (r : Reply) (s : State) : State :=
  s.onCsu fun u => { u with tx := u.tx ++ [.reply r r.length] }

/-- An item of the transmit buffer is a reply. -/
def TxItem.isReply : TxItem → Bool
  | .reply _ _ => true
  | .echo _ => false

/-- The transmit buffer once every reply in it has been sent: the echoes behind the last one. -/
def dropReplies : List TxItem → List TxItem
  | [] => []
  | x :: rest => if (x :: rest).any TxItem.isReply then dropReplies rest else x :: rest

/-- The transmit buffer once its first reply has been sent. -/
def dropFirstReply : List TxItem → List TxItem
  | [] => []
  | .echo _ :: rest => dropFirstReply rest
  | .reply _ _ :: rest => rest

/-- A command line is taken, which ends the silence after a reset (R175). -/
def speak (s : State) : State := s.onCsu fun u => { u with silent := false }

/-- The replies of the transmit buffer have been sent (log 20). -/
def repliesSent (s : State) : State := s.onCsu fun u => { u with tx := dropReplies u.tx }

/-- A reply is being sent. -/
def Csu.replying (u : Csu) : Bool := u.tx.any TxItem.isReply

/-- The characters of an item of the transmit buffer that are not yet sent. -/
def TxItem.left : TxItem → Nat
  | .echo _ => 1
  | .reply _ n => n

/-- The fill of the transmit buffer. -/
def Csu.fill (u : Csu) : Nat := (u.tx.map TxItem.left).sum

/-- The transmit buffer after one more character has been sent. -/
def sendCharacter : List TxItem → List TxItem
  | [] => []
  | .echo _ :: rest => rest
  | .reply r n :: rest => if n ≤ 1 then rest else .reply r (n - 1) :: rest

/-! ### Refusals, in the order of Table 10-3 -/

/-- LOAD is refused from ARMED onward (R176, R179). -/
def refuseLoad (s : State) : Option RefusalCode := if s.armedOnward then some .locked else none

/-- A command that is taken in any state. -/
def refuseNothing (_ : State) : Option RefusalCode := none

/-- WATCH is refused for a word that is no item (R173). -/
def refuseWatch (item : Option ShowItem) (_ : State) : Option RefusalCode :=
  match item with
  | none => some .arg
  | some _ => none

/-- ARM's conditions on the house count (R8). -/
def State.armCount (s : State) : Bool :=
  match s.tlu.houseCount, s.tlu.incarnation with
  | none, _ => false
  | some _, none => true
  | some n, some i => newer n i

/-- ARM (R8). -/
def refuseArm (s : State) : Option RefusalCode :=
  if s.tlu.station ≠ .configured ∧ s.tlu.station ≠ .done then some .state
  else if ¬ (s.refLocked ∧ s.armCount) then some .ref
  else none

/-- GO (R10). -/
def refuseGo (s : State) : Option RefusalCode :=
  if s.muted then some .mute
  else if s.tlu.station ≠ .armed ∨ s.tlu.epoch.isSome then some .state
  else if ¬ s.refLocked then some .ref
  else none

/-- END (R14). -/
def refuseEnd (s : State) : Option RefusalCode :=
  if s.muted then some .mute
  else if s.tlu.station ≠ .running then some .state
  else none

/-- The value a CUE command gives its item, if it is one of the item's values (R116). -/
def cueCommandValue (item : Nat) (v : CueWord) : Option CueValue :=
  if item < 16 then
    match v with
    | .dark => some .dark
    | .primed => some .primed
    | .on => some .on
    | .off => none
    | .other => none
  else if item = 16 then
    match v with
    | .off => some .off
    | .on => some .on
    | .dark => none
    | .primed => none
    | .other => none
  else none

/-- CUE (Table 7-3). -/
def refuseCue (item : Nat) (v : CueWord) (s : State) : Option RefusalCode :=
  if s.muted then some .mute
  else if ¬ s.armedOnward then some .state
  else if (cueCommandValue item v).isNone then some .arg
  else none

/-- CUT (R144). -/
def refuseCut (s : State) : Option RefusalCode :=
  if s.unconfigured ∨ ¬ (s.csu.config.map (·.cutOp)).getD false then some .state else none

/-- UNCUT (R144). -/
def refuseUncut (s : State) : Option RefusalCode :=
  if s.unconfigured ∨ (s.isCut ∧ s.cutPersists) then some .state else none

/-- A mask outside its range (R24, R182). -/
def refuseMask (top mask : Nat) (_ : State) : Option RefusalCode :=
  if top < mask then some .arg else none

/-! ### Effects of taken commands, each with its reply -/

/-- A change answered OK. -/
def answerOk (f : State → State) (s : State) : State := sendReply .ok (f s)

/-- SHOW of an item (R172). -/
def showEffect (i : ShowItem) (s : State) : State := sendReply (.report (s.reportOf i) true) s

/-- The report of a WATCH is formed and sent, and its repeat timer restarts (R173). -/
def watchReport (i : ShowItem) (s : State) : State :=
  sendReply (.report (s.reportOf i) false) (s.onCsu fun u => { u with
    watch := some { item := i, repeatAt := some (s.now + millis 250), due := false } })

/-- WATCH of an item (R173). -/
def watchEffect (item : Option ShowItem) (s : State) : State :=
  match item with
  | none => s
  | some i => watchReport i s

/-- LOAD: answered OK, the binary phase follows it (R176). -/
def loadEffect (s : State) : State :=
  answerOk (fun s => s.onCsu fun u => { u with load := .announced }) s

/-- The Timeline Unit at ARM (R8). -/
def Tlu.atArm (t : Tlu) : Tlu :=
  { t with
    station := .armed
    incarnation := t.houseCount
    epoch := none
    droppedBase := none
    curIndex := none
    high := none
    last := none
    conflicts := []
    endTimer := .stopped
    voidRun := false
    codedIndex := none }

/-- The Air Outlet at ARM (R146). -/
def Aou.atArm (u : Aou) : Aou :=
  { u with window := [], openMark := none, conceal := List.replicate 512 {}, finished := false }

/-- The blocks' own changes at ARM (R8). -/
def armBlocks (s : State) : State :=
  { s with
    tlu := s.tlu.atArm
    sgc := s.sgc.atArm
    dlu := { s.dlu with nextSeq := 0 }
    aou := s.aou.atArm
    ksp := s.ksp.atArm
    csu := { s.csu with locked := true } }

/-- ARM (R8): the blocks, the roster, the lanes, the first BEACON. -/
def armEffect (s : State) : State :=
  answerOk (fun s => sendBeacon (enableLanes (fillRoster (armBlocks s)))) s

/-- The epoch base of a GO: the current house count plus the start lead (R10). -/
def State.goBase (s : State) : Word :=
  s.tlu.houseCount.getD 0 + BitVec.ofNat 32 ((s.csu.config.map (·.lead)).getD 0)

/-- GO (R10): the base is adopted, then START is originated (log 16). -/
def goEffect (s : State) : State :=
  answerOk (fun s => originate .start (put32 s.goBase) (adoptEpoch s.goBase s.ownId s)) s

/-- The last index of an END: the current index plus 2 (R14). -/
def State.endIndex (s : State) : Index := s.tlu.curIndex.getD 0 + 2

/-- END (R14): L is set and ENDING entered, then END is originated; the ending is tested (R16, R145). -/
def endEffect (s : State) : State :=
  answerOk (fun s => settle (originate .endFrame
    (put32 ((s.tlu.epoch.map (·.base)).getD 0) ++ put32 s.endIndex) (enterEnding s.endIndex s))) s

/-- CUE (R116): a CUE frame numbered clock + 1 is originated, and so applied here. -/
def cueEffect (item : Nat) (v : CueWord) (s : State) : State :=
  answerOk (fun s => originate .cue (cueBytes {
    item := item
    code := cueCode item ((cueCommandValue item v).getD .dark)
    number := s.pcu.clock + 1 }) s) s

/-- CUT presents the operator trigger (R144); slots may leave the window (R143), which may end ENDING. -/
def cutEffect (s : State) : State := answerOk (fun s => settle (cutTrigger (·.cutOp) .operator s)) s

/-- UNCUT leaves CUT (R144). -/
def uncutEffect (s : State) : State := answerOk (fun s => if s.isCut then settle (leaveCut s) else s) s

/-- CLEAR ATTN (R182). -/
def clearAttnEffect (mask : Nat) (s : State) : State :=
  answerOk (fun s => s.onCsu fun u => { u with pendingAttn := clearClasses mask u.pendingAttn }) s

/-- CLEAR CAPTURE (R24). -/
def clearCaptureEffect (mask : Nat) (s : State) : State :=
  answerOk (fun s => s.onCfr fun c => { c with lines := clearFlags mask c.lines }) s

/-- A capture line with its counters at 0. -/
def CaptureLine.clearCounts (l : CaptureLine) : CaptureLine :=
  { l with framingCount := 0, parityCount := 0, overrunCount := 0, underrunCount := 0 }

/-- A port with its counters at 0. -/
def Port.clearCounts (x : Port) : Port := { x with counts := {} }

/-- Every counter of every block at 0 (R183). -/
def zeroCounts (s : State) : State :=
  { s with
    tlu := { s.tlu with counts := {} }
    cfr := { s.cfr with
      lines := s.cfr.lines.map CaptureLine.clearCounts
      channels := s.cfr.channels.map fun _ => {} }
    sgc := { s.sgc with counts := {} }
    lku := { s.lku with portA := s.lku.portA.clearCounts, portB := s.lku.portB.clearCounts }
    dlu := { s.dlu with counts := {} }
    rst := { s.rst with counts := {} }
    pcu := { s.pcu with counts := {} }
    aou := { s.aou with counts := {} }
    ksp := { s.ksp with counts := {} }
    kou := { s.kou with counts := {} }
    csu := { s.csu with counts := {}, attnRaised := s.csu.attnRaised.map fun _ => 0 } }

/-- CLEAR COUNTS (R183). -/
def clearCountsEffect (s : State) : State := answerOk zeroCounts s

/-- RESET: answered OK, the console reset follows it (R175). -/
def resetEffect (s : State) : State :=
  answerOk (fun s => s.onCsu fun u => { u with resetPending := true }) s

/-! ### Taking a command (R170, R174) -/

/-- A line is answered with a refusal code, and counted (R170). -/
def refuseLine (c : RefusalCode) (s : State) : State :=
  sendReply (.refused c) (s.countCsu fun x => { x with cmdRefused := up x.cmdRefused })

/-- A command is refused, or counted and executed (R170, log 18). -/
def command (refusal : State → Option RefusalCode) (effect : State → State) (s : State) : State :=
  match refusal s with
  | some c => refuseLine c s
  | none => effect (s.countCsu fun x => { x with cmdTaken := up x.cmdTaken })

/-- The refusals of a console command; no other command is a line. -/
def refusalOf : Instr → State → Option RefusalCode
  | .load => refuseLoad
  | .watch item => refuseWatch item
  | .arm => refuseArm
  | .go => refuseGo
  | .endPerformance => refuseEnd
  | .cue item v => refuseCue item v
  | .cut => refuseCut
  | .uncut => refuseUncut
  | .clearAttn mask => refuseMask 0x7FF mask
  | .clearCapture mask => refuseMask 0xFFFF mask
  | _ => refuseNothing

/-- The effect of a console command once it is taken; no other command is a line. -/
def effectOf : Instr → State → State
  | .load => loadEffect
  | .showState => showEffect .state
  | .showRef => showEffect .ref
  | .showPorts => showEffect .ports
  | .showLanes => showEffect .lanes
  | .showFilter => showEffect .filter
  | .showRoster => showEffect .roster
  | .showCues => showEffect .cues
  | .showPeers => showEffect .peers
  | .showSlots => showEffect .slots
  | .showFeed => showEffect .feed
  | .showSpool => showEffect .spool
  | .showTake => showEffect .take
  | .showCapture => showEffect .capture
  | .showCounts => showEffect .counts
  | .showAttn => showEffect .attn
  | .showConfig => showEffect .config
  | .watch item => watchEffect item
  | .arm => armEffect
  | .go => goEffect
  | .endPerformance => endEffect
  | .cue item v => cueEffect item v
  | .cut => cutEffect
  | .uncut => uncutEffect
  | .clearAttn mask => clearAttnEffect mask
  | .clearCapture mask => clearCaptureEffect mask
  | .clearCounts => clearCountsEffect
  | .reset => resetEffect
  | _ => id

/-- The words of a line are executed: the listed refusals, then those of the words (R174, log 19). -/
def executeWords (words : List Bytes) (s : State) : State :=
  match spell words with
  | none => refuseLine .cmd s
  | some w =>
    if w.wordsGood then command (refusalOf w.command) (effectOf w.command) s
    else refuseLine ((refusalOf w.command s).getD .arg) s

/-- A line is dealt with in the first of the ways of R170 that applies. -/
def dealWithLine (l : CommandLine) (s : State) : State :=
  if l.overrun then refuseLine .ovr s
  else if l.tooLong then refuseLine .long s
  else if (lineWords l.chars).isEmpty then s
  else executeWords (lineWords l.chars) s

/-- A command line can be taken: no LOAD is under way, no WATCH runs, no reset follows (log 21). -/
def Csu.takesLines (u : Csu) : Bool :=
  decide (u.load = .idle) && u.watch.isNone && !u.resetPending

/-- A command row: the taking of a complete, unmarked line with its words (log 20, log 21). -/
def commandRow (refusal : State → Option RefusalCode) (effect : State → State) (s : State) : State :=
  if s.csu.takesLines then command refusal effect (repliesSent (speak s)) else s

/-- The complete line that waits is taken, with a change of the transmit buffer. -/
def takeLineWith (sent : State → State) (s : State) : State :=
  match s.csu.waiting with
  | none => s
  | some l =>
    if s.csu.takesLines then dealWithLine l (sent (speak (s.onCsu fun u => { u with waiting := none })))
    else s

/-- The complete line that waits is taken, once the replies before it have been sent (R170, log 20). -/
def takeLineWaiting (s : State) : State := takeLineWith repliesSent s

/-! ### Characters (R169, R170, R173, R176) -/

/-- The end of a LOAD without success (Table 10-4). -/
def abandonLoad (r : Reply) (s : State) : State :=
  sendReply r ((s.onCsu fun u => { u with load := .idle }).countCsu fun x =>
    { x with loadFailed := up x.loadFailed })

/-- The 1,026 bytes of a LOAD are checked, and applied or refused (R177). -/
def finishLoad (bytes : Bytes) (s : State) : State :=
  match checkBlock bytes with
  | .failed r => abandonLoad r s
  | .loaded c digest =>
    sendReply .ok (applyLoad c digest (s.onCsu fun u => { u with load := .idle }))

/-- A byte of the binary phase is taken; the idle timer restarts (R176). -/
def loadByte (bytes : Bytes) (b : Byte) (s : State) : State :=
  let all := bytes ++ [b]
  if all.length = 1026 then finishLoad all s
  else s.onCsu fun u => { u with load := .binary all (s.now + seconds 2) }

/-- The WATCH ends: its report completes and OK follows (R173). -/
def endWatch (s : State) : State := sendReply .ok (s.onCsu fun u => { u with watch := none })

/-- The echo of a character of a command line (Table 10-1). -/
def CommandLine.echo (l : CommandLine) (c : Byte) : Bytes :=
  if 0x20 ≤ c.toNat ∧ c.toNat ≤ 0x7E then (if l.chars.length < 80 then [c] else [])
  else if c = 0x08 ∨ c = 0x7F then (if l.chars.isEmpty then [] else [0x08, 0x20, 0x08])
  else if c = 0x0D then [0x0D, 0x0A]
  else []

/-- The current line after a character that does not end it (Table 10-1). Table 10-1 names no character
from 80 to FF: the model discards it without echo, as any other control character (DESIGN CHOICE,
log 49). -/
def CommandLine.put (l : CommandLine) (c : Byte) : CommandLine :=
  if 0x20 ≤ c.toNat ∧ c.toNat ≤ 0x7E then
    if l.chars.length < 80 then { l with chars := l.chars ++ [c] } else { l with tooLong := true }
  else if c = 0x08 ∨ c = 0x7F then { l with chars := l.chars.dropLast }
  else l

/-- The echo of a character, none while nothing may be sent (Table 10-1, R175). -/
def Csu.echo (u : Csu) (c : Byte) : Bytes := if u.silent then [] else u.line.echo c

/-- A character is taken into the current line, with its echo (Table 10-1). -/
def lineCharacter (c : Byte) (s : State) : State :=
  s.onCsu fun u => { u with
    tx := u.tx ++ (u.echo c).map TxItem.echo
    line := if c = 0x0D then {} else u.line.put c
    waiting := if c = 0x0D then some u.line else u.waiting }

/-- A character is taken: into the block, to end a WATCH, or into the line (R169, R173, R176). -/
def takeCharacter (c : Byte) (s : State) : State :=
  match s.csu.load, s.csu.watch with
  | .binary bytes _, _ => loadByte bytes c s
  | _, some _ => endWatch s
  | _, none => lineCharacter c s

/-- The echo of a character finds room in the transmit buffer of 65,536 characters. A character without an echo
waits for none, even while a reply behind echoes has overfilled the buffer (R169, R172, log 41). -/
def Csu.hasRoom (u : Csu) (c : Byte) : Bool :=
  (u.echo c).isEmpty || decide (u.fill + (u.echo c).length ≤ 65536)

/-- The holding character can be taken: none of the exceptions of R169 holds. The second of them, the OK of a
LOAD that is still being sent, is read as barring it while the LOAD stands announced: once an overrun or a
break has abandoned the LOAD, lines are built again (R176) and the character is taken at once, though that OK
may still be under way (DESIGN CHOICE, log 57). -/
def Csu.canTake (u : Csu) (c : Byte) : Bool :=
  match u.load, u.watch with
  | .announced, _ => false
  | .binary _ _, _ => true
  | .idle, some _ => true
  | .idle, none => u.waiting.isNone && u.hasRoom c

/-- The holding character is taken, if there is one and nothing bars it (R169). -/
def takeHolding (s : State) : State :=
  match s.csu.holding with
  | none => s
  | some c =>
    if s.csu.canTake c then takeCharacter c (s.onCsu fun u => { u with holding := none }) else s

/-- A character is lost to an overrun: it abandons a LOAD announced, or marks the line (R169, R176). -/
def overrun (s : State) : State :=
  let t := s.countCsu fun x => { x with conOverrun := up x.conOverrun }
  if s.csu.load = .announced then abandonLoad (.refused .ovr) t
  else t.onCsu fun u => { u with line := { u.line with overrun := true } }

/-- A character completes: it moves into the holding character and is taken when nothing bars it, or is
lost (R169, log 22). -/
def completeCharacter (c : Byte) (s : State) : State :=
  let t := takeHolding s
  if t.csu.holding.isSome then overrun t
  else takeHolding (t.onCsu fun u => { u with holding := some c })

/-- The binary phase begins; a character held until then is its first byte (R176, log 24). -/
def beginBinary (s : State) : State :=
  if s.csu.load = .announced then
    takeHolding ((repliesSent s).onCsu fun u => { u with load := .binary [] (s.now + seconds 2) })
  else s

/-- The idle timer of a LOAD expires (Table 10-4). -/
def loadTimeout (s : State) : State :=
  match s.csu.load with
  | .binary _ t => abandonLoad (.refused .time) (s.reach t)
  | .idle | .announced => s

/-! ### Breaks and repeats (R171, R173) -/

/-- The answer to a break in a command line, none while nothing may be sent (R171, R175, log 50). -/
def answerBreak (s : State) : State := if s.csu.silent then s else sendReply (.refused .brk) s

/-- What a break ends: a LOAD, a WATCH, or the current line (R171). -/
def breakEffect (s : State) : State :=
  if s.csu.load ≠ .idle then abandonLoad (.refused .brk) s
  else if s.csu.watch.isSome then sendReply (.refused .brk) (endWatch s)
  else answerBreak (s.onCsu fun u => { u with line := {} })

/-- A break is taken, after a line that waits; a reply being sent completes, and what the line and the
break are answered follows it (R171, log 23). -/
def takeBreak (s : State) : State :=
  let t := takeLineWith id s
  breakEffect ((t.onCsu fun u => { u with holding := none }).countCsu fun x =>
    { x with conBreak := up x.conBreak })

/-- The repeat timer of a WATCH expires: a report now, or when the one being sent has been sent (R173). -/
def repeatWatch (s : State) : State :=
  match s.csu.watch with
  | none => s
  | some w =>
    match w.repeatAt with
    | none => s
    | some t =>
      let r := s.reach t
      if r.csu.replying then
        r.onCsu fun u => { u with watch := some { w with repeatAt := none, due := true } }
      else watchReport w.item r

/-- A report of WATCH has been sent: one that is due is formed now (R173). -/
def reportDone (s : State) : State :=
  match s.csu.watch with
  | none => s
  | some w =>
    let t := s.onCsu fun u => { u with tx := if u.replying then dropFirstReply u.tx else u.tx }
    if w.due then watchReport w.item t else t

/-- Local time passes while one character of the console line is sent (log 1). -/
def idle (s : State) : State :=
  (s.onCsu fun u => { u with tx := sendCharacter u.tx }).reach (s.now + characterTime)

end Sys2Proof.Machine
end

