-- ==== Sys2Proof/Machine/Commands.lean ====
section
/-! DEFINITION. The meanings of the commands that change the station (Table 10-3). -/

namespace Sys2Proof.Machine

/-- LOAD (R176). -/
def execLoad (s : State) : Answer := .next (commandRow refuseLoad loadEffect s)

/-- ARM (R8). -/
def execArm (s : State) : Answer := .next (commandRow refuseArm armEffect s)

/-- GO (R10). -/
def execGo (s : State) : Answer := .next (commandRow refuseGo goEffect s)

/-- END (R14). -/
def execEndPerformance (s : State) : Answer := .next (commandRow refuseEnd endEffect s)

/-- CUE (R116). -/
def execCue (item : Nat) (v : CueWord) (s : State) : Answer :=
  .next (commandRow (refuseCue item v) (cueEffect item v) s)

/-- CUT (R144). -/
def execCut (s : State) : Answer := .next (commandRow refuseCut cutEffect s)

/-- UNCUT (R144). -/
def execUncut (s : State) : Answer := .next (commandRow refuseUncut uncutEffect s)

/-- CLEAR_ATTN (R182). -/
def execClearAttn (mask : Nat) (s : State) : Answer :=
  .next (commandRow (refuseMask 0x7FF mask) (clearAttnEffect mask) s)

/-- CLEAR_CAPTURE (R24). -/
def execClearCapture (mask : Nat) (s : State) : Answer :=
  .next (commandRow (refuseMask 0xFFFF mask) (clearCaptureEffect mask) s)

/-- CLEAR_COUNTS (R183). -/
def execClearCounts (s : State) : Answer := .next (commandRow refuseNothing clearCountsEffect s)

/-- RESET (R175). -/
def execReset (s : State) : Answer := .next (commandRow refuseNothing resetEffect s)

end Sys2Proof.Machine
end

