-- ==== Sys2Proof/Machine/ConsoleLine.lean ====
section
/-! DEFINITION. The meanings of the console line's events (chapter 10). -/

namespace Sys2Proof.Machine

/-- CHARACTER_COMPLETE (R169). -/
def execCharacterComplete (c : Byte) (s : State) : Answer := .next (completeCharacter c s)

/-- CHARACTER_TAKEN (R170). -/
def execCharacterTaken (s : State) : Answer := .next (takeHolding s)

/-- COMMAND_LINE_TAKEN (R170). -/
def execCommandLineTaken (s : State) : Answer := .next (takeLineWaiting s)

/-- BREAK (R171). -/
def execBreakTaken (s : State) : Answer := .next (takeBreak s)

/-- WATCH_REPEAT_TIMER (R173). -/
def execWatchRepeatTimer (s : State) : Answer := .next (repeatWatch s)

/-- BINARY_PHASE_START (R176). -/
def execBinaryPhaseStart (s : State) : Answer := .next (beginBinary s)

/-- LOAD_IDLE_TIMEOUT (R176). -/
def execLoadIdleTimeout (s : State) : Answer := .next (loadTimeout s)

/-- REPORT_SENT (R173). -/
def execReportSent (s : State) : Answer := .next (reportDone s)

end Sys2Proof.Machine
end

