-- ==== Sys2Proof/Machine/Feeds.lean ====
section
/-! DEFINITION. The meanings of the outlets', the spool's and the ending's events (chapters 1, 8 and 9). -/

namespace Sys2Proof.Machine

/-- The slot of an index closes by its deadline (R133). -/
def closeByDeadline (n : Index) (s : State) : State :=
  s.onAou fun u => { u with
    window := updateSlot n (fun t => { t with state := .closed .deadline }) u.window
    counts := { u.counts with slotDeadline := up u.counts.slotDeadline } }

/-- The deadline of an OPEN slot expires (R133). -/
def deadlineExpires (n : Index) (s : State) : State :=
  match s.aou.deadlineOf n with
  | none => s
  | some t => feedSettle (closeByDeadline n (s.reach t))

/-- SLOT_DEADLINE (R133). -/
def execSlotDeadline (n : Index) (s : State) : Answer := .next (settle (deadlineExpires n s))

/-- The program feed record that is SENDING completes (R138). -/
def feedRecordSent (s : State) : State :=
  match sendingRecord s.aou.feed with
  | none => s
  | some _ => feedSettle (s.onAou fun u => { u with
      feed := dropSending u.feed
      counts := { u.counts with recSent := up u.counts.recSent } })

/-- FEED_RECORD_COMPLETE (R138). -/
def execFeedRecordComplete (s : State) : Answer := .next (settle (feedRecordSent s))

/-- READY of the program feed rises: the AOU looks for a start (R138). -/
def programReady (s : State) : State := startFeed (s.onAou fun u => { u with ready := true })

/-- PROGRAM_READY_RISE (R138). -/
def execProgramReadyRise (s : State) : Answer := .next (programReady s)

/-- READY of the program feed falls: no effect on a record SENDING (R139). -/
def programNotReady (s : State) : State := s.onAou fun u => { u with ready := false }

/-- PROGRAM_READY_FALL (R139). -/
def execProgramReadyFall (s : State) : Answer := .next (programNotReady s)

/-- The END drain timer expires, when it runs (R16). -/
def drainTimerExpires (s : State) : State :=
  match s.tlu.endTimer with
  | .runningUntil t => (s.reach t).onTlu fun u => { u with endTimer := .expired }
  | .stopped | .expired => s

/-- END_DRAIN_TIMER (R16). -/
def execEndDrainTimer (s : State) : Answer := .next (settle (drainTimerExpires s))

/-- The resend timer expires, when it runs: a go-back (R156). -/
def resendExpires (s : State) : State :=
  match s.ksp.resendAt with
  | none => s
  | some t => (s.reach t).onKsp (Ksp.goBack (max s.now t))

/-- RESEND_TIMER (R156). -/
def execResendTimer (s : State) : Answer := .next (settle (resendExpires s))

/-- The archive record that is SENDING completes (R163, R165). -/
def archiveRecordSent (s : State) : State :=
  match sendingRecord s.kou.lines with
  | none => s
  | some r => archiveSettle (recordSent r (s.onKou fun k => { k with
      lines := dropSending k.lines
      counts := { k.counts with archSent := up k.counts.archSent } }))

/-- ARCHIVE_RECORD_COMPLETE (R163). -/
def execArchiveRecordComplete (s : State) : Answer := .next (settle (archiveRecordSent s))

/-- READY of the archive feed rises: the outlet looks for a start (R163). -/
def archiveReady (s : State) : State := archiveSettle (s.onKou fun k => { k with ready := true })

/-- ARCHIVE_READY_RISE (R163). -/
def execArchiveReadyRise (s : State) : Answer := .next (settle (archiveReady s))

/-- READY of the archive feed falls: no effect on a record SENDING (R164). -/
def archiveNotReady (s : State) : State := s.onKou fun k => { k with ready := false }

/-- ARCHIVE_READY_FALL (R164). -/
def execArchiveReadyFall (s : State) : Answer := .next (archiveNotReady s)

end Sys2Proof.Machine
end

