-- ==== Sys2Proof/Machine/Resets.lean ====
section
/-! DEFINITION. The meanings of the two resets (R6, R175, R184). -/

namespace Sys2Proof.Machine

/-- POWER_ON_RESET (R6): every block as after reset, cause power-on. -/
def execPowerOnReset (s : State) : Answer := .next (resetWith .powerOn s)

/-- CONSOLE_RESET (R175): every block as after reset, cause console (log 20). -/
def execConsoleReset (s : State) : Answer := .next (resetWith .console s)

end Sys2Proof.Machine
end

