-- ==== Sys2Proof/Machine/Ring.lean ====
section
/-! DEFINITION. The meanings of the ring ports' and the peers' events (chapters 4, 5 and 7). -/

namespace Sys2Proof.Machine

/-- A HELLO falls due on both ports, when the schedule runs (R45, log 40). -/
def helloDue (s : State) : State :=
  match s.lku.helloAt with
  | none => s
  | some t =>
    offerHello .b (offerHello .a ((s.reach t).onLku fun k => { k with helloAt := some (t + millis 1) }))

/-- HELLO_TIMER (R45). -/
def execHelloTimer (s : State) : Answer := .next (helloDue s)

/-- Carrier appears: from CONFIGURED onward a port in DOWN enters LISTEN (R49). -/
def carrierAppears (p : PortId) (s : State) : State :=
  s.onPort p fun x => { x with
    carrier := true
    link := if x.link = .down ∧ ¬ s.unconfigured then .listen else x.link }

/-- CARRIER_APPEAR (R49). -/
def execCarrierAppear (p : PortId) (s : State) : Answer := .next (carrierAppears p s)

/-- Carrier is lost: a port that is not in DOWN counts it and goes to DOWN (R53). -/
def carrierLost (p : PortId) (s : State) : State :=
  let t := s.onPort p fun x => { x with carrier := false }
  if (s.port p).link = .down then t
  else goDown p (t.countPort p fun c => { c with carrierLoss := up c.carrierLoss })

/-- CARRIER_LOSS (R53). -/
def execCarrierLoss (p : PortId) (s : State) : Answer := .next (settle (carrierLost p s))

/-- The silence timer of a port expires, when it runs (R53). -/
def silenceExpires (p : PortId) (s : State) : State :=
  match (s.port p).silence with
  | none => s
  | some t => goDown p ((s.reach t).countPort p fun c => { c with silence := up c.silence })

/-- SILENCE_EXPIRY (R53). -/
def execSilenceExpiry (p : PortId) (s : State) : Answer := .next (settle (silenceExpires p s))

/-- RX_FRAME_COMPLETE (R48). -/
def execRxFrameComplete (p : PortId) (frame : Bytes) (s : State) : Answer :=
  .next (settle (receiveFrame p frame s))

/-- The hold timer of a port expires, when it runs (R85). -/
def holdExpires (p : PortId) (s : State) : State :=
  match (s.port p).heldUntil with
  | none => s
  | some t =>
    releaseLane2 p ((s.reach t).countPort p fun c => { c with holdExpired := up c.holdExpired })

/-- HOLD_TIMER_EXPIRY (R85). -/
def execHoldTimerExpiry (p : PortId) (s : State) : Answer := .next (settle (holdExpires p s))

/-- The refresh timer of a congested port expires: HOLD(t) again on the other port, and the timer
restarts (R81). -/
def refreshExpires (p : PortId) (s : State) : State :=
  match (s.port p).refreshAt with
  | none => s
  | some t =>
    let r := s.reach t
    offerHold (other p) r.holdTime (r.onPort p fun x => { x with refreshAt := some r.refreshDue })

/-- HOLD_REFRESH_TIMER (R81). -/
def execHoldRefreshTimer (p : PortId) (s : State) : Answer := .next (refreshExpires p s)

/-- The frame in transmission has been sent: the arbiter chooses again (R64). -/
def frameSent (p : PortId) (s : State) : State :=
  match (s.port p).tx with
  | none => s
  | some f => kick p (s.onPort p fun x => { x with tx := none, counts := countSent f x.counts })

/-- TX_COMPLETE (R64). -/
def execTxComplete (p : PortId) (s : State) : Answer := .next (settle (frameSent p s))

/-- The beacon timer expires, when it runs: a BEACON, unless MUTED, and the timer restarts (R118). -/
def beaconDue (s : State) : State :=
  match s.pcu.beaconAt with
  | none => s
  | some t => if s.muted then restartBeacon (s.reach t) else sendBeacon (s.reach t)

/-- BEACON_TIMER (R118). -/
def execBeaconTimer (s : State) : Answer := .next (beaconDue s)

/-- The loss timer of a peer expires, when there is such a peer (R123). -/
def peerTimerExpires (station : Nat) (s : State) : State :=
  match atStation s.pcu.peers station with
  | none => s
  | some p => losePeer station p (s.reach p.lossAt)

/-- PEER_LOSS_TIMER (R123). -/
def execPeerLossTimer (station : Nat) (s : State) : Answer :=
  .next (settle (peerTimerExpires station s))

end Sys2Proof.Machine
end

