-- ==== Sys2Proof/Machine/Shows.lean ====
section
/-! DEFINITION. The meanings of SHOW and WATCH (R172 to R174). -/

namespace Sys2Proof.Machine

/-- SHOW_STATE (R17). -/
def execShowState (s : State) : Answer := .next (commandRow refuseNothing (showEffect .state) s)

/-- SHOW_REF (R17). -/
def execShowRef (s : State) : Answer := .next (commandRow refuseNothing (showEffect .ref) s)

/-- SHOW_PORTS (R67). -/
def execShowPorts (s : State) : Answer := .next (commandRow refuseNothing (showEffect .ports) s)

/-- SHOW_LANES (R67). -/
def execShowLanes (s : State) : Answer := .next (commandRow refuseNothing (showEffect .lanes) s)

/-- SHOW_FILTER (R88). -/
def execShowFilter (s : State) : Answer := .next (commandRow refuseNothing (showEffect .filter) s)

/-- SHOW_ROSTER (R110). -/
def execShowRoster (s : State) : Answer := .next (commandRow refuseNothing (showEffect .roster) s)

/-- SHOW_CUES (R126). -/
def execShowCues (s : State) : Answer := .next (commandRow refuseNothing (showEffect .cues) s)

/-- SHOW_PEERS (R126). -/
def execShowPeers (s : State) : Answer := .next (commandRow refuseNothing (showEffect .peers) s)

/-- SHOW_SLOTS (R147). -/
def execShowSlots (s : State) : Answer := .next (commandRow refuseNothing (showEffect .slots) s)

/-- SHOW_FEED (R147). -/
def execShowFeed (s : State) : Answer := .next (commandRow refuseNothing (showEffect .feed) s)

/-- SHOW_SPOOL (R167). -/
def execShowSpool (s : State) : Answer := .next (commandRow refuseNothing (showEffect .spool) s)

/-- SHOW_TAKE (R168). -/
def execShowTake (s : State) : Answer := .next (commandRow refuseNothing (showEffect .take) s)

/-- SHOW_CAPTURE (R32). -/
def execShowCapture (s : State) : Answer := .next (commandRow refuseNothing (showEffect .capture) s)

/-- SHOW_COUNTS (R183). -/
def execShowCounts (s : State) : Answer := .next (commandRow refuseNothing (showEffect .counts) s)

/-- SHOW_ATTN (R182). -/
def execShowAttn (s : State) : Answer := .next (commandRow refuseNothing (showEffect .attn) s)

/-- SHOW_CONFIG (R179). -/
def execShowConfig (s : State) : Answer := .next (commandRow refuseNothing (showEffect .config) s)

/-- WATCH (R173). -/
def execWatch (item : Option ShowItem) (s : State) : Answer :=
  .next (commandRow (refuseWatch item) (watchEffect item) s)

end Sys2Proof.Machine
end

