-- ==== Sys2Proof/Machine/Dispatch.lean ====
section
/-! DEFINITION. Each command with its meaning: one arm per constructor of `Instr`. -/

namespace Sys2Proof.Machine

def exec (i : Instr) (s : State) : Host.Outcome State Fault Refusal :=
  match i with
  | .powerOnReset => Sys2Proof.Machine.execPowerOnReset s
  | .consoleReset => Sys2Proof.Machine.execConsoleReset s
  | .characterComplete c => Sys2Proof.Machine.execCharacterComplete c s
  | .characterTaken => Sys2Proof.Machine.execCharacterTaken s
  | .commandLineTaken => Sys2Proof.Machine.execCommandLineTaken s
  | .breakTaken => Sys2Proof.Machine.execBreakTaken s
  | .watchRepeatTimer => Sys2Proof.Machine.execWatchRepeatTimer s
  | .binaryPhaseStart => Sys2Proof.Machine.execBinaryPhaseStart s
  | .loadIdleTimeout => Sys2Proof.Machine.execLoadIdleTimeout s
  | .load => Sys2Proof.Machine.execLoad s
  | .showState => Sys2Proof.Machine.execShowState s
  | .showRef => Sys2Proof.Machine.execShowRef s
  | .showPorts => Sys2Proof.Machine.execShowPorts s
  | .showLanes => Sys2Proof.Machine.execShowLanes s
  | .showFilter => Sys2Proof.Machine.execShowFilter s
  | .showRoster => Sys2Proof.Machine.execShowRoster s
  | .showCues => Sys2Proof.Machine.execShowCues s
  | .showPeers => Sys2Proof.Machine.execShowPeers s
  | .showSlots => Sys2Proof.Machine.execShowSlots s
  | .showFeed => Sys2Proof.Machine.execShowFeed s
  | .showSpool => Sys2Proof.Machine.execShowSpool s
  | .showTake => Sys2Proof.Machine.execShowTake s
  | .showCapture => Sys2Proof.Machine.execShowCapture s
  | .showCounts => Sys2Proof.Machine.execShowCounts s
  | .showAttn => Sys2Proof.Machine.execShowAttn s
  | .showConfig => Sys2Proof.Machine.execShowConfig s
  | .watch item => Sys2Proof.Machine.execWatch item s
  | .arm => Sys2Proof.Machine.execArm s
  | .go => Sys2Proof.Machine.execGo s
  | .endPerformance => Sys2Proof.Machine.execEndPerformance s
  | .cue item value => Sys2Proof.Machine.execCue item value s
  | .cut => Sys2Proof.Machine.execCut s
  | .uncut => Sys2Proof.Machine.execUncut s
  | .clearAttn mask => Sys2Proof.Machine.execClearAttn mask s
  | .clearCapture mask => Sys2Proof.Machine.execClearCapture mask s
  | .clearCounts => Sys2Proof.Machine.execClearCounts s
  | .reset => Sys2Proof.Machine.execReset s
  | .markTaken count spacing => Sys2Proof.Machine.execMarkTaken count spacing s
  | .referenceLossTimer => Sys2Proof.Machine.execReferenceLossTimer s
  | .sampleFrameComplete line runs => Sys2Proof.Machine.execSampleFrameComplete line runs s
  | .lossOfFraming arrived => Sys2Proof.Machine.execLossOfFraming arrived s
  | .sampleTake => Sys2Proof.Machine.execSampleTake s
  | .segmentCoded => Sys2Proof.Machine.execSegmentCoded s
  | .helloTimer => Sys2Proof.Machine.execHelloTimer s
  | .carrierAppear port => Sys2Proof.Machine.execCarrierAppear port s
  | .carrierLoss port => Sys2Proof.Machine.execCarrierLoss port s
  | .silenceExpiry port => Sys2Proof.Machine.execSilenceExpiry port s
  | .rxFrameComplete port frame => Sys2Proof.Machine.execRxFrameComplete port frame s
  | .holdTimerExpiry port => Sys2Proof.Machine.execHoldTimerExpiry port s
  | .holdRefreshTimer port => Sys2Proof.Machine.execHoldRefreshTimer port s
  | .txComplete port => Sys2Proof.Machine.execTxComplete port s
  | .beaconTimer => Sys2Proof.Machine.execBeaconTimer s
  | .peerLossTimer station => Sys2Proof.Machine.execPeerLossTimer station s
  | .slotDeadline index => Sys2Proof.Machine.execSlotDeadline index s
  | .feedRecordComplete => Sys2Proof.Machine.execFeedRecordComplete s
  | .programReadyRise => Sys2Proof.Machine.execProgramReadyRise s
  | .programReadyFall => Sys2Proof.Machine.execProgramReadyFall s
  | .endDrainTimer => Sys2Proof.Machine.execEndDrainTimer s
  | .resendTimer => Sys2Proof.Machine.execResendTimer s
  | .archiveRecordComplete => Sys2Proof.Machine.execArchiveRecordComplete s
  | .archiveReadyRise => Sys2Proof.Machine.execArchiveReadyRise s
  | .archiveReadyFall => Sys2Proof.Machine.execArchiveReadyFall s
  | .reportSent => Sys2Proof.Machine.execReportSent s

end Sys2Proof.Machine
end

