-- ==== Sys2Proof/Machine/Step.lean ====
section
/-! DEFINITION. One step: the command at the front of the queue, or the passing of local time. -/

namespace Sys2Proof.Machine

/-- The state without its queue's front: the queue is what is left of it. -/
def State.withQueue (q : List Instr) (s : State) : State := { s with pending := q }

/-- Take the command at the front of the queue and run it with the queue's rest. On an empty queue local
time passes for one console character, and one character of the transmit buffer is sent (log 1). -/
def step (s : State) : Host.Outcome State Fault Refusal :=
  match s.pending with
  | [] => .next (idle s)
  | c :: rest => exec c (s.withQueue rest)

/-- The state with the command that a table word spells at the front of its queue; unchanged where the
word spells none. -/
def State.withFetchWord (s : State) (nbits w : Nat) : State :=
  match decodeTableWord nbits w with
  | none => s
  | some c => s.withQueue (c :: s.pending)

end Sys2Proof.Machine
end

