-- ==== Sys2Proof/Safety.lean ====
section
/-! DEFINITION. What is to hold of every state the station can be in: the limits of its buffers and
tables, and the laws its chapters state. -/

namespace Sys2Proof.Machine

/-! ### The spool (R150, R156) -/

/-- The spool law: free ≤ drain ≤ write and write − free ≤ 262,144 as wrapping differences; the retained
entries are those of the sequences from free up to write − 1, in order; the resend timer runs exactly
while free is not drain. -/
structure Ksp.Law (k : Ksp) : Prop where
  order : k.drained + k.undrained = k.retained
  room : k.retained ≤ spoolCapacity
  held : k.entries.length = k.retained
  numbered : ∀ i b, k.entries[i]? = some b → b.sequence = k.free + BitVec.ofNat 32 i
  timer : k.resendAt = none ↔ k.free = k.drain

/-! ### Buffers, queues and tables -/

/-- The queues of a port are within their capacities (Table 4-7, R45). -/
structure Port.Fits (x : Port) : Prop where
  linkLocal : x.linkQueue.length ≤ 2
  lane0 : x.queue0.length ≤ 32
  lane1 : x.queue1.length ≤ 64
  lane2 : x.queue2.length ≤ 128

/-- A capture line has at most two frames waiting, and never holds the bits of two sync words and of the
slots of the second (R19, R21). -/
def CaptureLine.Fits (l : CaptureLine) : Prop := l.buffer.length ≤ 2 ∧ l.held.length < 432

/-- Every buffer, queue and table is within its size, but for the transmit buffer, which takes a reply whole
whatever its fill (log 41). -/
structure Fits (s : State) : Prop where
  portA : s.lku.portA.Fits
  portB : s.lku.portB.Fits
  /-- Four capture lines, each with at most two frames (R21). -/
  lines : s.cfr.lines.length = 4 ∧ ∀ l ∈ s.cfr.lines, l.Fits
  /-- At most 12 slots (R128). -/
  window : s.aou.window.length ≤ 12
  /-- Two program feed buffers (R138). -/
  feed : s.aou.feed.length ≤ 2
  /-- 64 places of the archive queue (R162). -/
  archive : s.kou.queue.length ≤ 64
  /-- Two archive line buffers (R163). -/
  lineBuffers : s.kou.lines.length ≤ 2
  /-- One conceal place for each track (R135). -/
  conceal : s.aou.conceal.length = 512
  /-- One place for each station id, in each table. -/
  stations : s.dlu.filter.length = 16 ∧ s.pcu.peers.length = 16 ∧ s.kou.take.length = 16
  /-- Eleven attention classes (Table 10-6). -/
  classes : s.csu.pendingAttn.length = 11 ∧ s.csu.attnRaised.length = 11
  /-- At most 80 characters in a command line (Table 10-1). -/
  line : s.csu.line.chars.length ≤ 80
  /-- Fewer than 1,026 bytes of a LOAD under way (R176). -/
  load : ∀ bytes at_, s.csu.load = .binary bytes at_ → bytes.length < 1026
  /-- The 17 items of a cue table (R111). -/
  cues : ∀ items, s.pcu.cues = some items → items.length = 17

/-! ### The roster (R89, R90, R96) -/

/-- The tracks of the roster rise strictly: ascending order, no track twice (R89, R90). -/
def Rst.Ordered (r : Rst) : Prop := r.entries.Pairwise fun a b => a.track < b.track

/-- The roster law: order, at most 320 entries, and a configured static list of at most 64 (R90). -/
structure RosterLaw (s : State) : Prop where
  ordered : s.rst.Ordered
  bounded : s.rst.entries.length ≤ rosterCapacity
  statics : s.statics.length ≤ 64

/-- The kind law: each static entry is one of the configured static list, each LOCAL entry is of a patched
channel, and the roster holds at most 64 static and at most 32 LOCAL entries (R90, R92, R104). -/
structure KindLaw (s : State) : Prop where
  listed : ∀ e ∈ s.rst.entries, e.claim.isPin = true ∨ e.claim.isBar = true →
    ∃ x ∈ s.statics, staticEntry x = e
  patched : ∀ e ∈ s.rst.entries, e.claim.isLocal = true → ∃ p ∈ s.patched, p.2.track = e.track
  statics : (s.rst.count fun c => c.isPin || c.isBar) ≤ 64
  locals : s.rst.count Claim.isLocal ≤ 32

/-- The claim law: no origin has more LEARNED entries than its claim limit (R96). -/
def ClaimLaw (s : State) : Prop := ∀ st, learnedCount st s.rst.entries ≤ s.claimLimit st

/-! ### The station's life (R7 to R16, R56, R91, R111, R179) -/

/-- What the station states go with. -/
structure Lifecycle (s : State) : Prop where
  /-- A configuration and a cue table are present exactly outside UNCONFIGURED. -/
  config : s.csu.config.isSome = !s.unconfigured
  cues : s.pcu.cues.isSome = !s.unconfigured
  /-- The configuration is locked, and lanes 1 and 2 are enabled, exactly from ARMED onward. -/
  locked : s.csu.locked = s.armedOnward
  enabled : s.lku.enabled = s.armedOnward
  /-- No LOAD is under way from ARMED onward. -/
  loading : s.armedOnward = true → s.csu.load = .idle
  /-- There is an incarnation, and the beacon timer runs, exactly from ARMED onward (R8, R118). -/
  incarnation : s.tlu.incarnation.isSome = s.armedOnward
  beacon : s.pcu.beaconAt.isSome = s.armedOnward
  /-- RUNNING, ENDING and DONE hold an epoch and an H; ENDING and DONE hold an L. -/
  epoch : s.armedOnward = true → s.tlu.station ≠ .armed →
    s.tlu.epoch.isSome = true ∧ s.tlu.high.isSome = true
  last : s.tlu.station = .ending ∨ s.tlu.station = .done → s.tlu.last.isSome = true
  /-- The END drain timer is stopped outside ENDING. -/
  drainTimer : s.tlu.station ≠ .ending → s.tlu.endTimer = .stopped
  /-- The loss timer runs exactly in ACQUIRING and LOCKED (R2). -/
  lossTimer : s.tlu.lossTimer.isSome = (s.tlu.ref == .acquiring || s.tlu.ref == .locked)
  /-- In UNCONFIGURED the reference is NONE (R1). -/
  reference : s.unconfigured = true → s.tlu.ref = .noRef
  /-- Before ARM the roster, the spool and the window are empty, and no batch or accumulation is held. -/
  idle : s.armedOnward = false →
    s.rst.entries = [] ∧ s.ksp = { counts := s.ksp.counts } ∧ s.aou.window = [] ∧
      s.aou.openMark = none ∧ s.sgc.batch = none ∧ s.sgc.grade = 0 ∧ s.cfr.period = none ∧
      s.dlu.nextSeq = 0

/-! ### Ring ports (R49 to R57, R60, R61) -/

/-- A lane of a port holds frames only when it is OPEN (R60, R61). -/
def laneIdle (st : LaneState) (q : List Bytes) : Prop := st ≠ .opened → q = []

/-- What the link state of a port goes with. -/
structure Port.Law (x : Port) : Prop where
  /-- Outside UP: queues empty, lanes CLOSED, seen mask empty, lane 2 not held, no congestion. -/
  notUp : x.link ≠ .up → x.queue0 = [] ∧ x.lane1 = .closed ∧ x.lane2 = .closed ∧ x.seen1 = false ∧
    x.seen2 = false ∧ x.heldUntil = none ∧ x.refreshAt = none
  /-- Outside UP no HOLD waits (R55, R83). -/
  hellos : x.link ≠ .up → ∀ f ∈ x.linkQueue, f = .hello
  /-- In DOWN and in LISTEN only a HELLO is in transmission (R55, R64). -/
  quiet : x.link = .down ∨ x.link = .listen → ∀ f, x.tx = some f → ∃ b, f = .hello b
  lane1 : laneIdle x.lane1 x.queue1
  lane2 : laneIdle x.lane2 x.queue2
  /-- The neighbour record is held and the silence timer runs exactly in BARRED and UP. -/
  neighbour : x.neighbour.isSome = (x.link == .barred || x.link == .up)
  silence : x.silence.isSome = (x.link == .barred || x.link == .up)
  /-- BARRED has a cause, and no other state has. -/
  cause : x.cause.clear = !(x.link == .barred)
  /-- A port outside DOWN has carrier. -/
  carrier : x.link ≠ .down → x.carrier = true

/-- The ports: each by its law; both DOWN while UNCONFIGURED, and none DOWN with carrier otherwise
(R49); no lane open before ARM (R56). -/
structure LinkLaw (s : State) : Prop where
  portA : s.lku.portA.Law
  portB : s.lku.portB.Law
  down : s.unconfigured = true → s.lku.portA.link = .down ∧ s.lku.portB.link = .down
  listen : s.unconfigured = false →
    (s.lku.portA.carrier = true → s.lku.portA.link ≠ .down) ∧
      (s.lku.portB.carrier = true → s.lku.portB.link ≠ .down)
  lanes : s.lku.enabled = false →
    s.lku.portA.lane1 = .closed ∧ s.lku.portA.lane2 = .closed ∧
      s.lku.portB.lane1 = .closed ∧ s.lku.portB.lane2 = .closed

/-! ### The slot window (R128) -/

/-- The window's slots are in strictly ascending index, none above the open mark (R128, R129). -/
structure WindowLaw (s : State) : Prop where
  ascending : s.aou.window.Pairwise fun a b => a.index.toInt < b.index.toInt
  marked : ∀ t ∈ s.aou.window, ∃ m, s.aou.openMark = some m ∧ t.index.toInt ≤ m.toInt
  /-- No slot has opened yet in ARMED. -/
  armed : s.tlu.station = .armed → s.aou.openMark = none
  /-- In RUNNING and ENDING the open mark is not above H (R5, R129). -/
  high : s.performing = true → ∀ m, s.aou.openMark = some m →
    ∃ h, s.tlu.high = some h ∧ m.toInt ≤ h.toInt

/-! ### What an attention and a cut trigger leave (R141, R180) -/

/-- A class has been raised once between two states: its first cause is kept, the raise is counted. -/
def State.Raised (c : AttnClass) (cause : Cause) (s t : State) : Prop :=
  s.csu.pendingAttn.length = 11 → s.csu.attnRaised.length = 11 →
    t.csu.pendingAttn.getD c.rank none = some ((s.csu.pendingAttn.getD c.rank none).getD cause) ∧
    t.csu.attnRaised.getD c.rank 0 = up (s.csu.attnRaised.getD c.rank 0)

/-- A class has been raised for each of a list of causes, in order. -/
def State.RaisedFor (c : AttnClass) (causes : List Cause) (s t : State) : Prop :=
  s.csu.pendingAttn.length = 11 → s.csu.attnRaised.length = 11 →
    t.csu.pendingAttn.getD c.rank none = (s.csu.pendingAttn.getD c.rank none).or causes.head? ∧
    t.csu.attnRaised.getD c.rank 0 = upBy (s.csu.attnRaised.getD c.rank 0) causes.length

/-- A class has not been raised between two states, nor cleared. -/
def State.Unraised (c : AttnClass) (s t : State) : Prop :=
  t.csu.pendingAttn.getD c.rank none = s.csu.pendingAttn.getD c.rank none ∧
  t.csu.attnRaised.getD c.rank 0 = s.csu.attnRaised.getD c.rank 0

/-- Between two states the cut state and its cause are kept, and no entry into CUT is counted or raised. -/
def State.CutKept (s t : State) : Prop :=
  t.aou.cut = s.aou.cut ∧ t.aou.counts.cutEntered = s.aou.counts.cutEntered ∧ State.Unraised .cut s t

/-- A trigger has been presented once between two states (R141): with its field off it is ignored and counted
nowhere; with it on it is counted, and a CLEAR station enters CUT with its cause, counted, and raises CUT, while
a CUT one keeps its cause and raises nothing. -/
def State.Triggered (field : Configuration → Bool) (cause : CutCause) (s t : State) : Prop :=
  ∀ c, s.csu.config = some c →
    (field c = false → t.aou.counts.cutTrigger = s.aou.counts.cutTrigger ∧ State.CutKept s t) ∧
    (field c = true → t.aou.counts.cutTrigger = up s.aou.counts.cutTrigger ∧
      (s.aou.cut = none → t.aou.cut = some cause ∧
        t.aou.counts.cutEntered = up s.aou.counts.cutEntered ∧
        State.Raised .cut (.cutEntered cause) s t) ∧
      (s.aou.cut.isSome = true → State.CutKept s t))

/-- The open accumulations are gone, and each channel of an indexed one counts SEG_DISCARD (R29). -/
def State.Discarded (s t : State) : Prop :=
  t.cfr.period = none ∧
  ∀ p, s.cfr.period = some p → (p.accs.map (·.channel)).Nodup →
    ∀ (k : Nat) (c : ChannelCounts), s.cfr.channels[k]? = some c →
      t.cfr.channels[k]? = some { c with
        segDiscard := upIf (p.index.isSome && p.accs.any fun a => a.channel == k) c.segDiscard }

/-! ### What a HOLD offered to a port leaves (R83) -/

/-- A port once HOLD(t) has been offered to its link-local queue: outside UP nothing; a queue of two drops
it, counted; behind a frame in transmission it waits; on an idle port with an empty queue it starts. -/
def State.HoldOffered (s : State) (t : Nat) (y z : Port) : Prop :=
  (y.link ≠ .up → z = y) ∧
  (y.link = .up → 2 ≤ y.linkQueue.length →
    z = { y with counts := { y.counts with llDrop := up y.counts.llDrop } }) ∧
  (y.link = .up → y.linkQueue.length < 2 → y.tx ≠ none →
    z = { y with linkQueue := y.linkQueue ++ [.hold s.ownId t] }) ∧
  (y.link = .up → y.linkQueue = [] → y.tx = none →
    z = { y with tx := some (.hold t (holdBytes s.ownId t)) })

/-! ### What a console command leaves -/

/-- The state in which a command's effect begins: the replies before it have been sent, and the command
is counted (R170). -/
def State.taken (s : State) : State :=
  { s with csu := { s.csu with
      silent := false
      tx := dropReplies s.csu.tx
      counts := { s.csu.counts with cmdTaken := up s.csu.counts.cmdTaken } } }

/-- The state with one more reply in the transmit buffer (R172). -/
def State.replied (r : Reply) (s : State) : State :=
  { s with csu := { s.csu with tx := s.csu.tx ++ [.reply r r.length] } }

/-- The state after a refused command: a refusal in the transmit buffer, CMD_REFUSED, and nothing else
(R170, R174). -/
def State.turnedDown (c : RefusalCode) (s : State) : State :=
  { s with csu := { s.csu with
      silent := false
      tx := dropReplies s.csu.tx ++ [.reply (.refused c) (Reply.refused c).length]
      counts := { s.csu.counts with cmdRefused := up s.csu.counts.cmdRefused } } }

end Sys2Proof.Machine
end

