-- ==== Sys2Proof/Certificates/Slice0/Obligations.lean ====
section
/-! DEFINITION. The statements for the provers. -/

open Sys2Proof Sys2Proof.Machine

/-! ### The machine -/

/-- A step runs the command at the front of the queue on the state with the queue's rest. With no command
waiting one character time of 86.8 µs passes and one character of the transmit buffer is sent, and nothing
else changes: that is the model's choice (log 1). -/
def Obligations.StepRunsFrontCommand : Prop :=
  ∀ s : State,
    (∀ (c : Instr) (q : List Instr), s.pending = c :: q → step s = exec c { s with pending := q }) ∧
    (s.pending = [] → step s = .next { s with
      now := s.now + 86800
      csu := { s.csu with tx := sendCharacter s.csu.tx } })

/-- Every command, in every state, answers a next state, leaves the queue as it is, and never sets local time
back. These are the model's choices: no rule of the manual stops the part (log 4), a reset keeps the queue
and local time (log 14), and an expiry moves local time to the later of itself and its due time (log 2). -/
def Obligations.EveryCommandCompletes : Prop :=
  ∀ (c : Instr) (s : State), ∃ t, exec c s = .next t ∧ t.pending = s.pending ∧ s.now ≤ t.now

/-! ### Reset (R6, R31, R33, R66, R70, R78, R91, R125, R146, R158, R166, R184) -/

/-- The values of the reset tables, block by block, every counter among them; and POWER_ON_RESET and
CONSOLE_RESET, from any state, leave the state after reset and differ in the cause alone. That the queue,
local time and the levels of the input pins are kept is the model's reading (log 13, log 14), and that no line
holds bits is its choice (log 7). -/
def Obligations.ResetValues : Prop :=
  -- Table 1-4
  State.reset.tlu.station = .unconfigured ∧ State.reset.tlu.ref = .noRef ∧ State.reset.tlu.run = 0 ∧
  State.reset.tlu.lossTimer = none ∧ State.reset.tlu.houseCount = none ∧
  State.reset.tlu.incarnation = none ∧ State.reset.tlu.epoch = none ∧
  State.reset.tlu.droppedBase = none ∧ State.reset.tlu.high = none ∧ State.reset.tlu.last = none ∧
  State.reset.tlu.endTimer = .stopped ∧ State.reset.tlu.conflicts = [] ∧
  State.reset.tlu.counts = {
    refLoss := 0, refJump := 0, refVoid := 0, epochConflict := 0, startIgnored := 0, endIgnored := 0
    endUndrained := 0 } ∧
  -- Table 2-8
  State.reset.cfr.lines = List.replicate 4 {
    state := .off, buffer := [], held := [], framing := false, parity := false, overrun := false
    underrun := false, framingCount := 0, parityCount := 0, overrunCount := 0
    underrunCount := 0 } ∧
  State.reset.cfr.channels = List.replicate 32 { damage := 0, segDiscard := 0 } ∧
  captureMask State.reset.cfr.lines = 0 ∧ State.reset.cfr.period = none ∧
  -- Table 3-1
  State.reset.sgc.grade = 0 ∧ State.reset.sgc.stepUp = 0 ∧ State.reset.sgc.lastTarget = none ∧
  State.reset.sgc.batch = none ∧
  State.reset.sgc.counts = {
    airMade := 0, keepMade := 0, keepRaw := 0, batchDiscard := 0, gradeDown := 0, gradeUp := 0 } ∧
  -- Table 4-10
  (∀ p, (State.reset.port p).link = .down ∧ (State.reset.port p).neighbour = none ∧
    (State.reset.port p).cause.clear = true ∧ (State.reset.port p).silence = none ∧
    (State.reset.port p).seen1 = false ∧ (State.reset.port p).seen2 = false ∧
    (State.reset.port p).lane1 = .closed ∧ (State.reset.port p).lane2 = .closed ∧
    (State.reset.port p).linkQueue = [] ∧ (State.reset.port p).queue0 = [] ∧
    (State.reset.port p).queue1 = [] ∧ (State.reset.port p).queue2 = [] ∧
    (State.reset.port p).tx = none ∧ (State.reset.port p).heldUntil = none ∧
    (State.reset.port p).refreshAt = none ∧
    (State.reset.port p).counts = {
      rxLong := 0, rxCrc := 0, rxBadHello := 0, rxNotUp := 0, rxBadLane := 0, rxLaneClosed := 0
      barredDigest := 0, barredDupid := 0, neighbourChange := 0, carrierLoss := 0, silence := 0
      linkLost := 0, laneResync := 0, flushL0 := 0, flushL1 := 0, flushL2 := 0, flushLL := 0
      qfullL0 := 0, qfullL1 := 0, qfullL2 := 0, llDrop := 0, txAbort := 0, airStale := 0
      rxBadHold := 0, congested := 0, holdSent := 0, releaseSent := 0, holdTaken := 0
      releaseTaken := 0, holdExpired := 0 }) ∧
  State.reset.lku.enabled = false ∧ State.reset.lku.digest = none ∧ State.reset.lku.helloAt = none ∧
  -- Table 5-9
  State.reset.dlu.filter = List.replicate 16 none ∧ State.reset.dlu.nextSeq = 0 ∧
  State.reset.dlu.muted = none ∧
  State.reset.dlu.counts = {
    rxLength := 0, rxKind := 0, rxOrigin := 0, filterNewInc := 0, filterDup := 0, filterStale := 0
    ownReturn := 0, ownStale := 0, dupidFrame := 0, relayed := 0, relayFull := 0, relayNone := 0
    deliveredStart := 0, deliveredEnd := 0, deliveredCue := 0, deliveredBeacon := 0
    deliveredAir := 0, deliveredKeep := 0, originated := 0, origUnsent := 0, muteDeclined := 0 } ∧
  -- R91, Table 7-7
  State.reset.rst.entries = [] ∧ State.reset.pcu.cues = none ∧ State.reset.pcu.clock = 0 ∧
  State.reset.pcu.beaconAt = none ∧ State.reset.pcu.peers = List.replicate 16 none ∧
  State.reset.rst.counts = {
    airDark := 0, airAccepted := 0, claimFrozen := 0, claimLimit := 0, claimFull := 0
    claimDouble := 0, claimBarred := 0, rosterLearned := 0, rosterMoved := 0, rosterAged := 0
    rosterFlushed := 0 } ∧
  State.reset.pcu.counts = {
    cueApplied := 0, cueStale := 0, cueBad := 0, mergeApplied := 0, beaconTaken := 0
    beaconBad := 0, peerNew := 0, peerRenewed := 0, peerLost := 0 } ∧
  -- Table 8-9
  State.reset.aou.window = [] ∧ State.reset.aou.openMark = none ∧
  State.reset.aou.conceal = List.replicate 512 { last := none, missRun := 0 } ∧
  State.reset.aou.cut = none ∧ State.reset.aou.feed = [] ∧ State.reset.aou.driven = false ∧
  State.reset.aou.finished = false ∧
  State.reset.aou.counts = {
    slotOpened := 0, slotRefused := 0, feedOverrun := 0, slotComplete := 0, slotDeadline := 0
    slotEmitted := 0, slotCut := 0, arrStored := 0, arrAhead := 0, arrLate := 0
    arrUnexpected := 0, arrStray := 0, arrDuplicate := 0, entryArrived := 0, entryRepeat := 0
    entrySilent := 0, recSent := 0, recTruncated := 0, recDiscarded := 0, cutTrigger := 0
    cutEntered := 0 } ∧
  -- Tables 9-4 and 9-9
  State.reset.ksp.entries = [] ∧ State.reset.ksp.free = 0 ∧ State.reset.ksp.drain = 0 ∧
  State.reset.ksp.write = 0 ∧ State.reset.ksp.lostRun = 0 ∧ State.reset.ksp.resendAt = none ∧
  State.reset.kou.take = List.replicate 16 none ∧ State.reset.kou.queue = [] ∧
  State.reset.kou.lines = [] ∧
  State.reset.ksp.counts = {
    spoolAppended := 0, spoolLost := 0, keepDrained := 0, spoolFreed := 0, rewind := 0
    rewindEntries := 0, spoolDiscarded := 0 } ∧
  State.reset.kou.counts = {
    takeJoin := 0, takeGap := 0, takeData := 0, takeStale := 0, takeDup := 0, takeAhead := 0
    takeQueueFull := 0, archSent := 0 } ∧
  -- Table 10-8
  State.reset.csu.holding = none ∧ State.reset.csu.line = { chars := [] } ∧
  State.reset.csu.waiting = none ∧ State.reset.csu.tx = [] ∧ State.reset.csu.load = .idle ∧
  State.reset.csu.watch = none ∧ State.reset.csu.config = none ∧ State.reset.csu.locked = false ∧
  State.reset.csu.pendingAttn = List.replicate 10 none ++ [some .powerOn] ∧
  State.reset.csu.enableMask = 0x7FF ∧ State.reset.csu.attnAsserted = true ∧
  State.reset.csu.attnRaised = List.replicate 10 0 ++ [1] ∧ State.reset.csu.silent = true ∧
  State.reset.csu.counts = {
    conOverrun := 0, conBreak := 0, cmdTaken := 0, cmdRefused := 0, loadDone := 0
    loadFailed := 0 } ∧
  -- the two reset events
  ∀ s : State,
    let after := fun cause : Cause => { State.reset with
      pending := s.pending
      now := s.now
      lku := { State.reset.lku with
        portA := { State.reset.lku.portA with carrier := s.lku.portA.carrier }
        portB := { State.reset.lku.portB with carrier := s.lku.portB.carrier } }
      aou := { State.reset.aou with ready := s.aou.ready }
      kou := { State.reset.kou with ready := s.kou.ready }
      csu := { State.reset.csu with pendingAttn := List.replicate 10 none ++ [some cause] } }
    exec .powerOnReset s = .next (after .powerOn) ∧ exec .consoleReset s = .next (after .console)

/-! ### Reports (R17, R32, R67, R88, R110, R126, R147, R167, R168, R179, R182, R183) -/

/-- SHOW of each of the sixteen items (R17, R32, R44, R67, R88, R110, R126, R147, R167, R168, R179, R182,
R183): the report is formed from the state as the line is taken, and is followed by OK; nothing but the
transmit buffer, the silence after a reset (R175) and CMD_TAKEN changes. The model's choices: the current
index before the first boundary of an epoch (log 15); claim limits of 0 and triggers off where no
configuration is loaded (log 51, log 52); the one condition named when the drain is barred at both ports
(log 53); SHOW COUNTS counts its own line (log 18); which kept sequence of a list that names an origin twice is
shown, and which of two 2^31 apart is the oldest (log 55, log 56). -/
def Obligations.ShowReports : Prop :=
  ∀ s : State, s.csu.takesLines = true →
    exec .showState s = .next (s.taken.replied (.report (.state {
      station := s.tlu.station
      epoch := s.tlu.epoch
      droppedBase := s.tlu.droppedBase
      incarnation := s.tlu.incarnation
      houseCount := s.tlu.houseCount
      index := match s.tlu.epoch, s.tlu.curIndex, s.tlu.houseCount with
        | none, _, _ => none
        | some _, some n, _ => some n
        | some e, none, some count => some (count - e.base)
        | some _, none, none => none
      high := s.tlu.high
      last := s.tlu.last
      drainLeft := match s.tlu.endTimer with
        | .runningUntil t => some (t - s.now)
        | .expired => some 0
        | .stopped => none
      muted := s.dlu.muted.isSome }) true)) ∧
    exec .showRef s = .next (s.taken.replied (.report (.ref {
      ref := s.tlu.ref
      run := s.tlu.run
      houseCount := s.tlu.houseCount
      refLoss := s.tlu.counts.refLoss
      refJump := s.tlu.counts.refJump
      refVoid := s.tlu.counts.refVoid
      voidRun := s.tlu.voidRun }) true)) ∧
    (let port := fun x : Port => ({
        link := x.link
        cause := if x.link = .barred then some x.cause else none
        carrier := x.carrier
        neighbour := x.neighbour
        sinceHello := x.neighbour.map fun h => s.now - h.takenAt
        seen1 := x.seen1
        seen2 := x.seen2 } : PortReport)
     exec .showPorts s = .next (s.taken.replied
       (.report (.ports (port s.lku.portA) (port s.lku.portB) s.lku.digest s.lku.enabled) true))) ∧
    (let lanes := fun x : Port => ({
        lane1 := x.lane1
        lane2 := x.lane2
        fillLink := x.linkQueue.length
        fill0 := x.queue0.length
        fill1 := x.queue1.length
        fill2 := x.queue2.length
        tx := x.tx.map TxFrame.queue
        heldLeft := x.heldUntil.map fun t => t - s.now
        refreshLeft := x.refreshAt.map fun t => t - s.now } : LaneReport)
     exec .showLanes s = .next (s.taken.replied
       (.report (.lanes (lanes s.lku.portA) (lanes s.lku.portB)) true))) ∧
    exec .showFilter s = .next (s.taken.replied (.report (.filter {
      ownId := s.csu.config.map (·.station)
      incarnation := s.tlu.incarnation
      nextSeq := s.dlu.nextSeq
      muted := s.dlu.muted
      entries := (places s.dlu.filter).map fun p =>
        { station := p.1, incarnation := p.2.incarnation, top := p.2.top
          seenCount := seenCount p.2.seen } }) true)) ∧
    exec .showRoster s = .next (s.taken.replied (.report (.roster {
      total := s.rst.entries.length
      locals := s.rst.count Claim.isLocal
      learned := s.rst.count Claim.isLearned
      pins := s.rst.count Claim.isPin
      bars := s.rst.count Claim.isBar
      full := decide (320 ≤ s.rst.entries.length)
      freeze := (s.pcu.item 16).map (·.value)
      guard := s.csu.config.map (·.guard)
      age := s.csu.config.map (·.age)
      limits := (List.range 16).map fun i =>
        (i + 1, s.claimLimit (i + 1), learnedCount (i + 1) s.rst.entries)
      entries := s.rst.entries.map fun e =>
        { entry := e, origin := e.claim.origin s.ownId, groupState := e.claim.group.map s.cueValue }
      airCount := s.airCount
      expectedSize := s.expectedSet.length
      counts := s.rst.counts }) true)) ∧
    exec .showCues s = .next (s.taken.replied (.report (.cues {
      clock := s.pcu.clock
      items := s.pcu.cues
      cueApplied := s.pcu.counts.cueApplied
      cueStale := s.pcu.counts.cueStale
      cueBad := s.pcu.counts.cueBad
      mergeApplied := s.pcu.counts.mergeApplied }) true)) ∧
    exec .showPeers s = .next (s.taken.replied (.report (.peers {
      peers := (places s.pcu.peers).map fun p =>
        { station := p.1, peer := p.2, since := s.now - p.2.lastBeacon
          lossLeft := p.2.lastBeacon + 200000000 - s.now }
      beaconLeft := s.pcu.beaconAt.map fun t => t - s.now
      beaconTaken := s.pcu.counts.beaconTaken
      beaconBad := s.pcu.counts.beaconBad
      peerNew := s.pcu.counts.peerNew
      peerRenewed := s.pcu.counts.peerRenewed
      peerLost := s.pcu.counts.peerLost }) true)) ∧
    exec .showSlots s = .next (s.taken.replied (.report (.slots {
      airRole := s.airRole
      latency := s.csu.config.map (·.latency)
      concealLimit := s.csu.config.map (·.conceal)
      openMark := s.aou.openMark
      slots := s.aou.window.map (Slot.report s.now)
      oldest := match s.aou.window with
        | [] => []
        | t :: _ => t.expected.map fun e => (e.track, e.origin, e.arrived.isSome) }) true)) ∧
    exec .showFeed s = .next (s.taken.replied (.report (.feed {
      cut := s.aou.cut.isSome
      cutMode := s.csu.config.map (·.cutMode)
      cutRef := (s.csu.config.map (·.cutRef)).getD false
      cutEpoch := (s.csu.config.map (·.cutEpoch)).getD false
      cutDup := (s.csu.config.map (·.cutDup)).getD false
      cutOp := (s.csu.config.map (·.cutOp)).getD false
      cutCause := s.aou.cut
      persisting := s.aou.cut.isSome && s.cutPersists
      buffers := [0, 1].map fun n =>
        ((bufferReport s.aou.feed n).1, (bufferReport s.aou.feed n).2.map (·.index))
      driven := s.aou.driven
      ready := s.aou.ready
      conceal := concealLines 0 s.aou.conceal
      counts := s.aou.counts }) true)) ∧
    exec .showSpool s = .next (s.taken.replied (.report (.spool {
      incarnation := s.tlu.incarnation
      free := s.ksp.free
      drain := s.ksp.drain
      write := s.ksp.write
      drained := (s.ksp.drain - s.ksp.free).toNat
      undrained := (s.ksp.write - s.ksp.drain).toNat
      full := decide (262144 ≤ (s.ksp.write - s.ksp.free).toNat)
      lostRun := s.ksp.lostRun
      resendLeft := s.ksp.resendAt.map fun t => t - s.now
      blockedBy := s.drainBlock
      outlets := s.countedOutlets
      oldestOutlets := (s.countedOutlets.filter fun p =>
        some p.2 == oldestOf (s.countedOutlets.map (·.2))).map (·.1)
      counts := s.ksp.counts }) true)) ∧
    exec .showTake s = .next (s.taken.replied (.report (.take {
      keepRole := s.keepRole
      places := places s.kou.take
      queueFill := s.kou.queue.length
      buffers := [bufferReport s.kou.lines 0, bufferReport s.kou.lines 1]
      driven := s.keepRole
      ready := s.kou.ready
      counts := s.kou.counts }) true)) ∧
    exec .showCapture s = .next (s.taken.replied (.report (.capture {
      lines := s.cfr.lines.map CaptureLine.report
      mask := captureMask s.cfr.lines
      channels := s.patched.map fun p =>
        { channel := p.1, patch := p.2, counts := s.cfr.channels.getD p.1 {} } }) true)) ∧
    exec .showCounts s = .next (s.taken.replied (.report (.counts {
      tlu := s.tlu.counts
      capture := s.cfr.lines.map CaptureLine.report
      channels := s.cfr.channels
      sgc := s.sgc.counts
      grade := s.sgc.grade
      stepUp := s.sgc.stepUp
      lastTarget := s.sgc.lastTarget
      lastN := s.sgc.lastN
      lastAllowance := s.sgc.lastAllowance
      portA := s.lku.portA.counts
      portB := s.lku.portB.counts
      dlu := s.dlu.counts
      rst := s.rst.counts
      pcu := s.pcu.counts
      aou := s.aou.counts
      ksp := s.ksp.counts
      kou := s.kou.counts
      csu := { s.csu.counts with cmdTaken := up s.csu.counts.cmdTaken }
      attnRaised := s.csu.attnRaised }) true)) ∧
    exec .showAttn s = .next (s.taken.replied (.report (.attn {
      highest := (pendingClasses s.csu).head?
      pendingMask := s.csu.pendingMask
      enableMask := s.csu.enableMask
      pinAsserted := decide (s.csu.pendingMask &&& s.csu.enableMask ≠ 0)
      pending := pendingClasses s.csu
      raised := s.csu.attnRaised }) true)) ∧
    exec .showConfig s = .next (s.taken.replied (.report (.config {
      status := if s.csu.config = none then .absent else if s.csu.locked then .locked else .loaded
      fields := s.csu.config
      digest := if s.csu.config = none then none else s.lku.digest }) true))

/-- WATCH, WATCH_REPEAT_TIMER and REPORT_SENT (R173): a report without its closing OK, and the repeat
timer of 250 ms; `?ARG` for a word that is no item. At the expiry the report is formed afresh and
sent, and the timer restarts; an expiry during a report makes the next one due when it has been sent. The
first character taken while the WATCH runs ends it: it is discarded without echo, the report being sent
completes, and OK follows. That the expiry acts whenever it is presented, and moves local time to the later
of itself and its due time, is the model's choice (log 2). -/
def Obligations.WatchRuns : Prop :=
  ∀ s : State,
    (s.csu.takesLines = true →
      (∀ i : ShowItem, exec (.watch (some i)) s =
        .next (({ s.taken with csu := { s.taken.csu with
          watch := some { item := i, repeatAt := some (s.now + 250000000), due := false } } }).replied
            (.report (s.taken.reportOf i) false))) ∧
      exec (.watch none) s = .next (s.turnedDown .arg)) ∧
    (∀ (w : Watch) (d : Time), s.csu.watch = some w → w.repeatAt = some d → s.csu.replying = false →
      let r := { s with now := max s.now d }
      exec .watchRepeatTimer s = .next (({ r with csu := { r.csu with
        watch := some { item := w.item, repeatAt := some (r.now + 250000000), due := false } } }).replied
          (.report (r.reportOf w.item) false))) ∧
    (∀ (w : Watch) (d : Time), s.csu.watch = some w → w.repeatAt = some d → s.csu.replying = true →
      exec .watchRepeatTimer s = .next { s with
        now := max s.now d
        csu := { s.csu with watch := some { item := w.item, repeatAt := none, due := true } } }) ∧
    (∀ (w : Watch) (c : Byte), s.csu.watch = some w → s.csu.load = .idle →
      let ended := fun u : Csu =>
        { u with holding := none, watch := none, tx := s.csu.tx ++ [.reply .ok 4] }
      (s.csu.holding = none →
        exec (.characterComplete c) s = .next { s with csu := ended s.csu }) ∧
      (s.csu.holding = some c → exec .characterTaken s = .next { s with csu := ended s.csu })) ∧
    (∀ w : Watch, s.csu.watch = some w → s.csu.replying = true →
      let r := { s with csu := { s.csu with tx := dropFirstReply s.csu.tx } }
      (w.due = false → exec .reportSent s = .next r) ∧
      (w.due = true → exec .reportSent s = .next (({ r with csu := { r.csu with
        watch := some { item := w.item, repeatAt := some (r.now + 250000000), due := false } } }).replied
          (.report (r.reportOf w.item) false))))

/-! ### Console commands (Table 10-3) -/

/-- LOAD, ARM, GO, END, CUE, CUT, UNCUT, CLEAR ATTN and CLEAR CAPTURE are refused in the order of Table 10-3,
and a refused one changes nothing but its reply, the silence after a reset (R175) and CMD_REFUSED (R8, R10,
R14, R24, R116, R144, R174, R176, R182). -/
def Obligations.CommandsRefused : Prop :=
  ∀ s : State, s.csu.takesLines = true →
    (s.armedOnward = true → exec .load s = .next (s.turnedDown .locked)) ∧
    (s.tlu.station ≠ .configured ∧ s.tlu.station ≠ .done →
      exec .arm s = .next (s.turnedDown .state)) ∧
    (s.tlu.station = .configured ∨ s.tlu.station = .done →
      s.tlu.ref ≠ .locked ∨ s.tlu.houseCount = none ∨
        (∃ i n, s.tlu.incarnation = some i ∧ s.tlu.houseCount = some n ∧ newer n i = false) →
      exec .arm s = .next (s.turnedDown .ref)) ∧
    (s.muted = true → exec .go s = .next (s.turnedDown .mute)) ∧
    (s.muted = false → s.tlu.station ≠ .armed ∨ s.tlu.epoch ≠ none →
      exec .go s = .next (s.turnedDown .state)) ∧
    (s.muted = false → s.tlu.station = .armed → s.tlu.epoch = none → s.tlu.ref ≠ .locked →
      exec .go s = .next (s.turnedDown .ref)) ∧
    (s.muted = true → exec .endPerformance s = .next (s.turnedDown .mute)) ∧
    (s.muted = false → s.tlu.station ≠ .running →
      exec .endPerformance s = .next (s.turnedDown .state)) ∧
    (∀ i v, s.muted = true → exec (.cue i v) s = .next (s.turnedDown .mute)) ∧
    (∀ i v, s.muted = false → s.armedOnward = false →
      exec (.cue i v) s = .next (s.turnedDown .state)) ∧
    (∀ i v, s.muted = false → s.armedOnward = true →
      16 < i ∨ (i < 16 ∧ v ≠ .dark ∧ v ≠ .primed ∧ v ≠ .on) ∨ (i = 16 ∧ v ≠ .off ∧ v ≠ .on) →
      exec (.cue i v) s = .next (s.turnedDown .arg)) ∧
    (s.tlu.station = .unconfigured ∨ s.csu.config = none ∨
        (∃ c, s.csu.config = some c ∧ c.cutOp = false) →
      exec .cut s = .next (s.turnedDown .state)) ∧
    (s.tlu.station = .unconfigured → exec .uncut s = .next (s.turnedDown .state)) ∧
    (∀ c, s.csu.config = some c → s.aou.cut.isSome = true →
      (c.cutRef = true ∧ (s.tlu.ref ≠ .locked ∨ s.tlu.voidRun = true)) ∨
        (c.cutDup = true ∧ s.dlu.muted.isSome = true) →
      exec .uncut s = .next (s.turnedDown .state)) ∧
    (∀ m, 0x7FF < m → exec (.clearAttn m) s = .next (s.turnedDown .arg)) ∧
    (∀ m, 0xFFFF < m → exec (.clearCapture m) s = .next (s.turnedDown .arg))

/-- ARM (R8), in CONFIGURED or DONE with the reference LOCKED and a house count newer than any previous
incarnation: the incarnation, the epoch, the lock, the lanes, the spool, the window, the grade and the
beacon timer are set as R8 lists; the cue table, the peer table, the filter and the take table are
kept, as are MUTED, the capture front, the feed line and the reference. The roster is filled (R92): every
entry goes; each static entry stands; a patched channel whose group is PRIMED or ON and whose track is not
static has its LOCAL entry; no other track has an entry. Each such channel whose track is static is a
violation, counted by its kind, and raises CLAIM, in ascending channel order; that the cause names the PIN's
origin, or for a BAR this station, is the model's choice (log 29), as is the request of the first BEACON
while MUTED (log 17). The lanes are enabled (R56, R59, R66): in a port that is UP each CLOSED lane becomes OPEN
where the neighbour record shows it enabled and the own enable seen, and PENDING in any other case, and a
change of a lane queues an extra HELLO; a lane that is not CLOSED stays, as do the lanes of a port that is not
UP and, where the lanes are enabled already, those of both ports. -/
def Obligations.ArmTaken : Prop :=
  ∀ (s : State) (n : Word), s.csu.takesLines = true →
    s.tlu.station = .configured ∨ s.tlu.station = .done →
    s.tlu.ref = .locked → s.tlu.houseCount = some n →
    (∀ i, s.tlu.incarnation = some i → newer n i = true) →
    let static := fun track => s.statics.find? fun x => (staticEntry x).track == track
    let onAir := s.patched.filter fun p => (s.cueValue p.2.group).onAir
    let clashes := onAir.filterMap fun p => (static p.2.track).map fun x => match x with
      | .pin _ o _ => (Violation.doubleClaim, Cause.claim .doubleClaim p.2.track o)
      | .bar _ => (Violation.barred, Cause.claim .barred p.2.track s.ownId)
    ∃ t, exec .arm s = .next t ∧
      -- the roster
      (s.statics.length ≤ 64 → (s.statics.map fun x => (staticEntry x).track).Nodup →
        (s.patched.map fun p => p.2.track).Nodup →
        (∀ track, findClaim track t.rst.entries = match static track with
          | some x => some (staticEntry x).claim
          | none => (onAir.find? fun p => p.2.track == track).map fun p => .localTrack p.2.group) ∧
        t.rst.counts = { s.rst.counts with
          claimDouble := upBy s.rst.counts.claimDouble
            (clashes.filter fun x => x.1 == .doubleClaim).length
          claimBarred := upBy s.rst.counts.claimBarred
            (clashes.filter fun x => x.1 == .barred).length } ∧
        (s.csu.attnRaised.length = 11 →
          t.csu.attnRaised.getD 6 0 = upBy (s.csu.attnRaised.getD 6 0) clashes.length) ∧
        (s.csu.pendingAttn.length = 11 →
          t.csu.pendingAttn.getD 6 none =
            ((s.csu.pendingAttn.getD 6 none).or (clashes.head?.map fun x => x.2)))) ∧
      -- the Timeline Unit
      t.tlu.station = .armed ∧ t.tlu.incarnation = some n ∧ t.tlu.epoch = none ∧
      t.tlu.droppedBase = none ∧ t.tlu.curIndex = none ∧ t.tlu.high = none ∧ t.tlu.last = none ∧
      t.tlu.conflicts = [] ∧ t.tlu.endTimer = .stopped ∧ t.tlu.ref = .locked ∧
      t.tlu.run = s.tlu.run ∧ t.tlu.houseCount = some n ∧ t.tlu.lossTimer = s.tlu.lossTimer ∧
      t.tlu.counts = s.tlu.counts ∧
      -- the configuration lock and the reply
      t.csu.locked = true ∧ t.csu.config = s.csu.config ∧
      t.csu.tx = s.taken.csu.tx ++ [.reply .ok 4] ∧
      -- lanes
      t.lku.enabled = true ∧ t.lku.digest = s.lku.digest ∧
      (∀ p, let x := s.port p
        let y := t.port p
        y.link = x.link ∧ y.neighbour = x.neighbour ∧
        (s.lku.enabled = true ∨ x.link ≠ .up → y.lane1 = x.lane1 ∧ y.lane2 = x.lane2) ∧
        (s.lku.enabled = false → x.link = .up → ∀ h, x.neighbour = some h →
          (y.lane1 = if x.lane1 = .closed then
              (if h.enable1 = true ∧ h.seen1 = true then .opened else .pending) else x.lane1) ∧
          (y.lane2 = if x.lane2 = .closed then
              (if h.enable2 = true ∧ h.seen2 = true then .opened else .pending) else x.lane2) ∧
          (x.lane1 = .closed ∨ x.lane2 = .closed → (∀ q, (s.port q).refreshAt = none) →
            (x.tx ≠ none → .hello ∉ x.linkQueue → x.linkQueue.length < 2 →
              y.linkQueue = x.linkQueue ++ [.hello] ∧ y.tx = x.tx) ∧
            (x.tx = none → x.linkQueue = [] → y.linkQueue = [] ∧ ∃ b, y.tx = some (.hello b))))) ∧
      -- the spool (R158), the coder (R33), the Air Outlet (R146)
      t.ksp = { counts := { s.ksp.counts with
        spoolDiscarded := upBy s.ksp.counts.spoolDiscarded (s.ksp.write - s.ksp.free).toNat } } ∧
      t.sgc = { counts := { s.sgc.counts with
        batchDiscard := upIf s.sgc.batch.isSome s.sgc.counts.batchDiscard } } ∧
      t.aou = { s.aou with
        window := [], openMark := none, conceal := List.replicate 512 {}, finished := false } ∧
      -- BEACON (R118): the first takes sequence 0 of the new incarnation, unless MUTED (R77)
      t.pcu.beaconAt = some (s.now + 50000000) ∧
      t.dlu.nextSeq = (if s.dlu.muted.isSome then 0 else 1) ∧
      -- kept
      t.pcu.cues = s.pcu.cues ∧ t.pcu.clock = s.pcu.clock ∧ t.pcu.peers = s.pcu.peers ∧
      t.dlu.filter = s.dlu.filter ∧ t.dlu.muted = s.dlu.muted ∧ t.kou = s.kou ∧ t.cfr = s.cfr

/-- GO (R10): the base is the current house count plus the start lead, adopted with the own id as source;
one START frame with that base and the next ring sequence is offered to lane 0 of both ports. That the
station's own START counts START_IGNORED is the model's reading (log 16). -/
def Obligations.GoTaken : Prop :=
  ∀ (s : State) (c : Configuration) (n inc : Word), s.csu.takesLines = true →
    s.csu.config = some c → 1 ≤ c.station ∧ c.station ≤ 16 → 10 ≤ c.lead ∧ c.lead ≤ 500 →
    s.dlu.muted = none → s.tlu.station = .armed → s.tlu.epoch = none → s.tlu.ref = .locked →
    s.tlu.houseCount = some n → s.tlu.incarnation = some inc →
    let base := n + BitVec.ofNat 32 c.lead
    let frame := ringBytes .start
      { origin := c.station, incarnation := inc, sequence := s.dlu.nextSeq } (put32 base)
    ∃ t, exec .go s = .next t ∧
      t.tlu = { s.tlu with
        epoch := some { base := base, source := c.station }
        curIndex := none
        counts := { s.tlu.counts with startIgnored := up s.tlu.counts.startIgnored } } ∧
      t.dlu.nextSeq = s.dlu.nextSeq + 1 ∧ t.dlu.filter = s.dlu.filter ∧ t.dlu.muted = none ∧
      t.dlu.counts.originated = up s.dlu.counts.originated ∧
      t.lku = (offerFrame .b 0 frame (offerFrame .a 0 frame s)).lku ∧
      t.csu.tx = s.taken.csu.tx ++ [.reply .ok 4] ∧ t.csu.config = s.csu.config ∧
      t.cfr = s.cfr ∧ t.sgc = s.sgc ∧ t.rst = s.rst ∧ t.pcu = s.pcu ∧ t.aou = s.aou ∧
      t.ksp = s.ksp ∧ t.kou = s.kou

/-- END (R14): L is the current index plus 2, the station is ENDING with its drain timer started, and one END
frame with the epoch base, that L and the next ring sequence is offered to lane 0 of both ports; the
station's own END frame leaves L unchanged. Nothing else changes but what the tests at the end of the event
do, and these leave ENDING while the batch of L is not coded. That END ends with those tests, of the drain, the
finished report and DONE, is the model's choice (log 12). -/
def Obligations.EndTaken : Prop :=
  ∀ (s : State) (c : Configuration) (n : Index) (e : Epoch) (inc : Word), s.csu.takesLines = true →
    s.csu.config = some c → 1 ≤ c.station ∧ c.station ≤ 16 → s.dlu.muted = none →
    s.tlu.station = .running → s.tlu.epoch = some e → s.tlu.curIndex = some n →
    s.tlu.incarnation = some inc → n.toInt + 2 < 2 ^ 31 →
    let v := { s with tlu := { s.tlu with
      station := .ending
      last := some (n + 2)
      endTimer := .runningUntil (s.now + 1000000000 * c.drainEnd) } }
    let frame := ringBytes .endFrame
      { origin := c.station, incarnation := inc, sequence := s.dlu.nextSeq }
      (put32 e.base ++ put32 (n + 2))
    let u := { v with
      lku := (offerFrame .b 0 frame (offerFrame .a 0 frame v)).lku
      dlu := { s.dlu with
        nextSeq := s.dlu.nextSeq + 1
        counts := { s.dlu.counts with
          originated := up s.dlu.counts.originated
          origUnsent := upIf ((s.port .a).offer 0 != .queued && (s.port .b).offer 0 != .queued)
            s.dlu.counts.origUnsent
          deliveredEnd := up s.dlu.counts.deliveredEnd } }
      csu := s.taken.csu }
    exec .endPerformance s = .next ((settle u).replied .ok) ∧
    (s.tlu.codedIndex ≠ some (n + 2) → (settle u).tlu = u.tlu ∧ (settle u).cfr = s.cfr)

/-- CUE (R116): a valid cue, from ARMED onward and not MUTED, sets its item to the value under the pair
(clock + 1, own id), advances the clock to that number, and is answered OK; every other item keeps its
value and pair. One CUE frame with the item, the value's code and that number takes the next ring sequence and
is offered to lane 0 of both ports, and at origination the cue reaches the roster as R115 says. -/
def Obligations.CueCommandTaken : Prop :=
  ∀ (s : State) (i : Nat) (w : CueWord) (v : CueValue) (items : List CueItem) (x : CueItem)
    (c : Configuration) (inc : Word), s.csu.takesLines = true →
    s.csu.config = some c → 1 ≤ c.station ∧ c.station ≤ 16 → s.tlu.incarnation = some inc →
    s.dlu.muted = none → s.armedOnward = true → cueCommandValue i w = some v →
    s.pcu.cues = some items → items[i]? = some x → newer (s.pcu.clock + 1) x.number = true →
    let code := match v with
      | .dark | .off => 0
      | .primed => 1
      | .on => if i = 16 then 1 else 2
    let frame := ringBytes .cue
      { origin := c.station, incarnation := inc, sequence := s.dlu.nextSeq }
      (cueBytes { item := i, code := code, number := s.pcu.clock + 1 })
    ∃ t, exec (.cue i w) s = .next t ∧
      t.pcu.cues = some (items.set i { value := v, number := s.pcu.clock + 1, origin := c.station }) ∧
      t.pcu.clock = s.pcu.clock + 1 ∧
      t.pcu.counts = { s.pcu.counts with cueApplied := up s.pcu.counts.cueApplied } ∧
      t.pcu.peers = s.pcu.peers ∧ t.dlu.nextSeq = s.dlu.nextSeq + 1 ∧ t.dlu.filter = s.dlu.filter ∧
      t.dlu.muted = none ∧ t.dlu.counts.originated = up s.dlu.counts.originated ∧
      t.dlu.counts.deliveredCue = up s.dlu.counts.deliveredCue ∧
      t.lku = (offerFrame .b 0 frame (offerFrame .a 0 frame s)).lku ∧
      t.rst = (rosterCue i v s).rst ∧
      t.csu.tx = s.taken.csu.tx ++ [.reply .ok 4] ∧ t.csu.config = s.csu.config ∧
      t.tlu = s.tlu ∧ t.cfr = s.cfr ∧ t.sgc = s.sgc ∧ t.aou = s.aou ∧ t.ksp = s.ksp ∧ t.kou = s.kou

/-- CUT (R141, R144): with the operator cut field on the command is answered OK; a CLEAR station becomes
CUT with cause operator, counted and raised; a CUT station keeps its cause. The trigger is counted in
both. The cut mode takes the program feed (Table 8-8): under QUIET the records and the driver stay; under
STOP the WAITING records are discarded, counted, and the SENDING one goes on; under FLOAT all go, a SENDING
one truncated, and the driver is released; under STOP and FLOAT the CLOSED slots at the head of the window
leave it unsent (R143). UNCUT: answered OK with nothing changed in CLEAR; in CUT with no enabled persisting
condition the station becomes CLEAR, and a released driver is driven again when the station has run. -/
def Obligations.CutAndUncutTaken : Prop :=
  ∀ (s : State) (c : Configuration), s.csu.takesLines = true → s.unconfigured = false →
    s.csu.config = some c →
    (c.cutOp = true → ∃ t, exec .cut s = .next t ∧
      t.aou.counts.cutTrigger = up s.aou.counts.cutTrigger ∧
      (∀ k, s.aou.cut = some k → t.aou.cut = some k ∧
        t.aou.counts.cutEntered = s.aou.counts.cutEntered ∧
        t.csu.pendingAttn = s.csu.pendingAttn ∧ t.csu.attnRaised = s.csu.attnRaised) ∧
      (s.aou.cut = none → t.aou.cut = some .operator ∧
        t.aou.counts.cutEntered = up s.aou.counts.cutEntered ∧
        t.csu.pendingAttn = (s.csu.raise .cut (.cutEntered .operator)).pendingAttn ∧
        t.csu.attnRaised = (s.csu.raise .cut (.cutEntered .operator)).attnRaised ∧
        (let waiting := (s.aou.feed.filter fun b => !b.sending).length
         let kept := s.aou.window.dropWhile fun x => !x.isOpen
         let gone := upBy s.aou.counts.slotCut (s.aou.window.length - kept.length)
         (c.cutMode = .quiet → t.aou.driven = s.aou.driven ∧
           t.aou.counts.recDiscarded = s.aou.counts.recDiscarded ∧
           t.aou.counts.slotCut = s.aou.counts.slotCut ∧
           s.aou.feed.map LineBuffer.record <+: t.aou.feed.map LineBuffer.record) ∧
         (c.cutMode = .stop → t.aou.driven = s.aou.driven ∧
           t.aou.feed = s.aou.feed.filter (fun b => b.sending) ∧
           t.aou.counts.recDiscarded = upBy s.aou.counts.recDiscarded waiting ∧
           t.aou.window = kept ∧ t.aou.counts.slotCut = gone) ∧
         (c.cutMode = .float → t.aou.driven = false ∧ t.aou.feed = [] ∧
           t.aou.counts.recDiscarded = upBy s.aou.counts.recDiscarded waiting ∧
           t.aou.counts.recTruncated =
             upBy s.aou.counts.recTruncated (s.aou.feed.length - waiting) ∧
           t.aou.window = kept ∧ t.aou.counts.slotCut = gone))) ∧
      t.csu.tx = s.taken.csu.tx ++ [.reply .ok 4] ∧ t.csu.config = s.csu.config ∧
      t.aou.conceal = s.aou.conceal ∧
      t.sgc = s.sgc ∧ t.rst = s.rst ∧ t.pcu = s.pcu ∧ t.dlu.muted = s.dlu.muted) ∧
    (s.aou.cut = none → exec .uncut s = .next (s.taken.replied .ok)) ∧
    (s.aou.cut.isSome = true →
      (c.cutRef = true → s.tlu.ref = .locked ∧ s.tlu.voidRun = false) →
      (c.cutDup = true → s.dlu.muted = none) →
      ∃ t, exec .uncut s = .next t ∧ t.aou.cut = none ∧
        t.aou.driven = (s.aou.driven || (c.airRole && s.aou.hasRun)) ∧
        t.csu = (s.taken.replied .ok).csu ∧
        t.sgc = s.sgc ∧ t.rst = s.rst ∧ t.pcu = s.pcu ∧ t.dlu.muted = s.dlu.muted)

/-- CLEAR CAPTURE (R24): each flag whose bit is in the mask, a hexadecimal number, is cleared and the other
flags stay; no counter, no line state, no buffer and no attention changes; the reply is OK. A mask outside
0 to FFFF is refused with ?ARG and changes no flag. Of an error of a kind in the mask whose flag is set: taken
before the clear it raises nothing, shows in its counter alone, and the clear clears its flag; taken after
it, it sets the flag again and raises CAPTURE anew. An error of a kind outside the mask sets its flag, and
the clear leaves it set. -/
def Obligations.ClearCaptureTaken : Prop :=
  spell [[0x43, 0x4C, 0x45, 0x41, 0x52], [0x43, 0x41, 0x50, 0x54, 0x55, 0x52, 0x45],
    [0x38, 0x30, 0x30, 0x41]] = some { command := .clearCapture 0x800A, wordsGood := true } ∧
  ∀ (s : State) (m : Nat), s.csu.takesLines = true →
    (m ≤ 0xFFFF → ∃ lines : List CaptureLine,
      exec (.clearCapture m) s =
        .next (({ s.taken with cfr := { s.cfr with lines := lines } }).replied .ok) ∧
      lines.length = s.cfr.lines.length ∧
      ∀ k l, s.cfr.lines[k]? = some l → ∃ l', lines[k]? = some l' ∧
        (∀ f : CaptureFlag, l'.flag f = (l.flag f && !m.testBit (4 * k + f.number))) ∧
        l' = { l with framing := l'.framing, parity := l'.parity, overrun := l'.overrun, underrun := l'.underrun }) ∧
    (0xFFFF < m → exec (.clearCapture m) s = .next (s.turnedDown .arg)) ∧
    (m ≤ 0xFFFF → ∀ (k : Nat) (f : CaptureFlag), k < s.cfr.lines.length →
      let l := s.captureLine k
      let counted := fun (t : State) =>
        (t.captureLine k).framingCount = (l.countError f).framingCount ∧
        (t.captureLine k).parityCount = (l.countError f).parityCount ∧
        (t.captureLine k).overrunCount = (l.countError f).overrunCount ∧
        (t.captureLine k).underrunCount = (l.countError f).underrunCount
      (m.testBit (4 * k + f.number) = true →
        (l.flag f = true → (lineError k f s).csu = s.csu ∧
          ∃ t, exec (.clearCapture m) (lineError k f s) = .next t ∧ (t.captureLine k).flag f = false ∧
            counted t) ∧
        (∃ t, exec (.clearCapture m) s = .next t ∧
          ((lineError k f t).captureLine k).flag f = true ∧ counted (lineError k f t) ∧
          (lineError k f t).csu = t.csu.raise .capture (.capture k f))) ∧
      (m.testBit (4 * k + f.number) = false →
        ((lineError k f s).captureLine k).flag f = true ∧
        (∃ t, exec (.clearCapture m) (lineError k f s) = .next t ∧ (t.captureLine k).flag f = true ∧
          counted t) ∧
        ∃ t, exec (.clearCapture m) s = .next t ∧ ((lineError k f t).captureLine k).flag f = true))

/-- LOAD before ARM, RESET, CLEAR ATTN and CLEAR COUNTS (R175, R176, R182, R183): each is answered OK.
The binary phase follows LOAD's OK and the console reset RESET's. CLEAR ATTN ends the pending state,
with its cause, of each class named in the mask and of no other, and leaves every ATTN_RAISED. CLEAR
COUNTS sets every counter of every block to 0 and changes nothing else: pending attentions, capture
flags, the lost-run count, the miss runs, the run of marks and the step-up counter stay. That its own line is
counted before the clear, so that CMD_TAKEN is 0 after it, is the model's choice (log 18). -/
def Obligations.PlainCommandsTaken : Prop :=
  ∀ s : State, s.csu.takesLines = true →
    (s.armedOnward = false → exec .load s =
      .next (({ s.taken with csu := { s.taken.csu with load := .announced } }).replied .ok)) ∧
    exec .reset s =
      .next (({ s.taken with csu := { s.taken.csu with resetPending := true } }).replied .ok) ∧
    (∀ m, m ≤ 0x7FF → s.csu.pendingAttn.length = 11 → ∃ causes : List (Option Cause),
      exec (.clearAttn m) s = .next (({ s.taken with csu := { s.taken.csu with
        pendingAttn := causes } }).replied .ok) ∧
      causes.length = 11 ∧
      ∀ c : AttnClass, causes.getD c.rank none =
        if m.testBit c.rank then none else s.csu.pendingAttn.getD c.rank none) ∧
    exec .clearCounts s = .next (({ s with
      tlu := { s.tlu with counts := {} }
      cfr := { s.cfr with
        lines := s.cfr.lines.map (fun l : CaptureLine =>
          { l with framingCount := 0, parityCount := 0, overrunCount := 0, underrunCount := 0 })
        channels := s.cfr.channels.map (fun _ => ({} : ChannelCounts)) }
      sgc := { s.sgc with counts := {} }
      lku := { s.lku with
        portA := { s.lku.portA with counts := {} }
        portB := { s.lku.portB with counts := {} } }
      dlu := { s.dlu with counts := {} }
      rst := { s.rst with counts := {} }
      pcu := { s.pcu with counts := {} }
      aou := { s.aou with counts := {} }
      ksp := { s.ksp with counts := {} }
      kou := { s.kou with counts := {} }
      csu := { s.csu with
        silent := false
        tx := dropReplies s.csu.tx
        counts := {}
        attnRaised := s.csu.attnRaised.map (fun _ => 0) } }).replied .ok)

/-! ### The console line (R169 to R171, R176 to R178) -/

/-- CHARACTER_COMPLETE and CHARACTER_TAKEN outside LOAD and WATCH (R169, R172, Table 10-1), with the holding
character free and no complete line waiting: the character's effect on the current line, and its echo, where
it has none or the transmit buffer has room for it; else the character waits in the holding character, and one
that completes meanwhile is lost and marks the line. Behind a complete line a character waits whatever it is,
and one that completes meanwhile is lost and marks the line. From a reset until the first command line is taken
nothing is echoed, by R175's word that nothing is sent: that it stands before Table 10-1's echo is the model's
choice (log 50), as are the discard of 80 to FF (log 49), that a reply behind echoes may overfill the buffer
(log 41), and that a character is taken while the OK of an abandoned LOAD is still under way (log 57). -/
def Obligations.CharactersTaken : Prop :=
  ∀ (s : State) (c : Byte), s.csu.load = .idle → s.csu.watch = none →
    let held := { s with csu := { s.csu with holding := some c } }
    let lost := fun (t : State) => { t with csu := { t.csu with
      line := { t.csu.line with overrun := true }
      counts := { t.csu.counts with conOverrun := up t.csu.counts.conOverrun } } }
    (s.csu.waiting = none → s.csu.holding = none →
      let becomes := fun (l : CommandLine) (w : Option CommandLine) (echo : Bytes) =>
        let sent := if s.csu.silent then [] else echo.map TxItem.echo
        (sent = [] ∨ s.csu.fill + sent.length ≤ 65536 →
          exec (.characterComplete c) s = .next { s with csu := { s.csu with
            line := l, waiting := w, tx := s.csu.tx ++ sent } }) ∧
        (sent ≠ [] → 65536 < s.csu.fill + sent.length →
          exec (.characterComplete c) s = .next held ∧
          ∀ d, exec (.characterComplete d) held = .next (lost held))
      (0x20 ≤ c.toNat ∧ c.toNat ≤ 0x7E → s.csu.line.chars.length < 80 →
        becomes { s.csu.line with chars := s.csu.line.chars ++ [c] } none [c]) ∧
      (0x20 ≤ c.toNat ∧ c.toNat ≤ 0x7E → 80 ≤ s.csu.line.chars.length →
        becomes { s.csu.line with tooLong := true } none []) ∧
      (c = 0x08 ∨ c = 0x7F → s.csu.line.chars ≠ [] →
        becomes { s.csu.line with chars := s.csu.line.chars.dropLast } none [0x08, 0x20, 0x08]) ∧
      (c = 0x08 ∨ c = 0x7F → s.csu.line.chars = [] → becomes s.csu.line none []) ∧
      (c = 0x0D → becomes { chars := [] } (some s.csu.line) [0x0D, 0x0A]) ∧
      (c.toNat < 0x20 ∨ 0x7F < c.toNat → c ≠ 0x08 → c ≠ 0x0D → becomes s.csu.line none []) ∧
      exec .characterTaken held = exec (.characterComplete c) s) ∧
    (s.csu.waiting.isSome = true →
      (s.csu.holding = none → exec (.characterComplete c) s = .next held) ∧
      (s.csu.holding.isSome = true → exec (.characterComplete c) s = .next (lost s)) ∧
      exec .characterTaken s = .next s)

/-- COMMAND_LINE_TAKEN (R170): a waiting line is dealt with in the first of the four ways that applies; a
line whose words spell a command is that command's own row, and one whose words are wrong is refused. BREAK
(R171, Table 10-4): a reply being sent completes, and the holding character is emptied. With no complete
line waiting, the current line is discarded, or the WATCH ends with OK, or the LOAD is abandoned; `?BRK`
follows and CON_BREAK is counted. A break of a command line is not answered from a reset until the first
command line is taken (R175): that is the model's choice (log 50). -/
def Obligations.LinesAndBreaksTaken : Prop :=
  (∀ (s : State) (l : CommandLine), s.csu.takesLines = true → s.csu.waiting = some l →
    let u := { s with csu := { s.csu with waiting := none } }
    (l.overrun = true → exec .commandLineTaken s = .next (u.turnedDown .ovr)) ∧
    (l.overrun = false → l.tooLong = true →
      exec .commandLineTaken s = .next (u.turnedDown .long)) ∧
    (l.overrun = false → l.tooLong = false → (∀ b ∈ l.chars, b = 0x20) →
      exec .commandLineTaken s = .next { u with csu := { u.csu with
        silent := false, tx := dropReplies s.csu.tx } }) ∧
    (l.overrun = false → l.tooLong = false → (∃ b ∈ l.chars, b ≠ 0x20) →
      spell (lineWords l.chars) = none → exec .commandLineTaken s = .next (u.turnedDown .cmd)) ∧
    (∀ w, l.overrun = false → l.tooLong = false → spell (lineWords l.chars) = some w →
      (w.wordsGood = true → exec .commandLineTaken s = exec w.command u) ∧
      (w.wordsGood = false → ∃ r, exec .commandLineTaken s = .next (u.turnedDown r)))) ∧
  (∀ s : State, ∃ t, exec .breakTaken s = .next t ∧ t.csu.holding = none ∧
    s.csu.tx <+: t.csu.tx) ∧
  (∀ s : State, s.csu.waiting = none →
    let counted := { s.csu.counts with conBreak := up s.csu.counts.conBreak }
    let brk := TxItem.reply (.refused .brk) 6
    (s.csu.load = .idle → s.csu.watch = none → exec .breakTaken s = .next { s with csu := { s.csu with
      holding := none, line := { chars := [] }, counts := counted
      tx := s.csu.tx ++ if s.csu.silent then [] else [brk] } }) ∧
    (s.csu.load = .idle → s.csu.watch.isSome = true →
      exec .breakTaken s = .next { s with csu := { s.csu with
        holding := none, watch := none, counts := counted
        tx := s.csu.tx ++ [.reply .ok 4, brk] } }) ∧
    (s.csu.load ≠ .idle → exec .breakTaken s = .next { s with csu := { s.csu with
      holding := none, load := .idle, tx := s.csu.tx ++ [brk]
      counts := { counted with loadFailed := up s.csu.counts.loadFailed } } }))

/-- LOAD from its OK on (R176 to R178, Table 10-4). Before the binary phase one character waits, and a second
is an overrun that abandons the LOAD with `?OVR`. BINARY_PHASE_START starts the phase with the idle timer of
2 s, a byte joins the block and restarts the timer, LOAD_IDLE_TIMEOUT abandons the LOAD with `?TIME`. With the
1,026th byte, a block that fails its check changes nothing but the reply and LOAD_FAILED; a block that passes
replaces the configuration, the station becomes CONFIGURED with the reference NONE, a HELLO is placed on each
port at the first LOAD, and every block takes the configuration; a later LOAD reloads the cue items that no
cue has set (R112). The model's choices: a character held until the binary phase is its first byte (log 24);
the timeout acts whenever it is presented and moves local time to the later of itself and its due time
(log 2); a block whose PAD and another field both fail names the other (log 58); the bits that a capture line
holds go (log 7); and after a LOAD no mark is the previous one (log 8). -/
def Obligations.LoadRuns : Prop :=
  (∀ s : State,
    (∀ b, s.csu.load = .announced → s.csu.holding = none →
      exec (.characterComplete b) s = .next { s with csu := { s.csu with holding := some b } }) ∧
    (∀ b c, s.csu.load = .announced → s.csu.holding = some c →
      exec (.characterComplete b) s = .next { s with csu := { s.csu with
        load := .idle, tx := s.csu.tx ++ [.reply (.refused .ovr) 6]
        counts := { s.csu.counts with
          conOverrun := up s.csu.counts.conOverrun
          loadFailed := up s.csu.counts.loadFailed } } }) ∧
    (s.csu.load = .announced → s.csu.holding = none →
      exec .binaryPhaseStart s = .next { s with csu := { s.csu with
        load := .binary [] (s.now + 2000000000), tx := dropReplies s.csu.tx } }) ∧
    (∀ b, s.csu.load = .announced → s.csu.holding = some b →
      exec .binaryPhaseStart s = .next { s with csu := { s.csu with
        load := .binary [b] (s.now + 2000000000), holding := none
        tx := dropReplies s.csu.tx } }) ∧
    (∀ bs d b, s.csu.load = .binary bs d → s.csu.holding = none → bs.length + 1 < 1026 →
      exec (.characterComplete b) s = .next { s with csu := { s.csu with
        load := .binary (bs ++ [b]) (s.now + 2000000000) } }) ∧
    (∀ bs d, s.csu.load = .binary bs d →
      exec .loadIdleTimeout s = .next { s with
        now := max s.now d
        csu := { s.csu with
          load := .idle, tx := s.csu.tx ++ [.reply (.refused .time) 7]
          counts := { s.csu.counts with loadFailed := up s.csu.counts.loadFailed } } })) ∧
  ∀ (s : State) (bs : Bytes) (d : Time) (b : Byte),
    s.csu.load = .binary bs d → s.csu.holding = none → bs.length + 1 = 1026 →
    (∀ r, checkBlock (bs ++ [b]) = .failed r →
      exec (.characterComplete b) s = .next { s with csu := { s.csu with
        load := .idle, tx := s.csu.tx ++ [.reply r r.length]
        counts := { s.csu.counts with loadFailed := up s.csu.counts.loadFailed } } }) ∧
    (∀ c digest, checkBlock (bs ++ [b]) = .loaded c digest →
      ∃ t, exec (.characterComplete b) s = .next t ∧
        digest = crc32 ((bs ++ [b]).take 11) ∧
        t.tlu = { s.tlu with
          station := .configured, ref := .noRef, run := 0, lastMark := none, lossTimer := none } ∧
        t.csu = { s.csu with
          load := .idle, config := some c, enableMask := c.attn
          tx := s.csu.tx ++ [.reply .ok 4]
          counts := { s.csu.counts with loadDone := up s.csu.counts.loadDone } } ∧
        t.lku.digest = some digest ∧ t.lku.enabled = s.lku.enabled ∧
        (s.tlu.station = .unconfigured → t.lku.helloAt = some (s.now + 1000000) ∧
          ∀ p, (t.port p).link = if (s.port p).link = .down ∧ (s.port p).carrier = true then .listen
            else (s.port p).link) ∧
        (s.tlu.station = .unconfigured → ∀ p, (s.port p).tx = none → (s.port p).linkQueue = [] →
          (t.port p).tx = some (.hello (helloBytes t p)) ∧ (t.port p).linkQueue = []) ∧
        (s.tlu.station ≠ .unconfigured → t.lku = { s.lku with digest := some digest }) ∧
        t.dlu = { s.dlu with filter := setStation s.dlu.filter c.station none } ∧
        t.pcu.peers = setStation s.pcu.peers c.station none ∧ t.pcu.clock = s.pcu.clock ∧
        (s.pcu.cues = none → t.pcu.cues = some ((List.range 17).map fun i =>
          ({ value := c.cueInit.getD i .dark, number := 0, origin := 0 } : CueItem))) ∧
        (∀ items, s.pcu.cues = some items → items.length = 17 →
          ∃ later, t.pcu.cues = some later ∧ later.length = 17 ∧
            ∀ (i : Nat) (x : CueItem), items[i]? = some x →
              later[i]? = some (if x.number = 0 ∧ x.origin = 0 then
                ({ value := c.cueInit.getD i .dark, number := 0, origin := 0 } : CueItem) else x)) ∧
        t.sgc = s.sgc ∧ t.rst = s.rst ∧ t.ksp = s.ksp ∧ t.kou.take = s.kou.take ∧
        t.aou = { s.aou with finished := false } ∧
        (∀ (k : Nat) (l : CaptureLine), s.cfr.lines[k]? = some l →
          t.cfr.lines[k]? = some { l with
            buffer := []
            held := []
            state := if lineInUse c.patch k then .hunting else .off }))

/-- A configuration that LOAD accepts keeps every range of Table 10-5 and every condition of R177: the numbers
and the entries of the patch and of the static list, the coded fields by their bytes in the block
(Table 11-14), and a 0 in every byte and bit without a field (R187). -/
def Obligations.LoadedConfigurationInRange : Prop :=
  ∀ (bs : Bytes) (c : Configuration) (digest : Word), checkBlock bs = .loaded c digest →
    wordSum bs = 0 ∧ 100000 ≤ c.budget ∧ c.budget ≤ 2000000 ∧ c.ceiling ≤ 7 ∧
    5 ≤ c.age ∧ c.age ≤ 200 ∧ 1 ≤ c.station ∧ c.station ≤ 16 ∧ 10 ≤ c.lead ∧ c.lead ≤ 500 ∧
    1 ≤ c.drainEnd ∧ c.drainEnd ≤ 600 ∧ c.patch.length = 32 ∧
    (∀ e, some e ∈ c.patch → e.track ≤ 511 ∧ e.group ≤ 15) ∧
    (c.patch.filterMap fun o => o.map (·.track)).Nodup ∧
    16 ≤ c.highMark ∧ c.highMark ≤ 120 ∧ 8 ≤ c.lowMark ∧ c.lowMark + 8 ≤ c.highMark ∧
    100 ≤ c.holdTime ∧ c.holdTime ≤ 10000 ∧ c.limits.length = 16 ∧ (∀ n ∈ c.limits, n ≤ 32) ∧
    c.statics.length ≤ 64 ∧ (c.statics.map fun x => (staticEntry x).track).Nodup ∧
    (∀ k o g, StaticEntry.pin k o g ∈ c.statics →
      k ≤ 511 ∧ 1 ≤ o ∧ o ≤ 16 ∧ o ≠ c.station ∧ g ≤ 15) ∧
    (∀ k, StaticEntry.bar k ∈ c.statics → k ≤ 511) ∧
    c.cueInit.length = 17 ∧ 10 ≤ c.latency ∧ c.latency ≤ 80 ∧ c.conceal ≤ 8 ∧
    100 ≤ c.resend ∧ c.resend ≤ 5000 ∧
    -- the coded fields
    wordAt16 bs 12 ≤ 0x7FF ∧ c.attn = BitVec.ofNat 11 (wordAt16 bs 12) ∧
    (byteAt bs 4 = 1 ∧ c.rate = .r48 ∨ byteAt bs 4 = 2 ∧ c.rate = .r96) ∧
    (byteAt bs 508 = 1 ∧ c.cutMode = .quiet ∨ byteAt bs 508 = 2 ∧ c.cutMode = .stop ∨
      byteAt bs 508 = 3 ∧ c.cutMode = .float) ∧
    (∀ p ∈ [(150, c.guard), (505, c.airRole), (509, c.cutRef), (510, c.cutEpoch), (511, c.cutDup),
        (512, c.cutOp), (513, c.keepRole)],
      byteAt bs p.1 = 0 ∧ p.2 = false ∨ byteAt bs p.1 = 1 ∧ p.2 = true) ∧
    (∀ i, i < 16 → byteAt bs (488 + i) = 0 ∧ c.cueInit[i]? = some .dark ∨
      byteAt bs (488 + i) = 1 ∧ c.cueInit[i]? = some .primed ∨
      byteAt bs (488 + i) = 2 ∧ c.cueInit[i]? = some .on) ∧
    (byteAt bs 504 = 0 ∧ c.cueInit[16]? = some .off ∨ byteAt bs 504 = 1 ∧ c.cueInit[16]? = some .on) ∧
    -- PAD
    (∀ i, i < 32 → byteAt bs (18 + 4 * i) < 4 ∧
      ((byteAt bs (18 + 4 * i)).testBit 0 = false → byteAt bs (18 + 4 * i) = 0 ∧
        byteAt bs (19 + 4 * i) = 0 ∧ byteAt bs (20 + 4 * i) = 0 ∧ byteAt bs (21 + 4 * i) = 0)) ∧
    c.statics.length = byteAt bs 167 ∧
    (∀ i, i < c.statics.length → byteAt bs (168 + 5 * i) = 2 →
      byteAt bs (169 + 5 * i) = 0 ∧ byteAt bs (170 + 5 * i) = 0) ∧
    (∀ j, 168 + 5 * c.statics.length ≤ j → j < 488 → byteAt bs j = 0) ∧
    (∀ j, 516 ≤ j → j < 1024 → byteAt bs j = 0)

/-! ### The house reference, boundaries and the ending (R1 to R5, R9, R11, R16) -/

/-- MARK_TAKEN (Table 1-2): the reference state and the run by the state before and by whether the mark
continues the run; every mark restarts the loss timer; a mark that leaves the reference LOCKED is a
boundary with its house count, any other is not; a mark that breaks the run in LOCKED is counted, raises REF,
presents the reference cut trigger and discards the accumulations (R4, R29). In UNCONFIGURED a mark changes
nothing. REFERENCE_LOSS_TIMER (R2): in LOCKED the reference is LOST with the same effects; in ACQUIRING it is
LOST, neither counted nor signalled; without a running timer nothing happens. The model's choices: the expiry
acts whenever it is presented and moves local time to the later of itself and its due time (log 2), the run
has no bound (log 45) and stays as it was in LOST (log 46), the first mark after a LOAD continues no run (log 8),
and the cause of the attention and of the trigger is the loss or the broken run (log 61). -/
def Obligations.ReferenceMoves : Prop :=
  (∀ (s : State) (count : Word) (spacing : Nat),
    (s.tlu.station = .unconfigured → exec (.markTaken count spacing) s = .next s) ∧
    (s.tlu.station ≠ .unconfigured →
      let continues := spacing = s.rate.samples ∧ s.tlu.lastMark.map (· + 1) = some count
      ∃ t, exec (.markTaken count spacing) s = .next t ∧
        t.tlu.lastMark = some count ∧ t.tlu.lossTimer = some (s.now + 15000000) ∧
        t.tlu.counts.refLoss = s.tlu.counts.refLoss ∧
        (s.tlu.ref = .noRef ∨ s.tlu.ref = .lost →
          t.tlu.ref = .acquiring ∧ t.tlu.run = 1 ∧ t.tlu.houseCount = s.tlu.houseCount) ∧
        (s.tlu.ref = .acquiring → continues → 3 ≤ s.tlu.run + 1 →
          t.tlu.ref = .locked ∧ t.tlu.run = s.tlu.run + 1 ∧ t.tlu.houseCount = some count) ∧
        (s.tlu.ref = .acquiring → continues → s.tlu.run + 1 < 3 →
          t.tlu.ref = .acquiring ∧ t.tlu.run = s.tlu.run + 1 ∧ t.tlu.houseCount = s.tlu.houseCount) ∧
        (s.tlu.ref = .acquiring → ¬ continues →
          t.tlu.ref = .acquiring ∧ t.tlu.run = 1 ∧ t.tlu.houseCount = s.tlu.houseCount) ∧
        (s.tlu.ref = .locked → continues →
          t.tlu.ref = .locked ∧ t.tlu.run = s.tlu.run + 1 ∧ t.tlu.houseCount = some count) ∧
        (s.tlu.ref = .locked → ¬ continues →
          t.tlu.ref = .acquiring ∧ t.tlu.run = 1 ∧ t.tlu.houseCount = s.tlu.houseCount ∧
          t.tlu.counts.refJump = up s.tlu.counts.refJump ∧ s.Discarded t ∧
          State.Raised .ref .refJump s t ∧ State.Triggered (·.cutRef) .refJump s t) ∧
        (¬ (s.tlu.ref = .locked ∧ ¬ continues) → t.tlu.counts.refJump = s.tlu.counts.refJump))) ∧
  (∀ s : State,
    (s.tlu.lossTimer = none → exec .referenceLossTimer s = .next s) ∧
    (∀ d, s.tlu.lossTimer = some d → s.tlu.ref = .acquiring ∨ s.tlu.ref = .locked →
      ∃ t, exec .referenceLossTimer s = .next t ∧ t.now = max s.now d ∧
        t.tlu.ref = .lost ∧ t.tlu.lossTimer = none ∧
        (s.tlu.ref = .acquiring → t.tlu.counts.refLoss = s.tlu.counts.refLoss ∧ t.csu = s.csu ∧
          t.aou.cut = s.aou.cut) ∧
        t.tlu.run = s.tlu.run ∧
        (s.tlu.ref = .locked → t.tlu.counts.refLoss = up s.tlu.counts.refLoss ∧ s.Discarded t ∧
          State.Raised .ref .refLoss s t ∧ State.Triggered (·.cutRef) .refLoss s t)))

/-- A boundary under an epoch (R3, R5, R9): its index is the house count less the base; in ARMED an index
of 0 or more enters RUNNING and sets H; in RUNNING and ENDING an index above H is presented and raises H; an
index not above H is void: counted, the first since the relock raises REF, and neither the current index nor
H moves, no slot opens, no aging runs and the grade stays. From ENDING the boundary may leave the station in
DONE (R16). That the cause of this REF attention is the void boundary is the model's choice (log 61). -/
def Obligations.BoundaryIndex : Prop :=
  ∀ (s : State) (count : Word) (e : Epoch), s.tlu.ref = .locked → s.tlu.epoch = some e →
    s.tlu.lastMark.map (· + 1) = some count →
    let n : Index := count - e.base
    s.tlu.station ≠ .unconfigured → ∃ t, exec (.markTaken count s.rate.samples) s = .next t ∧
      (s.tlu.station = .armed → n.toInt < 0 →
        t.tlu.station = .armed ∧ t.tlu.curIndex = some n ∧ t.tlu.high = s.tlu.high) ∧
      (s.tlu.station = .armed → 0 ≤ n.toInt →
        t.tlu.station = .running ∧ t.tlu.curIndex = some n ∧ t.tlu.high = some n) ∧
      (s.tlu.station = .done →
        t.tlu.station = .done ∧ t.tlu.curIndex = some n ∧ t.tlu.high = s.tlu.high) ∧
      (s.tlu.station = .running ∨ s.tlu.station = .ending →
        (t.tlu.station = s.tlu.station ∨ (s.tlu.station = .ending ∧ t.tlu.station = .done)) ∧
        ((∀ h, s.tlu.high = some h → h.toInt < n.toInt) →
          t.tlu.curIndex = some n ∧ t.tlu.high = some n ∧
          t.tlu.voidRun = false ∧ t.tlu.counts.refVoid = s.tlu.counts.refVoid) ∧
        ((∃ h, s.tlu.high = some h ∧ n.toInt ≤ h.toInt) →
          t.tlu.curIndex = s.tlu.curIndex ∧ t.tlu.high = s.tlu.high ∧
          (t.tlu.station ≠ .done → t.tlu.voidRun = true) ∧
          t.tlu.counts.refVoid = up s.tlu.counts.refVoid ∧
          t.aou.openMark = s.aou.openMark ∧ t.sgc.grade = s.sgc.grade ∧
          t.rst.entries = s.rst.entries ∧ t.tlu.voidNoted = true ∧
          (s.tlu.voidNoted = false → State.Raised .ref .refVoid s t) ∧
          (s.tlu.voidNoted = true → State.Unraised .ref s t)))

/-- END_DRAIN_TIMER (R16): condition (b) holds once the timer has expired; the station enters DONE when
condition (a) holds, and the entries then in the spool are added to END_UNDRAINED; otherwise it stays
in ENDING with the timer expired. That the expiry acts whenever it is presented, and moves local time to the
later of itself and its due time, is the model's choice (log 2). -/
def Obligations.DrainTimerExpires : Prop :=
  ∀ (s : State) (d : Time), s.tlu.station = .ending → s.tlu.endTimer = .runningUntil d →
    (s.airRole = false ∨ s.aou.finished = true →
      ∃ t, exec .endDrainTimer s = .next t ∧ t.tlu.station = .done ∧ t.tlu.endTimer = .stopped ∧
        t.tlu.counts.endUndrained =
          upBy s.tlu.counts.endUndrained (t.ksp.write - t.ksp.free).toNat ∧
        t.tlu.epoch = s.tlu.epoch ∧ t.tlu.last = s.tlu.last ∧
        t.tlu.incarnation = s.tlu.incarnation ∧ t.cfr.period = none) ∧
    (s.airRole = true → s.aou.finished = false → s.outletPassed = false →
      ∃ t, exec .endDrainTimer s = .next t ∧ t.tlu = { s.tlu with endTimer := .expired } ∧
        t.now = max s.now d)

/-- A START delivered to the Timeline Unit (R11, Table 1-6, R13), row by row. The current index is that of the
last boundary presented under the epoch held, and before there is one that of the current house count against
it, which is the model's reading (log 15). An adoption leaves no boundary presented under the new epoch yet.
A conflict keeps the epoch, is counted, raises EPOCH and presents the EPOCH cut trigger; that the cause of both is
the other base with its station is the model's choice (log 61). And crossing STARTs:
in ARMED with the epoch unknown and the house count short of both bases, two STARTs of different origins,
neither with the dropped base, leave the base of the lower origin in either order. -/
def Obligations.StartsTaken : Prop :=
  (∀ (frame : Bytes) (s : State), deliver .start false frame s =
    startTaken (wordAt32 frame 14) (byteAt frame 1) { s with dlu := { s.dlu with
      counts := { s.dlu.counts with deliveredStart := up s.dlu.counts.deliveredStart } } }) ∧
  (∀ (s : State) (base : Word) (origin : Nat),
    let adopts := startTaken base origin s = { s with tlu := { s.tlu with
      epoch := some { base := base, source := origin }, curIndex := none } }
    let ignores := startTaken base origin s = { s with tlu := { s.tlu with
      counts := { s.tlu.counts with startIgnored := up s.tlu.counts.startIgnored } } }
    (s.tlu.station = .armed → s.tlu.epoch = none →
      (s.tlu.droppedBase = some base → ignores) ∧ (s.tlu.droppedBase ≠ some base → adopts)) ∧
    (∀ e, s.tlu.epoch = some e →
      let index := match s.tlu.curIndex with
        | some n => some n
        | none => s.tlu.houseCount.map fun count => (count - e.base : Index)
      let started := s.tlu.station = .running ∨ s.tlu.station = .ending ∨
        (s.tlu.station = .armed ∧ ∃ n, index = some n ∧ 0 ≤ n.toInt)
      (s.tlu.station = .armed → (∀ n, index = some n → n.toInt < 0) →
        (origin < e.source → adopts) ∧ (e.source ≤ origin → ignores)) ∧
      (started → base = e.base → startTaken base origin s = s) ∧
      (started → base ≠ e.base → let t := startTaken base origin s
        t.tlu = { s.tlu with
          counts := { s.tlu.counts with epochConflict := up s.tlu.counts.epochConflict } } ∧
        State.Raised .epoch (.epochConflict base origin) s t ∧
        State.Triggered (·.cutEpoch) (.epoch base origin) s t)) ∧
    (s.tlu.station = .unconfigured ∨ s.tlu.station = .configured ∨ s.tlu.station = .done →
      startTaken base origin s = s)) ∧
  ∀ (s : State) (b b' : Word) (o o' : Nat), s.tlu.station = .armed → s.tlu.epoch = none →
    s.tlu.droppedBase ≠ some b → s.tlu.droppedBase ≠ some b' → o < o' →
    (∀ n, s.tlu.houseCount = some n → (n - b).toInt < 0 ∧ (n - b').toInt < 0) →
    (startTaken b' o' (startTaken b o s)).tlu.epoch = some { base := b, source := o } ∧
    (startTaken b o (startTaken b' o' s)).tlu.epoch = some { base := b, source := o }

/-- An END frame delivered to the Timeline Unit (R15, Table 1-8), row by row; a first copy that arrives is so
delivered (R76). In RUNNING L becomes the frame's, or the current index where that is greater. In ENDING it becomes
the lesser of L and the frame's, and again the current index where that is greater. The drain timer starts as
ENDING is entered and is not restarted. That an epoch dropped in ARMED takes its current index with it is the
model's reading (log 15), and that it ends a void run (log 31). -/
def Obligations.EndFrameTaken : Prop :=
  (∀ (frame : Bytes) (s : State), deliver .endFrame false frame s =
    endTaken (wordAt32 frame 14) (wordAt32 frame 18) { s with dlu := { s.dlu with
      counts := { s.dlu.counts with deliveredEnd := up s.dlu.counts.deliveredEnd } } }) ∧
  ∀ (s : State) (base : Word) (last : Index),
    let ignores := endTaken base last s = { s with tlu := { s.tlu with
      counts := { s.tlu.counts with endIgnored := up s.tlu.counts.endIgnored } } }
    (∀ e, s.tlu.epoch = some e → base = e.base →
      (s.tlu.station = .running → ∀ c n, s.csu.config = some c → s.tlu.curIndex = some n →
        ∃ l : Index, l.toInt = max n.toInt last.toInt ∧
          endTaken base last s = { s with tlu := { s.tlu with
            station := .ending
            last := some l
            endTimer := .runningUntil (s.now + 1000000000 * c.drainEnd) } }) ∧
      (s.tlu.station = .ending → ∀ n m, s.tlu.curIndex = some n → s.tlu.last = some m →
        ∃ l : Index, l.toInt = max n.toInt (min m.toInt last.toInt) ∧
          endTaken base last s = { s with tlu := { s.tlu with last := some l } }) ∧
      (s.tlu.station = .armed → endTaken base last s = { s with tlu := { s.tlu with
        droppedBase := some base, epoch := none, curIndex := none, high := none, last := none
        voidRun := false } })) ∧
    (∀ e, s.tlu.epoch = some e → base ≠ e.base →
      s.tlu.station = .armed ∨ s.tlu.station = .running ∨ s.tlu.station = .ending → ignores) ∧
    (s.tlu.station = .armed → s.tlu.epoch = none → ignores) ∧
    (s.tlu.station = .unconfigured ∨ s.tlu.station = .configured ∨ s.tlu.station = .done → ignores)

/-! ### The tests at the end of an event (R16, R145, R152) -/

/-- The tests that end an event (log 12). Outside RUNNING and ENDING they change nothing. In any state they
leave time, the queue, the coder, the roster, the cues, the peers, the console, the write sequence and
what each port learnt of its link; they leave a lawful spool's drain barred by a condition of R152, and
ENDING only while a condition of R16 fails. -/
def Obligations.EndOfEventTests : Prop :=
  ∀ s : State,
    let t := settle s
    (s.performing = false → t = s) ∧
    t.pending = s.pending ∧ t.now = s.now ∧ t.sgc = s.sgc ∧ t.rst = s.rst ∧ t.pcu = s.pcu ∧
    t.csu = s.csu ∧ t.ksp.write = s.ksp.write ∧ t.ksp.lostRun = s.ksp.lostRun ∧
    t.dlu.muted = s.dlu.muted ∧ t.dlu.filter = s.dlu.filter ∧ t.aou.window = s.aou.window ∧
    t.aou.feed = s.aou.feed ∧ t.aou.cut = s.aou.cut ∧
    (∀ p, (t.port p).link = (s.port p).link ∧ (t.port p).neighbour = (s.port p).neighbour ∧
      (t.port p).silence = (s.port p).silence ∧ (t.port p).cause = (s.port p).cause ∧
      (t.port p).seen1 = (s.port p).seen1 ∧ (t.port p).seen2 = (s.port p).seen2 ∧
      (t.port p).lane1 = (s.port p).lane1 ∧ (t.port p).lane2 = (s.port p).lane2 ∧
      (t.port p).heldUntil = (s.port p).heldUntil) ∧
    (t.tlu = s.tlu ∨ (s.tlu.station = .ending ∧ t.tlu.station = .done)) ∧
    (s.ksp.Law → t.drainBlock ≠ none) ∧
    (t.tlu.station = .ending → t.outletDone = false ∨ t.spoolDone = false) ∧
    (t.tlu.station = .ending → t.airRole = true → t.outletPassed = true → t.aou.finished = true)

/-! ### Capture lines (R18 to R23, Tables 2-2 to 2-4) -/

/-- SAMPLE_FRAME_COMPLETE and LOSS_OF_FRAMING (R19 to R21, R23) by the line's state and by the bits that have
arrived, behind those the line holds. The search gives up a position where the 16 bits are not the pattern
E591, or those 216 bits on are not, and stops at the first it need not give up. A HUNTING line locks with the
frame of the second sync word once its slots are there; a LOCKED one stores the frame of a sync word, or
discards it with an OVERRUN when two wait; where the 16 bits are not the pattern it has lost framing, its
buffer empties, and the search resumes at the first of them. An error counts, sets its flag, and raises
CAPTURE when the flag was clear. Nothing else changes. When the line's bit clock stops, a HUNTING line keeps
its search position, and a LOCKED one drops the bits of the frame under way: the comparison is made on the
first 16 bits that arrive when the clock returns. That the bits come with the two events, in runs between the
stops, is the model's choice (log 7). -/
def Obligations.SampleFramesTaken : Prop :=
  let pattern := [true, true, true, false, false, true, false, true, true, false, false, true, false,
    false, false, true]
  let givenUp := fun bits : List Bool => (16 ≤ bits.length ∧ bits.take 16 ≠ pattern) ∨
    (232 ≤ bits.length ∧ (bits.drop 216).take 16 ≠ pattern)
  (∀ bits : List Bool, search bits <:+ bits ∧ ¬ givenUp (search bits) ∧
    ∀ n, n < bits.length - (search bits).length → givenUp (bits.drop n)) ∧
  (∀ bits : List Bool, bits.length = 200 → (slotsOf 8 bits).length = 8 ∧
    ∀ i j, i < 8 → j < 25 → ((slotsOf 8 bits).getD i 0).getMsbD j = bits.getD (25 * i + j) false) ∧
  ∀ (s : State) (k : Nat) (l : CaptureLine) (bits : List Bool) (event : List (List Bool) → Instr),
    s.cfr.lines[k]? = some l →
    event = (fun runs => .sampleFrameComplete k runs) ∨
      event = (fun runs => .lossOfFraming { line := k, runs := runs }) →
    let all := l.held ++ bits
    let withLine := fun (m : CaptureLine) (t : State) =>
      { t with cfr := { t.cfr with lines := t.cfr.lines.set k m } }
    let becomes := fun (m : CaptureLine) (u : Csu) =>
      exec (event [bits]) s = .next { withLine m s with csu := u }
    let raised := fun (set : Bool) (flag : CaptureFlag) =>
      if set then s.csu else s.csu.raise .capture (.capture k flag)
    exec (event []) s = .next s ∧
    (∀ (next : List Bool) (later : List (List Bool)), ∃ t m, exec (event [bits]) s = .next t ∧
      t.cfr.lines[k]? = some m ∧ exec (event (bits :: next :: later)) s = exec (event (next :: later))
        (if m.state = .locked then withLine { m with held := [] } t else t)) ∧
    (∀ next : List Bool, l.state = .locked → all.length < 216 →
      (16 ≤ all.length → all.take 16 = pattern) → 16 ≤ next.length → next.take 16 ≠ pattern → (search next).length < 432 →
      exec (event [bits, next]) s = .next { withLine { l with
        state := .hunting, buffer := [], held := search next
        framing := true, framingCount := up l.framingCount } s with csu := raised l.framing .framing }) ∧
    (l.state = .off → exec (event [bits]) s = .next s) ∧
    (l.state = .hunting → (search all).length < 432 → becomes { l with held := search all } s.csu) ∧
    (l.state = .hunting → (search all).length = 432 →
      becomes { l with
        state := .locked, buffer := [slotsOf 8 ((search all).drop 232)], held := [] } s.csu) ∧
    (l.state = .locked → all.length < 216 → (16 ≤ all.length → all.take 16 = pattern) →
      becomes { l with held := all } s.csu) ∧
    (l.state = .locked → all.length = 216 → all.take 16 = pattern →
      (l.buffer.length < 2 →
        becomes { l with buffer := l.buffer ++ [slotsOf 8 (all.drop 16)], held := [] } s.csu) ∧
      (2 ≤ l.buffer.length →
        becomes { l with overrun := true, overrunCount := up l.overrunCount, held := [] }
          (raised l.overrun .overrun))) ∧
    (l.state = .locked → 16 ≤ all.length → all.take 16 ≠ pattern → (search all).length < 432 →
      becomes { l with
        state := .hunting, buffer := [], held := search all
        framing := true, framingCount := up l.framingCount } (raised l.framing .framing))

/-- SAMPLE_TAKE (R22, R27, Table 2-4): from CONFIGURED onward each line gives one take. A LOCKED line gives
its oldest frame's samples, a zero for each slot of bad parity, and counts those; with no frame it gives
damaged zeros and an UNDERRUN; a HUNTING line gives damaged zeros; an OFF line gives nothing. Each open
accumulation takes its channel's sample. An error that sets a flag raises CAPTURE with its line and flag, line
0 first, which is the model's choice of order (log 47). In UNCONFIGURED nothing is taken. -/
def Obligations.SampleTakeTaken : Prop :=
  ∀ s : State,
    (s.unconfigured = true → exec .sampleTake s = .next s) ∧
    (s.unconfigured = false → s.cfr.lines.length = 4 →
      ∃ t, exec .sampleTake s = .next t ∧
        t = { s with
          cfr := { s.cfr with lines := t.cfr.lines, period := t.cfr.period }
          csu := { s.csu with
            pendingAttn := t.csu.pendingAttn
            attnRaised := t.csu.attnRaised } } ∧
        State.RaisedFor .capture ((List.range 4).filterMap fun k =>
          let l := s.captureLine k
          match l.state, l.buffer with
          | .locked, [] => if l.underrun then none else some (.capture k .underrun)
          | .locked, f :: _ =>
            if l.parity || f.all parityGood then none else some (.capture k .parity)
          | .hunting, _ => none
          | .off, _ => none) s t ∧
        (∀ a : AttnClass, a ≠ .capture →
          t.csu.pendingAttn.getD a.rank none = s.csu.pendingAttn.getD a.rank none ∧
          t.csu.attnRaised.getD a.rank 0 = s.csu.attnRaised.getD a.rank 0) ∧
        (∀ (k : Nat) (l : CaptureLine), s.cfr.lines[k]? = some l →
          (l.state ≠ .locked → t.cfr.lines[k]? = some l) ∧
          (l.state = .locked → l.buffer = [] →
            t.cfr.lines[k]? = some { l with underrun := true, underrunCount := up l.underrunCount }) ∧
          (∀ f rest, l.state = .locked → l.buffer = f :: rest →
            let bad := (f.filter fun x => !parityGood x).length
            t.cfr.lines[k]? = some { l with
              buffer := rest
              parity := l.parity || decide (0 < bad)
              parityCount := upBy l.parityCount bad })) ∧
        (s.cfr.period = none → t.cfr.period = none) ∧
        (∀ p, s.cfr.period = some p → ∃ q, t.cfr.period = some q ∧ q.index = p.index ∧
          q.accs.length = p.accs.length ∧
          ∀ (i : Nat) (a : Accumulation) (l : CaptureLine), p.accs[i]? = some a →
            s.cfr.lines[a.channel / 8]? = some l →
            (l.state = .off → q.accs[i]? = some a) ∧
            (l.state = .hunting ∨ (l.state = .locked ∧ l.buffer = []) →
              q.accs[i]? = some { a with samples := a.samples ++ [0], damage := a.damage + 1 }) ∧
            (∀ f rest x, l.state = .locked → l.buffer = f :: rest → f[a.channel % 8]? = some x →
              q.accs[i]? = some (if parityGood x then
                  { a with samples := a.samples ++ [x.extractLsb' 1 24] }
                else { a with samples := a.samples ++ [0], damage := a.damage + 1 }))))

/-! ### The Segment Coder (chapter 3) -/

/-- SEGMENT_CODED (R34 to R39): the next segment of the batch gives an AIR record when its group was PRIMED
or ON at the batch's boundary, and a KEEP record when its channel keeps; the batch goes on with the
rest, or completes with its index reported. A KEEP record joins a spool that has room, and is counted
lost otherwise. With no batch only the tests at the end of an event are made. An AIR payload has the
size of its grade (Table 3-2); a KEEP payload is 16 bytes or more and at most RAW, and in raw form it
is the samples, three bytes each, most significant first; either form gives back the samples. The content of
the coded forms is open (log 5). In full, at a station with a configuration and an incarnation (R37, R77, R131):
the AIR record, with the batch grade and a damage flag for a damage count above 0, goes out as an AIR frame of
the own incarnation and the next ring sequence, offered to lane 1 of both ports and delivered to the own Air
Outlet where there is one; while MUTED it is declined, counted, and takes no sequence. The KEEP record (R38,
R149, R151), with the lost run as its loss-before, is the entry of sequence write, whatever MUTED. The drain's
test follows the append (R152). That the event ends with the tests is the model's choice (log 12), and that with
no batch nothing else happens is log 3. -/
def Obligations.SegmentCodedTaken : Prop :=
  (∀ (g : Nat) (xs : List Sample), (airPayload g xs).length = gradeSize g) ∧
  [0, 1, 2, 3, 4, 5, 6, 7].map gradeSize = [120, 160, 240, 320, 480, 640, 960, 1280] ∧
  (∀ (r : SampleRate) (xs : List Sample), xs.length = r.samples →
    16 ≤ (keepPayload r xs).length ∧ (keepPayload r xs).length ≤ r.raw ∧
    keepSamples r (keepPayload r xs) = xs ∧
    (keepsRaw r xs = true ↔ (keepPayload r xs).length = r.raw) ∧
    (keepsRaw r xs = true → keepPayload r xs = xs.flatMap fun x =>
      [x.extractLsb' 16 8, x.extractLsb' 8 8, x.extractLsb' 0 8])) ∧
  ∀ s : State,
    (s.sgc.batch = none → exec .segmentCoded s = .next (settle s)) ∧
    (∀ (b : Batch) (g : Segment) (rest : List Segment), s.sgc.batch = some b →
      b.segments = g :: rest →
      let air := (b.groups.getD g.group .dark).onAir
      let room := s.ksp.full = false
      ∃ t, exec .segmentCoded s = .next t ∧
        t.sgc = { s.sgc with
          batch := if rest = [] then none else some { b with segments := rest }
          counts := { s.sgc.counts with
            airMade := upIf air s.sgc.counts.airMade
            keepMade := upIf g.keep s.sgc.counts.keepMade
            keepRaw := upIf (g.keep && keepsRaw s.rate g.samples) s.sgc.counts.keepRaw } } ∧
        t.tlu.codedIndex = (if rest = [] then some b.index else s.tlu.codedIndex) ∧
        (g.keep = false ∨ s.armedOnward = false →
          t.ksp.write = s.ksp.write ∧ t.ksp.lostRun = s.ksp.lostRun ∧ t.csu = s.csu) ∧
        (g.keep = true → s.armedOnward = true → room →
          t.ksp.write = s.ksp.write + 1 ∧ t.ksp.lostRun = 0 ∧ t.csu = s.csu) ∧
        (g.keep = true → s.armedOnward = true → ¬ room →
          t.ksp.write = s.ksp.write ∧ t.ksp.lostRun = up s.ksp.lostRun ∧
          t.csu = if s.ksp.lostRun = 0 then s.csu.raise .spool (.spoolFull s.ksp.write) else s.csu) ∧
        t.rst = s.rst ∧ t.pcu = s.pcu ∧ t.dlu.muted = s.dlu.muted ∧ t.cfr.lines = s.cfr.lines) ∧
    (∀ (b : Batch) (g : Segment) (rest : List Segment) (c : Configuration) (inc : Word),
      s.sgc.batch = some b → b.segments = g :: rest → s.csu.config = some c →
      s.tlu.incarnation = some inc → 1 ≤ c.station ∧ c.station ≤ 16 → b.grade ≤ 7 → g.track ≤ 511 →
      g.group ≤ 15 →
      -- the AIR record
      let load : AirPayload :=
        { grade := b.grade, damage := decide (0 < g.damage), payload := airPayload b.grade g.samples }
      let frame := ringBytes .air { origin := c.station, incarnation := inc, sequence := s.dlu.nextSeq }
        (airBytes { track := g.track, group := g.group, index := g.index, load := load })
      let made := { s with sgc := { s.sgc with
        counts := { s.sgc.counts with airMade := up s.sgc.counts.airMade } } }
      let offered := offerFrame .b 1 frame (offerFrame .a 1 frame { made with dlu := { s.dlu with
        nextSeq := s.dlu.nextSeq + 1
        counts := { s.dlu.counts with
          originated := up s.dlu.counts.originated
          origUnsent := upIf ((s.port .a).offer 1 != .queued && (s.port .b).offer 1 != .queued)
            s.dlu.counts.origUnsent } } })
      let u : State :=
        if (b.groups.getD g.group .dark).onAir = false then s
        else if s.dlu.muted.isSome = true then { made with dlu := { s.dlu with
          counts := { s.dlu.counts with muteDeclined := up s.dlu.counts.muteDeclined } } }
        else if c.airRole = true then
          takeArrival { track := g.track, origin := c.station, index := g.index, load := load }
            { offered with dlu := { offered.dlu with
              counts := { offered.dlu.counts with deliveredAir := up offered.dlu.counts.deliveredAir } } }
        else offered
      -- the KEEP record
      let counted := { u with sgc := { u.sgc with counts := { u.sgc.counts with
        keepMade := up u.sgc.counts.keepMade
        keepRaw := upIf (keepsRaw c.rate g.samples) u.sgc.counts.keepRaw } } }
      let k : State :=
        if g.keep = false then u
        else if s.armedOnward = false then counted
        else if s.ksp.full = true then { counted with
          ksp := { s.ksp with
            lostRun := up s.ksp.lostRun
            counts := { s.ksp.counts with spoolLost := up s.ksp.counts.spoolLost } }
          csu := if s.ksp.lostRun = 0 then s.csu.raise .spool (.spoolFull s.ksp.write) else s.csu }
        else { counted with ksp := { s.ksp with
          entries := s.ksp.entries ++ [{
            sequence := s.ksp.write, track := g.track, group := g.group, index := g.index
            damage := g.damage, lossBefore := s.ksp.lostRun, payload := keepPayload c.rate g.samples }]
          write := s.ksp.write + 1
          lostRun := 0
          counts := { s.ksp.counts with spoolAppended := up s.ksp.counts.spoolAppended } } }
      exec .segmentCoded s = .next (settle { drain k with
        sgc := { k.sgc with batch := if rest = [] then none else some { b with segments := rest } }
        tlu := { s.tlu with
          codedIndex := if rest = [] then some b.index else s.tlu.codedIndex } }))

/-- The accumulations at a boundary (R27, R28, R34), with no batch in flight. An indexed period closes at a
boundary with an index and forms the batch of its index: a segment for each patched channel, in the order of
the accumulations, at the grade and the group states of that boundary; the damage of each is added to its
channel's DAMAGE; an empty batch completes at once. A period without an index forms nothing. New accumulations
open by the station state presented (Table 2-7). The model's choices: a period with an index is dropped at a
void boundary (log 30), and boundary L + 1 counts as taken once H is above L (log 48). -/
def Obligations.SegmentsFormed : Prop :=
  ∀ (s : State) (count : Word), s.tlu.ref = .locked → s.tlu.lastMark.map (· + 1) = some count →
    s.tlu.station ≠ .unconfigured → s.sgc.batch = none →
    ∃ t, exec (.markTaken count s.rate.samples) s = .next t ∧
      let opened := fun i : Option Index => t.cfr.period = some {
        index := i
        accs := s.patched.map fun p => { channel := p.1, samples := [], damage := 0 } }
      let damage := fun k => (t.cfr.channels[k]?).map ChannelCounts.damage
      (s.tlu.epoch = none ∨ s.tlu.station = .configured ∨ s.tlu.station = .done →
        s.performing = false → t.cfr.period = none ∧
          (s.cfr.period = none → t.sgc.batch = none ∧ t.tlu.codedIndex = s.tlu.codedIndex)) ∧
      (∀ e, s.tlu.epoch = some e → s.tlu.station ≠ .configured →
        let n : Index := count - e.base
        let void := s.performing = true ∧ ∃ h, s.tlu.high = some h ∧ n.toInt ≤ h.toInt
        -- the period that closes
        (∀ p m, s.cfr.period = some p → p.index = some m → ¬ void →
          let segments := p.accs.filterMap fun a => (s.patchOf a.channel).map fun e => ({
            channel := a.channel, track := e.track, group := e.group, keep := e.keep, index := m
            samples := a.samples, damage := a.damage } : Segment)
          (segments = [] → t.sgc.batch = none ∧ t.tlu.codedIndex = some m) ∧
          (segments ≠ [] → t.tlu.codedIndex = s.tlu.codedIndex ∧ t.sgc.batch = some {
            index := m
            grade := t.sgc.grade
            groups := (List.range 16).map s.cueValue
            segments := segments }) ∧
          ((segments.map fun g => g.channel).Nodup → ∀ (k : Nat) (c : ChannelCounts),
            s.cfr.channels[k]? = some c →
            damage k = some (upBy c.damage
              ((segments.filter fun g => g.channel == k).map fun g => g.damage).sum))) ∧
        (s.cfr.period = none ∨ (∃ p, s.cfr.period = some p ∧ p.index = none) ∨ void →
          t.sgc.batch = none ∧ t.tlu.codedIndex = s.tlu.codedIndex ∧
          ∀ k, damage k = (s.cfr.channels[k]?).map ChannelCounts.damage) ∧
        -- the period that opens
        (s.tlu.station = .armed → n.toInt < 0 → t.cfr.period = none) ∧
        (s.tlu.station = .armed → 0 ≤ n.toInt → opened (some n)) ∧
        (s.tlu.station = .running → ¬ void → opened (some n)) ∧
        (s.tlu.station = .running → void → opened none) ∧
        (∀ l, s.tlu.station = .ending → s.tlu.last = some l → t.tlu.station = .ending →
          (¬ void → n.toInt ≤ l.toInt → opened (some n)) ∧
          (¬ void → l.toInt < n.toInt → t.cfr.period = none) ∧
          (void → (∀ h, s.tlu.high = some h → h.toInt ≤ l.toInt) → opened none) ∧
          (void → (∃ h, s.tlu.high = some h ∧ l.toInt < h.toInt) → t.cfr.period = none)))

/-- The grade at a boundary presented with an index in RUNNING or ENDING, and at the one that enters RUNNING
(R40 to R43, Table 3-7): the target is the highest grade within the ceiling whose size the allowance
B / max(1, N) covers, one lower while a lane 2 is held, never below 0. As RUNNING is entered the grade is the
target, and nothing is counted; then a lower target is taken at once, an equal one clears the step-up counter,
and a higher one raises the grade by one at the fiftieth boundary in a row. That N is read before the aging of
the same boundary is fixed in log 10. -/
def Obligations.GradeUpdated : Prop :=
  (∀ (a c : Nat), c ≤ 7 →
    targetGrade a c false ≤ c ∧
    (targetGrade a c false = 0 ∨ gradeSize (targetGrade a c false) ≤ a) ∧
    (∀ h, h ≤ c → gradeSize h ≤ a → h ≤ targetGrade a c false) ∧
    targetGrade a c true = targetGrade a c false - 1) ∧
  (∀ (s : State) (c : Configuration) (count : Word) (e : Epoch),
    s.csu.config = some c → s.tlu.ref = .locked →
    s.tlu.lastMark.map (· + 1) = some count → s.tlu.epoch = some e →
    let n : Index := count - e.base
    let entering := s.tlu.station = .armed ∧ 0 ≤ n.toInt
    let going := (s.tlu.station = .running ∨ s.tlu.station = .ending) ∧
      ∃ h, s.tlu.high = some h ∧ h.toInt < n.toInt
    let held := (s.port .a).heldUntil.isSome || (s.port .b).heldUntil.isSome
    let target := targetGrade (c.budget / max 1 s.airCount) c.ceiling held
    let g := s.sgc.grade
    entering ∨ going → ∃ t, exec (.markTaken count s.rate.samples) s = .next t ∧
      t.sgc.lastTarget = some target ∧ t.sgc.lastN = some s.airCount ∧
      (entering → t.sgc.grade = target ∧ t.sgc.stepUp = 0 ∧
        t.sgc.counts.gradeUp = s.sgc.counts.gradeUp ∧
        t.sgc.counts.gradeDown = s.sgc.counts.gradeDown) ∧
      (going →
        (target < g → t.sgc.grade = target ∧ t.sgc.stepUp = 0 ∧
          t.sgc.counts.gradeDown = up s.sgc.counts.gradeDown) ∧
        (target = g → t.sgc.grade = g ∧ t.sgc.stepUp = 0) ∧
        (g < target → s.sgc.stepUp + 1 < 50 →
          t.sgc.grade = g ∧ t.sgc.stepUp = s.sgc.stepUp + 1) ∧
        (g < target → 50 ≤ s.sgc.stepUp + 1 → t.sgc.grade = g + 1 ∧ t.sgc.stepUp = 0 ∧
          t.sgc.counts.gradeUp = up s.sgc.counts.gradeUp) ∧
        (g < target → s.sgc.stepUp + 1 < 50 → t.sgc.counts.gradeUp = s.sgc.counts.gradeUp) ∧
        (target ≤ g → t.sgc.counts.gradeUp = s.sgc.counts.gradeUp) ∧
        (g ≤ target → t.sgc.counts.gradeDown = s.sgc.counts.gradeDown)))

/-! ### Ring ports (R45 to R64, R79 to R85) -/

/-- HELLO_TIMER (R45, R46) while the schedule runs: a HELLO joins each port's link-local queue, and starts
at once, with its fields filled, at a port whose transmitter is idle and whose queue is empty; a HELLO
that already waits stands for both; a queue of two HOLDs drops it, counted. The next falls due 1 ms
after the last was due (log 40). The model's choices: that, and that the expiry acts whenever
it is presented and moves local time to the later of itself and its due time (log 2); with no schedule running it
changes nothing (log 3). CARRIER_APPEAR (R49): a
port in DOWN enters LISTEN, from CONFIGURED onward. -/
def Obligations.HelloScheduleAndCarrier : Prop :=
  ∀ s : State,
    (s.lku.helloAt = none → exec .helloTimer s = .next s) ∧
    (∀ d, s.lku.helloAt = some d → ∃ t, exec .helloTimer s = .next t ∧
      t = { s with now := max s.now d, lku := t.lku } ∧
      t.lku.helloAt = some (d + 1000000) ∧ t.lku.enabled = s.lku.enabled ∧
      t.lku.digest = s.lku.digest ∧
      ∀ p, let x := s.port p
        (.hello ∈ x.linkQueue → t.port p = x) ∧
        (.hello ∉ x.linkQueue → 2 ≤ x.linkQueue.length →
          t.port p = { x with counts := { x.counts with llDrop := up x.counts.llDrop } }) ∧
        (.hello ∉ x.linkQueue → x.linkQueue.length < 2 → x.tx ≠ none →
          t.port p = { x with linkQueue := x.linkQueue ++ [.hello] }) ∧
        (x.linkQueue = [] → x.tx = none →
          t.port p = { x with tx := some (.hello (helloBytes s p)) })) ∧
    (∀ p, ∃ t, exec (.carrierAppear p) s = .next t ∧
      t = { s with lku := t.lku } ∧ t.port (other p) = s.port (other p) ∧
      t.lku.helloAt = s.lku.helloAt ∧
      t.port p = { s.port p with
        carrier := true
        link := if (s.port p).link = .down ∧ s.unconfigured = false then .listen
          else (s.port p).link })

/-- CARRIER_LOSS and SILENCE_EXPIRY (R53, R55, R64): the port goes to DOWN, and on to LISTEN where carrier is
still present; its neighbour record, silence timer, barring cause, seen mask, lanes, lane queues, hold
and congestion are cleared and the event is counted. From whatever link state it goes, a ring-wide or HOLD
frame in transmission is aborted and counted, and a HELLO completes (Table 4-9). A port that leaves UP counts it
and what it flushes, each HOLD removed from the link-local queue among it, and raises LINK. That no HOLD waits
outside UP, so that none is sent in DOWN, is kept by every step (`LinkLawKept`). What the end of its congestion brings
to the other port stands in `CongestionStartsAndEnds`. The model's choices: the expiry acts whenever it is
presented and moves local time to the later of itself and its due time (log 2), an expiry with no timer running
and a loss of carrier in DOWN change nothing else (log 3), and the event ends with the tests of log 12. -/
def Obligations.PortGoesDown : Prop :=
  ∀ (s : State) (p : PortId),
    let x := s.port p
    let gone := fun (y : Port) (carrier : Bool) =>
      y.link = (if carrier then .listen else .down) ∧ y.carrier = carrier ∧ y.neighbour = none ∧
      y.silence = none ∧ y.cause = {} ∧
      (∀ b, x.tx = some (.hello b) → y.tx = x.tx ∧ y.counts.txAbort = x.counts.txAbort) ∧
      (x.tx = none → y.counts.txAbort = x.counts.txAbort) ∧
      ((∃ n b, x.tx = some (.ring n b)) ∨ (∃ n b, x.tx = some (.hold n b)) →
        y.counts.txAbort = up x.counts.txAbort) ∧
      (x.link = .up ∨ (∀ f ∈ x.linkQueue, f = .hello) →
        (∀ f ∈ y.linkQueue, f = .hello) ∧ ∀ f, y.tx = some f → ∃ b, f = .hello b) ∧
      (x.link = .up → y.seen1 = false ∧ y.seen2 = false ∧ y.lane1 = .closed ∧ y.lane2 = .closed ∧
        y.queue0 = [] ∧ y.queue1 = [] ∧ y.queue2 = [] ∧ y.heldUntil = none ∧ y.refreshAt = none ∧
        y.counts.linkLost = up x.counts.linkLost ∧
        y.counts.flushL0 = upBy x.counts.flushL0 x.queue0.length ∧
        y.counts.flushL1 = upBy x.counts.flushL1 x.queue1.length ∧
        y.counts.flushL2 = upBy x.counts.flushL2 x.queue2.length ∧
        y.counts.flushLL = upBy x.counts.flushLL (x.linkQueue.filter fun f => f != .hello).length)
    (x.link = .down → ∃ t, exec (.carrierLoss p) s = .next t ∧
      t = settle { s with lku := s.lku.setPort p { x with carrier := false } }) ∧
    (x.link ≠ .down → ∃ t, exec (.carrierLoss p) s = .next t ∧
      gone (t.port p) false ∧ (t.port p).counts.carrierLoss = up x.counts.carrierLoss ∧
      t.csu = if x.link = .up then s.csu.raise .link (.link p .down) else s.csu) ∧
    (x.silence = none → exec (.silenceExpiry p) s = .next (settle s)) ∧
    (∀ d, x.silence = some d → ∃ t, exec (.silenceExpiry p) s = .next t ∧
      t.now = max s.now d ∧ gone (t.port p) x.carrier ∧
      (t.port p).counts.silence = up x.counts.silence ∧
      t.csu = if x.link = .up then s.csu.raise .link (.link p .down) else s.csu)

/-- A valid HELLO taken by a port outside DOWN (R48, R50 to R52, R55 to R57, Tables 4-3, 4-4, 4-6): it fills the
neighbour record and restarts the silence timer. A matching digest and a foreign id bring the port UP,
with its lanes by the two enables and the seen mask; a mismatch, the own id, or both bar it: each cause that a
port already BARRED does not have is counted and raised, DIGEST as LINK and DUPID as DUPID, and a port that
leaves UP for BARRED counts and raises the lost link too; in UP the same neighbour moves the lanes, and
another one is taken as if in LISTEN. The lanes (Table 4-6): enabled here, a lane is OPEN when the neighbour
enables it and has seen this station's enable, and PENDING otherwise as the port enters UP; in UP a lane closes
when the neighbour withdraws its enable, and a CLOSED one stays so until both enables stand. That the cause of
this DUPID attention is the port is the model's choice (log 60). -/
def Obligations.HelloTaken : Prop :=
  (∀ enable seen : Bool,
    laneOnUp false enable seen = .closed ∧
    (laneOnUp true enable seen = .opened ↔ enable = true ∧ seen = true) ∧
    laneOnUp true enable seen ≠ .closed) ∧
  (∀ (own enable seen : Bool) (l : LaneState),
    (laneOnHello own enable seen l = .opened ↔
      enable = true ∧ seen = true ∧ (l ≠ .closed ∨ own = true)) ∧
    (laneOnHello own enable seen l = .closed ↔ enable = false ∨ (l = .closed ∧ own = false))) ∧
  ∀ (s : State) (p : PortId) (bs : Bytes) (h : Neighbour), s.unconfigured = false →
    bs.length ≤ 3072 → crcGood bs = true → byteAt bs 0 = 1 → parseHello s.now bs = some h →
    (s.port p).link ≠ .down →
    let x := s.port p
    let digest := s.lku.digest != some h.digest
    let dupid := h.station == s.ownId
    let old : BarCause := if x.link = .barred then x.cause else {}
    let raises := fun u : Csu =>
      let v := if digest && !old.digest then u.raise .link (.link p .barred) else u
      if dupid && !old.dupid then v.raise .dupid (.barredDupid p) else v
    ∃ t, exec (.rxFrameComplete p bs) s = .next t ∧
      let y := t.port p
      y.neighbour = some h ∧ y.silence = some (s.now + 4000000) ∧
      (digest || dupid → y.link = .barred ∧ y.cause = { digest := digest, dupid := dupid } ∧
        y.counts.barredDigest = upIf (digest && !old.digest) x.counts.barredDigest ∧
        y.counts.barredDupid = upIf (dupid && !old.dupid) x.counts.barredDupid ∧
        (x.link ≠ .up → t.csu = raises s.csu ∧ y.counts.linkLost = x.counts.linkLost) ∧
        (x.link = .up → t.csu = raises (s.csu.raise .link (.link p .barred)) ∧
          y.counts.linkLost = up x.counts.linkLost ∧ y.lane1 = .closed ∧ y.lane2 = .closed ∧
          y.seen1 = false ∧ y.seen2 = false ∧ y.heldUntil = none ∧ y.refreshAt = none ∧
          y.queue0 = [] ∧ y.queue1 = [] ∧ y.queue2 = [])) ∧
      (!digest && !dupid → y.link = .up ∧ y.seen1 = h.enable1 ∧ y.seen2 = h.enable2 ∧
        y.counts.barredDigest = x.counts.barredDigest ∧
        y.counts.barredDupid = x.counts.barredDupid ∧
        ((x.link = .up → x.cause = {}) → y.cause = {}) ∧
        (x.link ≠ .up ∨ x.neighbour.map (·.station) ≠ some h.station →
          y.lane1 = laneOnUp s.lku.enabled h.enable1 h.seen1 ∧
          y.lane2 = laneOnUp s.lku.enabled h.enable2 h.seen2 ∧ y.heldUntil = none ∧
          y.refreshAt = none) ∧
        (x.link = .up → x.neighbour.map (·.station) = some h.station →
          y.lane1 = laneOnHello s.lku.enabled h.enable1 h.seen1 x.lane1 ∧
          y.lane2 = laneOnHello s.lku.enabled h.enable2 h.seen2 x.lane2 ∧
          y.heldUntil = x.heldUntil ∧ t.csu = s.csu) ∧
        (x.link ≠ .up → t.csu = s.csu) ∧
        (x.link = .up → x.neighbour.map (·.station) ≠ some h.station →
          y.counts.neighbourChange = up x.counts.neighbourChange ∧
          y.counts.linkLost = up x.counts.linkLost ∧
          t.csu = s.csu.raise .link (.link p .listen)))

/-- What a receiver discards (R48, R54, R69, Tables 4-5 and 5-2): one count, the tests at the end of an
event, and nothing else. In UNCONFIGURED, and in DOWN, nothing is received. That an unknown kind whose
length field is wrong is RX_LENGTH (log 25), and that a HOLD's length is tested before the link state
(log 26), are the model's choices, and so is it that a discard ends with the tests of the drain, the finished
report and DONE (log 12). -/
def Obligations.ReceiverDiscards : Prop :=
  ∀ (s : State) (p : PortId) (bs : Bytes),
    let x := s.port p
    let passes := s.unconfigured = false ∧ x.link ≠ .down
    let sound := bs.length ≤ 3072 ∧ crcGood bs = true
    let counts := fun f : PortCounts → PortCounts => exec (.rxFrameComplete p bs) s =
      .next (settle { s with lku := s.lku.setPort p { x with counts := f x.counts } })
    let delivery := fun f : DluCounts → DluCounts => exec (.rxFrameComplete p bs) s =
      .next (settle { s with dlu := { s.dlu with counts := f s.dlu.counts } })
    (¬ passes → exec (.rxFrameComplete p bs) s = .next (settle s)) ∧
    (passes → 3072 < bs.length → counts fun c => { c with rxLong := up c.rxLong }) ∧
    (passes → bs.length ≤ 3072 → crcGood bs = false → counts fun c => { c with rxCrc := up c.rxCrc }) ∧
    (passes → sound → byteAt bs 0 = 1 → parseHello s.now bs = none →
      counts fun c => { c with rxBadHello := up c.rxBadHello }) ∧
    (passes → sound → byteAt bs 0 = 2 → bs.length ≠ 8 →
      counts fun c => { c with rxBadHold := up c.rxBadHold }) ∧
    (passes → sound → byteAt bs 0 = 2 → bs.length = 8 → x.link ≠ .up →
      counts fun c => { c with rxNotUp := up c.rxNotUp }) ∧
    (passes → sound → byteAt bs 0 = 2 → bs.length = 8 → x.link = .up →
      x.neighbour.map (·.station) ≠ some (byteAt bs 1) →
      counts fun c => { c with rxBadHold := up c.rxBadHold }) ∧
    (passes → sound → byteAt bs 0 ≠ 1 → byteAt bs 0 ≠ 2 → x.link ≠ .up →
      counts fun c => { c with rxNotUp := up c.rxNotUp }) ∧
    (sound → s.unconfigured = false → x.link = .up → byteAt bs 0 ≠ 1 → byteAt bs 0 ≠ 2 →
      (ringKindOf (byteAt bs 0) = none →
        (wordAt16 bs 12 ≠ bs.length → delivery fun c => { c with rxLength := up c.rxLength }) ∧
        (wordAt16 bs 12 = bs.length → delivery fun c => { c with rxKind := up c.rxKind })) ∧
      (∀ k, ringKindOf (byteAt bs 0) = some k →
        (byteAt bs 2 ≠ k.lane → counts fun c => { c with rxBadLane := up c.rxBadLane }) ∧
        (byteAt bs 2 = k.lane → (k = .air ∧ x.lane1 = .closed) ∨ (k = .keep ∧ x.lane2 = .closed) →
          counts fun c => { c with rxLaneClosed := up c.rxLaneClosed }) ∧
        (byteAt bs 2 = k.lane → (k = .air → x.lane1 ≠ .closed) → (k = .keep → x.lane2 ≠ .closed) →
          (wordAt16 bs 12 ≠ bs.length ∨ lengthAllowed s.rate k bs = false →
            delivery fun c => { c with rxLength := up c.rxLength }) ∧
          (wordAt16 bs 12 = bs.length → lengthAllowed s.rate k bs = true →
            byteAt bs 1 = 0 ∨ 16 < byteAt bs 1 →
            delivery fun c => { c with rxOrigin := up c.rxOrigin }))))

/-- HOLD (R79 to R85): a valid HOLD of the neighbour in UP holds lane 2 for its time, at most 10,000 µs, and
replaces the time that remained; HOLD(0) and HOLD_TIMER_EXPIRY release it; HOLD_REFRESH_TIMER restarts
for half the HOLD time and offers HOLD(t) on the opposite port. The model's choices: an expiry acts whenever
it is presented and moves local time to the later of itself and its due time (log 2), a refresh expiry in a port
that is not congested changes nothing (log 3), and the hold's events end with the tests of log 12. -/
def Obligations.HoldObeyedAndRefreshed : Prop :=
  ∀ (s : State) (p : PortId),
    let x := s.port p
    (∀ bs, s.unconfigured = false → x.link = .up → bs.length = 8 → crcGood bs = true →
      byteAt bs 0 = 2 → x.neighbour.map (·.station) = some (byteAt bs 1) →
      (wordAt16 bs 2 ≠ 0 → exec (.rxFrameComplete p bs) s = .next (settle { s with
        lku := s.lku.setPort p { x with
          heldUntil := some (s.now + 1000 * min 10000 (wordAt16 bs 2))
          counts := { x.counts with holdTaken := up x.counts.holdTaken } } })) ∧
      (wordAt16 bs 2 = 0 → ∃ t, exec (.rxFrameComplete p bs) s = .next t ∧
        (t.port p).heldUntil = none ∧
        (t.port p).counts.releaseTaken = up x.counts.releaseTaken)) ∧
    (x.heldUntil = none → exec (.holdTimerExpiry p) s = .next (settle s)) ∧
    (∀ d, x.heldUntil = some d → ∃ t, exec (.holdTimerExpiry p) s = .next t ∧
      t.now = max s.now d ∧ (t.port p).heldUntil = none ∧
      (t.port p).counts.holdExpired = up x.counts.holdExpired ∧
      (x.tx = none → x.linkQueue = [] → x.queue0 = [] → x.queue1 = [] →
        ∀ f rest, x.queue2 = f :: rest → (t.port p).tx = some (.ring 2 f))) ∧
    (x.refreshAt = none → exec (.holdRefreshTimer p) s = .next s) ∧
    (∀ d, x.refreshAt = some d → ∃ t, exec (.holdRefreshTimer p) s = .next t ∧
      t = { s with now := max s.now d, lku := t.lku } ∧
      t.port p = { x with refreshAt := some (max s.now d + 1000 * (s.holdTime / 2)) } ∧
      s.HoldOffered s.holdTime (s.port (other p)) (t.port (other p)))

/-- Congestion (R80, R82). A frame that joins lane 2 behind a frame in transmission makes the port congested
when the fill reaches the KEEP high mark: its refresh timer starts for half the HOLD time, CONGESTED is counted,
and HOLD(t) is offered on the other port; below the mark, or in a congested port, it only joins. The port
ceases to be congested when the fill falls below the KEEP low mark, as a frame starts or as lane 2 leaves OPEN,
and when it leaves UP: the timer stops and HOLD(0) is offered on the other port. The events end with the
tests of log 12. -/
def Obligations.CongestionStartsAndEnds : Prop :=
  ∀ (s : State) (p : PortId),
    let x := s.port p
    let y := s.port (other p)
    (∀ f, x.offer 2 = .queued → x.tx ≠ none →
      let t := offerFrame p 2 f s
      let joined := { x with queue2 := x.queue2 ++ [f] }
      t = { s with lku := t.lku } ∧ t.lku.helloAt = s.lku.helloAt ∧
      t.lku.enabled = s.lku.enabled ∧ t.lku.digest = s.lku.digest ∧
      (x.refreshAt.isSome = true ∨ x.queue2.length + 1 < s.highMark →
        t.port p = joined ∧ t.port (other p) = y) ∧
      (x.refreshAt = none → s.highMark ≤ x.queue2.length + 1 →
        t.port p = { joined with
          refreshAt := some (s.now + 1000 * (s.holdTime / 2))
          counts := { x.counts with congested := up x.counts.congested } } ∧
        s.HoldOffered s.holdTime y (t.port (other p)))) ∧
    (∀ g f rest, x.tx = some g → x.linkQueue = [] → x.queue0 = [] → x.queue1 = [] →
      x.heldUntil = none → x.queue2 = f :: rest →
      ∃ u, exec (.txComplete p) s = .next (settle u) ∧
        (u.port p).tx = some (.ring 2 f) ∧ (u.port p).queue2 = rest ∧
        (x.refreshAt = none ∨ s.lowMark ≤ rest.length →
          (u.port p).refreshAt = x.refreshAt ∧ u.port (other p) = y) ∧
        (x.refreshAt.isSome = true → rest.length < s.lowMark →
          (u.port p).refreshAt = none ∧ s.HoldOffered 0 y (u.port (other p)))) ∧
    (∀ l1 l2, x.lane2 = .opened → l2 ≠ .opened → 0 < s.lowMark →
      let t := moveLanes p l1 l2 s
      (t.port p).queue2 = [] ∧ (t.port p).refreshAt = none ∧
      (x.refreshAt = none → t.port (other p) = y) ∧
      (x.refreshAt.isSome = true → s.HoldOffered 0 y (t.port (other p)))) ∧
    (x.link = .up → ∃ u, exec (.carrierLoss p) s = .next (settle u) ∧
      (u.port p).refreshAt = none ∧
      (x.refreshAt = none → u.port (other p) = y) ∧
      (x.refreshAt.isSome = true → s.HoldOffered 0 y (u.port (other p))))

/-- TX_COMPLETE (R63 to R65, R83): the frame sent leaves the transmitter, a HOLD counted, and the head of
the first eligible queue starts: link-local, lane 0, lane 1, then lane 2 unless it is held. As a lane 1
frame starts, the stale frames that reach the head behind it are removed and counted. An AIR frame is stale when
its index is less than the current index minus 8, and none is without a current index (R65). One that joins an
empty lane 1 queue is checked as it joins: a stale one is removed and counted, another stays, and is sent at once
where nothing goes before it; one that joins behind another is not checked yet. The model's choices: with
no frame in transmission nothing is sent (log 3), the event ends with the tests of log 12, and a frame is stale
against the current index of log 15. -/
def Obligations.TransmissionOrder : Prop :=
  (∀ (s : State) (h : RingHeader) (a : AirBody) (f : Bytes),
    let current : Option Index := match s.tlu.curIndex, s.tlu.houseCount, s.tlu.epoch with
      | some n, _, _ => some n
      | none, some count, some e => some (count - e.base)
      | none, _, _ => none
    airIndex (ringBytes .air h (airBytes a)) = a.index ∧
    (current = none → s.staleFrame f = false) ∧
    (∀ n, current = some n → (s.staleFrame f = true ↔ (airIndex f).toInt < n.toInt - 8))) ∧
  (∀ (s : State) (p : PortId) (f : Bytes),
    let x := s.port p
    let port := fun y : Port => offerFrame p 1 f s = { s with lku := s.lku.setPort p y }
    let dropped := { x with counts := { x.counts with airStale := up x.counts.airStale } }
    x.link = .up → x.lane1 = .opened →
      (x.queue1 = [] → s.staleFrame f = true →
        (x.tx ≠ none ∨ (x.linkQueue = [] ∧ x.queue0 = [] ∧ x.queue2 = []) → port dropped)) ∧
      (x.queue1 = [] → s.staleFrame f = false →
        (x.tx ≠ none → port { x with queue1 := [f] }) ∧
        (x.tx = none → x.linkQueue = [] → x.queue0 = [] → port { x with tx := some (.ring 1 f) })) ∧
      (x.queue1 ≠ [] → x.queue1.length < 64 → x.tx ≠ none →
        port { x with queue1 := x.queue1 ++ [f] })) ∧
  ∀ (s : State) (p : PortId),
    let x := s.port p
    (x.tx = none → exec (.txComplete p) s = .next (settle s)) ∧
    (∀ f, x.tx = some f → ∃ t, exec (.txComplete p) s = .next t ∧
      let y := t.port p
      (∀ n b, f = .hold n b →
        y.counts.holdSent = upIf (n != 0) x.counts.holdSent ∧
        y.counts.releaseSent = upIf (n == 0) x.counts.releaseSent) ∧
      (∀ rest, x.linkQueue = .hello :: rest →
        y.tx = some (.hello (helloBytes s p)) ∧ y.queue0 = x.queue0 ∧ y.queue1 = x.queue1) ∧
      (∀ rest sender n, x.linkQueue = .hold sender n :: rest →
        y.tx = some (.hold n (holdBytes sender n)) ∧ y.queue0 = x.queue0 ∧ y.queue1 = x.queue1) ∧
      (x.linkQueue = [] → ∀ g rest, x.queue0 = g :: rest →
        y.tx = some (.ring 0 g) ∧ y.queue0 = rest ∧ y.queue1 = x.queue1) ∧
      (x.linkQueue = [] → x.queue0 = [] → ∀ g rest, x.queue1 = g :: rest →
        y.tx = some (.ring 1 g) ∧ y.queue0 = [] ∧ y.queue1 = rest.dropWhile s.staleFrame ∧
        y.counts.airStale =
          upBy x.counts.airStale (rest.length - (rest.dropWhile s.staleFrame).length)) ∧
      (x.linkQueue = [] → x.queue0 = [] → x.queue1 = [] → x.heldUntil = none →
        ∀ g rest, x.queue2 = g :: rest → y.tx = some (.ring 2 g)) ∧
      (x.linkQueue = [] → x.queue0 = [] → x.queue1 = [] → x.heldUntil.isSome = true →
        y.tx = none) ∧
      (s.performing = false → x.linkQueue = [] → x.queue0 = [] → x.queue1 = [] → x.queue2 = [] →
        y.tx = none))

/-! ### The Delivery Unit (R70 to R77) -/

/-- How the window advances to a sequence newer than the top (R72). A sequence is marked when it lies within
the window of 64 below the top and its bit is set. With d the frame's sequence minus top: the top
becomes the frame's sequence, which is marked; the d − 1 sequences between the old top and the new one
are unseen; one marked before stays marked while it lies within the new window, and the sequences that
leave the window are forgotten, so that a frame with one of them is stale; with d of 64 or more the
new top alone is marked. -/
def Obligations.WindowAdvances : Prop :=
  ∀ (e : FilterEntry) (n : Word), newer n e.top = true →
    let marked := fun (f : FilterEntry) (x : Word) =>
      (f.top - x).toNat < 64 ∧ f.seen.getLsbD (f.top - x).toNat = true
    let d := (n - e.top).toNat
    1 ≤ d ∧ d ≤ 2 ^ 31 - 1 ∧
    ∃ f, filterSequence e n = .accepted f ∧ f.incarnation = e.incarnation ∧ f.top = n ∧
      marked f n ∧
      (∀ x, marked e x → (n - x).toNat < 64 → marked f x) ∧
      (∀ x, marked f x → x = n ∨ marked e x) ∧
      (∀ x, 64 ≤ (n - x).toNat → ¬ marked f x) ∧
      (∀ x, 1 ≤ (x - e.top).toNat → (x - e.top).toNat < d → ¬ marked f x) ∧
      (64 ≤ d → ∀ x, marked f x → x = n) ∧
      (∀ x, newer n x = true → 64 ≤ (n - x).toNat → filterSequence f x = .stale)

/-- A frame of another origin that passes the arrival checks (R61, R71, R75, R76): a first copy fills the filter
entry, is offered unchanged on the opposite port and counted by the outcome, and is delivered; a
duplicate or a stale frame is counted and nothing else happens but the tests at the end of the event. The
decisions are those of Table 5-3, row by row: a sequence newer than the top advances the window by R72
(`WindowAdvances`) and is accepted; and a frame accepted is a duplicate when it comes again. The outcome of an
offer (Tables 4-7 and 4-8): lane 0 passes frames in a port that is UP, lanes 1 and 2 where the lane is also OPEN,
and elsewhere nothing is queued or counted at the port; a queue of 32, 64 or 128 frames is full, and QFULL of the
lane is counted; otherwise the frame joins, to be sent at once where nothing else waits, and a KEEP frame waits
in a held lane. A relay counts RELAYED, RELAY_FULL or RELAY_NONE by the outcome (Table 5-5). What follows a join
behind a frame in transmission stands for lane 1 in `TransmissionOrder`, for lane 2 in `CongestionStartsAndEnds`.
That each of the four
ends with those tests, of the drain, the finished report and DONE, is the model's choice (log 12). -/
def Obligations.FirstCopyRelayedAndDelivered : Prop :=
  (∀ (e : FilterEntry) (h : RingHeader),
    let fresh : FilterEntry := { incarnation := h.incarnation, top := h.sequence, seen := 1 }
    let back := (e.top - h.sequence).toNat
    filterFrame none h = .accepted fresh ∧
    (newer h.incarnation e.incarnation = true → filterFrame (some e) h = .newIncarnation fresh) ∧
    (newer h.incarnation e.incarnation = false → h.incarnation ≠ e.incarnation →
      filterFrame (some e) h = .stale) ∧
    (h.incarnation = e.incarnation → filterFrame (some e) h = filterSequence e h.sequence) ∧
    (h.incarnation = e.incarnation → newer h.sequence e.top = true →
      let d := (h.sequence - e.top).toNat
      ∃ f, filterFrame (some e) h = .accepted f ∧ f.top = h.sequence ∧ f.incarnation = e.incarnation ∧
        ∀ i, i < 64 → f.seen.getLsbD i = (i == 0 || (decide (d ≤ i) && e.seen.getLsbD (i - d)))) ∧
    (h.incarnation = e.incarnation → newer h.sequence e.top = false →
      (back < 64 → e.seen.getLsbD back = true → filterFrame (some e) h = .duplicate) ∧
      (back < 64 → e.seen.getLsbD back = false →
        ∃ f, filterFrame (some e) h = .accepted f ∧ f.top = e.top ∧ f.incarnation = e.incarnation ∧
          ∀ i, i < 64 → f.seen.getLsbD i = (e.seen.getLsbD i || i == back)) ∧
      (64 ≤ back → filterFrame (some e) h = .stale)) ∧
    (∀ (o : Option FilterEntry) (f : FilterEntry),
      filterFrame o h = .accepted f ∨ filterFrame o h = .newIncarnation f →
      filterFrame (some f) h = .duplicate)) ∧
  (∀ (s : State) (p : PortId) (f : Bytes),
    let x := s.port p
    let c := x.counts
    let answers := fun (lane : Nat) (passes : Prop) (queue : List Bytes) (room : Nat)
        (full : PortCounts) =>
      (x.offer lane = .queued ↔ passes ∧ queue.length < room) ∧
      (x.offer lane = .full ↔ passes ∧ room ≤ queue.length) ∧
      (x.offer lane = .notOpen ↔ ¬ passes) ∧
      (passes → room ≤ queue.length → offerFrame p lane f s =
        { s with lku := s.lku.setPort p { x with counts := full } }) ∧
      (¬ passes → offerFrame p lane f s = s)
    answers 0 (x.link = .up) x.queue0 32 { c with qfullL0 := up c.qfullL0 } ∧
    answers 1 (x.link = .up ∧ x.lane1 = .opened) x.queue1 64 { c with qfullL1 := up c.qfullL1 } ∧
    answers 2 (x.link = .up ∧ x.lane2 = .opened) x.queue2 128 { c with qfullL2 := up c.qfullL2 } ∧
    (x.link = .up → x.queue0.length < 32 → x.tx ≠ none → offerFrame p 0 f s =
      { s with lku := s.lku.setPort p { x with queue0 := x.queue0 ++ [f] } }) ∧
    (x.tx = none → x.linkQueue = [] → x.queue0 = [] →
      (x.link = .up → offerFrame p 0 f s =
        { s with lku := s.lku.setPort p { x with tx := some (.ring 0 f) } }) ∧
      (x.link = .up → x.lane2 = .opened → x.queue1 = [] → x.queue2 = [] → x.refreshAt = none →
        2 ≤ s.highMark → offerFrame p 2 f s = { s with lku := s.lku.setPort p (
          if x.heldUntil.isSome = true then { x with queue2 := [f] }
          else { x with tx := some (.ring 2 f) }) }))) ∧
  ([RingKind.start, .endFrame, .cue, .beacon, .air, .keep].map RingKind.lane = [0, 0, 0, 0, 1, 2] ∧
    ∀ c : DluCounts, Offer.queued.countRelay c = { c with relayed := up c.relayed } ∧
      Offer.full.countRelay c = { c with relayFull := up c.relayFull } ∧
      Offer.notOpen.countRelay c = { c with relayNone := up c.relayNone }) ∧
  ∀ (s : State) (p : PortId) (k : RingKind) (bs : Bytes), s.unconfigured = false →
    bs.length ≤ 3072 → crcGood bs = true → (s.port p).link = .up →
    ringKindOf (byteAt bs 0) = some k → byteAt bs 2 = k.lane →
    (k = .air → (s.port p).lane1 ≠ .closed) → (k = .keep → (s.port p).lane2 ≠ .closed) →
    wordAt16 bs 12 = bs.length → lengthAllowed s.rate k bs = true →
    1 ≤ byteAt bs 1 → byteAt bs 1 ≤ 16 → byteAt bs 1 ≠ s.ownId →
    let entry := atStation s.dlu.filter (byteAt bs 1)
    let answer := (s.port (other p)).offer k.lane
    let relayed := fun (e : FilterEntry) (f : DluCounts → DluCounts) =>
      offerFrame (other p) k.lane bs { s with dlu := { s.dlu with
        filter := setStation s.dlu.filter (byteAt bs 1) (some e)
        counts := answer.countRelay (f s.dlu.counts) } }
    (∀ e, filterFrame entry (ringHeader bs) = .accepted e →
      exec (.rxFrameComplete p bs) s = .next (settle (deliver k false bs (relayed e id)))) ∧
    (∀ e, filterFrame entry (ringHeader bs) = .newIncarnation e →
      exec (.rxFrameComplete p bs) s = .next (settle (deliver k false bs
        (relayed e fun c => { c with filterNewInc := up c.filterNewInc })))) ∧
    (filterFrame entry (ringHeader bs) = .duplicate → exec (.rxFrameComplete p bs) s =
      .next (settle { s with dlu := { s.dlu with
        counts := { s.dlu.counts with filterDup := up s.dlu.counts.filterDup } } })) ∧
    (filterFrame entry (ringHeader bs) = .stale → exec (.rxFrameComplete p bs) s =
      .next (settle { s with dlu := { s.dlu with
        counts := { s.dlu.counts with filterStale := up s.dlu.counts.filterStale } } }))

/-- A frame of the own origin that passes the arrival checks (R73, R74, Table 5-4): the station's own
frame come full circle, or a stale one, is counted. Any other shows a duplicate id: the first sets
MUTED with its cause, raises DUPID with that cause, counted, and presents the DUPID cut trigger (R141), which is
ignored with its field off, cuts a CLEAR station and raises CUT, and at a CUT one is counted and leaves the cut
cause; a later one is only counted. The model's choices: the cut trigger's cause is the muting cause (log 61), and
the event ends with the tests of the drain, the finished report and DONE (log 12). -/
def Obligations.OwnOriginJudged : Prop :=
  ∀ (s : State) (p : PortId) (k : RingKind) (bs : Bytes), s.unconfigured = false →
    bs.length ≤ 3072 → crcGood bs = true → (s.port p).link = .up →
    ringKindOf (byteAt bs 0) = some k → byteAt bs 2 = k.lane →
    (k = .air → (s.port p).lane1 ≠ .closed) → (k = .keep → (s.port p).lane2 ≠ .closed) →
    wordAt16 bs 12 = bs.length → lengthAllowed s.rate k bs = true →
    1 ≤ byteAt bs 1 → byteAt bs 1 ≤ 16 → byteAt bs 1 = s.ownId →
    let inc := wordAt32 bs 4
    let n := wordAt32 bs 8
    let counts := fun c : DluCounts =>
      exec (.rxFrameComplete p bs) s = .next (settle { s with dlu := { s.dlu with counts := c } })
    let c := s.dlu.counts
    (s.tlu.incarnation = some inc → newer s.dlu.nextSeq n = true →
      counts { c with ownReturn := up c.ownReturn }) ∧
    (∀ own, s.tlu.incarnation = some own → inc ≠ own → newer inc own = false →
      counts { c with ownStale := up c.ownStale }) ∧
    (s.tlu.incarnation = none ∨ (s.tlu.incarnation = some inc ∧ newer s.dlu.nextSeq n = false) ∨
        (∃ own, s.tlu.incarnation = some own ∧ newer inc own = true) →
      (s.dlu.muted.isSome = true → counts { c with dupidFrame := up c.dupidFrame }) ∧
      (s.dlu.muted = none → ∃ t, exec (.rxFrameComplete p bs) s = .next t ∧
        t.dlu = { s.dlu with
          muted := some { port := p, incarnation := inc, sequence := n }
          counts := { c with dupidFrame := up c.dupidFrame } } ∧
        State.Raised .dupid (.dupidFrame p inc n) s t ∧
        State.Triggered (·.cutDup) (.dupid p inc n) s t))

/-- MUTED lasts until a reset (R74, R77): every other command leaves the muting cause as it is, and while
it is held no command issues a ring sequence; ARM alone sets the next one back to 0. -/
def Obligations.MutedLasts : Prop :=
  ∀ (c : Instr) (s t : State), s.dlu.muted.isSome = true → c ≠ .powerOnReset → c ≠ .consoleReset →
    exec c s = .next t →
    t.dlu.muted = s.dlu.muted ∧ (c ≠ .arm → c ≠ .commandLineTaken → c ≠ .breakTaken →
      t.dlu.nextSeq = s.dlu.nextSeq) ∧ (t.dlu.nextSeq = s.dlu.nextSeq ∨ t.dlu.nextSeq = 0)

/-! ### Cues and peers (chapter 7) -/

/-- BEACON_TIMER (R118): the timer restarts for 50 ms, and a BEACON with its fields filled now takes the
next ring sequence and is offered to lane 0 of both ports; while MUTED none is requested. The fields
(R119, Table 7-4) are the station state, the roles, the epoch base in RUNNING and ENDING alone, the current
index while an epoch is adopted and the station is not DONE, the grade, the cut flag of an AIR outlet, the
reference flag, the muted-peer flag, every item of the cue table with its pair, and the kept list of a KEEP
outlet: the last sent position of each place of the take table. PEER_LOSS_TIMER
(R105, R123, R124): the peer's place empties, its LEARNED entries go, counted, the loss of a KEEP outlet is a
kept-position update of the spool, and PEER is raised. The model's choices: an expiry acts whenever it is
presented and moves local time to the later of itself and its due time (log 2), one with nothing to expire does
nothing (log 3), and the loss ends with the tests of log 12. -/
def Obligations.BeaconAndPeerTimers : Prop :=
  (∀ (s : State) (c : Configuration) (items : List CueItem), s.csu.config = some c →
    s.pcu.cues = some items → items.length = 17 →
    let b := s.beaconBody
    (s.tlu.station = .armed → b.stateCode = 3) ∧ (s.tlu.station = .running → b.stateCode = 4) ∧
    (s.tlu.station = .ending → b.stateCode = 5) ∧ (s.tlu.station = .done → b.stateCode = 6) ∧
    b.airRole = c.airRole ∧ b.keepRole = c.keepRole ∧
    (s.tlu.station = .running ∨ s.tlu.station = .ending → b.base = s.tlu.epoch.map (·.base)) ∧
    (s.tlu.station = .armed ∨ s.tlu.station = .done → b.base = none) ∧
    (s.tlu.station ≠ .done → s.tlu.epoch.isSome = true → b.index = s.tlu.curIndex) ∧
    (s.tlu.station = .done ∨ s.tlu.epoch = none → b.index = none) ∧
    b.grade = s.sgc.grade ∧
    (b.cut = true ↔ c.airRole = true ∧ s.aou.cut.isSome = true) ∧
    (b.refFlag = true ↔ s.tlu.ref ≠ .locked ∨ s.tlu.voidRun = true) ∧
    (b.mutedPeer = true ↔ ∃ p, (s.port p).link = .barred ∧ (s.port p).cause.dupid = true) ∧
    b.items.length = 17 ∧
    (∀ (i : Nat) (x : CueItem), items[i]? = some x → b.items[i]? = some
        { code := cueCode i x.value, origin := x.origin, number := x.number }) ∧
    (∀ i, i < 16 → [CueValue.dark, .primed, .on].map (cueCode i) = [0, 1, 2]) ∧
    [CueValue.off, .on].map (cueCode 16) = [0, 1] ∧
    b.keptPresent = c.keepRole ∧ b.keptCount = b.kept.length ∧
    (c.keepRole = false → b.kept = []) ∧
    (c.keepRole = true →
      (∀ k, k ∈ b.kept ↔ ∃ e, atStation s.kou.take k.origin = some e ∧
        k = { origin := k.origin, incarnation := e.incarnation, kept := e.lastSent }) ∧
      (b.kept.map (·.origin)).Pairwise (· < ·))) ∧
  ∀ s : State,
    (s.pcu.beaconAt = none → exec .beaconTimer s = .next s) ∧
    (∀ d, s.pcu.beaconAt = some d →
      let restarted := { s.pcu with beaconAt := some (max s.now d + 50000000) }
      (s.dlu.muted.isSome = true →
        exec .beaconTimer s = .next { s with now := max s.now d, pcu := restarted }) ∧
      (s.dlu.muted = none → ∃ t, exec .beaconTimer s = .next t ∧
        t = { s with
          now := max s.now d
          pcu := restarted
          lku := t.lku
          dlu := { s.dlu with nextSeq := s.dlu.nextSeq + 1, counts := t.dlu.counts } } ∧
        t.dlu.counts.originated = up s.dlu.counts.originated ∧
        t.dlu.counts.deliveredBeacon = up s.dlu.counts.deliveredBeacon ∧
        let frame := ringBytes .beacon
          { origin := s.ownId, incarnation := s.tlu.incarnation.getD 0, sequence := s.dlu.nextSeq }
          (beaconBytes s.beaconBody)
        (∀ p, ((s.port p).link ≠ .up → t.port p = s.port p) ∧
          ((s.port p).link = .up → (s.port p).queue0.length < 32 → (s.port p).tx ≠ none →
            t.port p = { s.port p with queue0 := (s.port p).queue0 ++ [frame] }) ∧
          ((s.port p).link = .up → (s.port p).linkQueue = [] → (s.port p).queue0 = [] →
            (s.port p).tx = none → t.port p = { s.port p with tx := some (.ring 0 frame) })) ∧
        (t.dlu.counts.origUnsent = upIf
          (((s.port .a).link != .up || decide (32 ≤ (s.port .a).queue0.length)) &&
            ((s.port .b).link != .up || decide (32 ≤ (s.port .b).queue0.length)))
          s.dlu.counts.origUnsent))) ∧
    (∀ st, atStation s.pcu.peers st = none → exec (.peerLossTimer st) s = .next (settle s)) ∧
    (∀ st peer, atStation s.pcu.peers st = some peer →
      let lost := { s with
        now := max s.now (peer.lastBeacon + 200000000)
        pcu := { s.pcu with peers := setStation s.pcu.peers st none } }
      let u := { lost with
        pcu := { lost.pcu with counts := { s.pcu.counts with peerLost := up s.pcu.counts.peerLost } }
        rst := {
          entries := s.rst.entries.filter fun e => !e.claim.learnedFrom st
          counts := { s.rst.counts with
            rosterFlushed := upBy s.rst.counts.rosterFlushed (learnedCount st s.rst.entries) } }
        ksp := if peer.keepRole then (recomputeFree lost).ksp else s.ksp
        csu := s.csu.raise .peer (.peerLost st) }
      exec (.peerLossTimer st) s = .next (settle u))

/-- A BEACON of another origin (R12, R13, R120 to R122, R124), as delivered; one of this station is counted as
delivered and not taken. A bad one is counted and changes nothing. A valid one is taken in the steps of R120:
the peer table (Table 7-6), the merge of its cue items, its epoch base, and the kept-position update where one
is due; then it is counted. The later parts say when it is valid, what the peer table takes, that the merge
goes item by item through the apply rule, and what a base comes to (Table 1-7): adopted in ARMED, or a
conflict, which is counted, raises EPOCH and presents the cut trigger once for a station and incarnation. The
model's choices: a BEACON of an older incarnation than the peer's leaves the entry (log 28), one of an older
incarnation than recorded leaves the conflict record (log 27), and the cause of the attention and of the cut
trigger is the other base with its station (log 61). -/
def Obligations.BeaconTaken : Prop :=
  (∀ (s : State) (frame : Bytes),
    let delivered := { s with dlu := { s.dlu with
      counts := { s.dlu.counts with deliveredBeacon := up s.dlu.counts.deliveredBeacon } } }
    deliver .beacon true frame s = delivered ∧
    deliver .beacon false frame s =
      beaconTaken (ringHeader frame) (parseBeacon frame) delivered) ∧
  (∀ (s : State) (h : RingHeader) (b : BeaconBody),
    (b.valid = none → beaconTaken h b s = { s with pcu := { s.pcu with
      counts := { s.pcu.counts with beaconBad := up s.pcu.counts.beaconBad } } }) ∧
    (∀ st, b.valid = some st →
      let p := b.peer st h.incarnation s.now
      let place := atStation s.pcu.peers h.origin
      let merged := mergeItems 0 b.items (peerTaken h.origin p s)
      let judged := match b.base with
        | none => merged
        | some base => beaconEpoch base st h.origin h.incarnation merged
      let told := match place with
        | none => p.keepRole
        | some q => (p.incarnation == q.incarnation && p.keepRole) ||
            (newer p.incarnation q.incarnation && (p.keepRole || q.keepRole))
      let u := if told then recomputeFree judged else judged
      beaconTaken h b s = { u with pcu := { u.pcu with
        counts := { u.pcu.counts with beaconTaken := up u.pcu.counts.beaconTaken } } })) ∧
  (∀ (b : BeaconBody) (st : StationState),
    b.valid = some st ↔
      ((b.stateCode = 3 ∧ st = .armed) ∨ (b.stateCode = 4 ∧ st = .running) ∨
        (b.stateCode = 5 ∧ st = .ending) ∨ (b.stateCode = 6 ∧ st = .done)) ∧
      (b.base.isSome = true ↔ st = .running ∨ st = .ending) ∧
      (∀ (i : Nat) (x : BeaconItem), b.items[i]? = some x →
        (cueOfCode i x.code).isSome = true ∧ x.origin ≤ 16 ∧ (x.origin = 0 → x.number = 0)) ∧
      (b.keptPresent = b.keepRole) ∧ b.keptCount ≤ 16 ∧
      (∀ e ∈ b.kept, 1 ≤ e.origin ∧ e.origin ≤ 16) ∧
      (b.keptPresent = false → b.keptCount = 0)) ∧
  (∀ (s : State) (st : Nat) (p : Peer),
    let filled := setStation s.pcu.peers st (some p)
    (atStation s.pcu.peers st = none → peerTaken st p s = { s with
      pcu := { s.pcu with
        peers := filled, counts := { s.pcu.counts with peerNew := up s.pcu.counts.peerNew } }
      csu := s.csu.raise .peer (.peerNew st) }) ∧
    (∀ e, atStation s.pcu.peers st = some e →
      (p.incarnation = e.incarnation →
        peerTaken st p s = { s with pcu := { s.pcu with peers := filled } }) ∧
      (newer p.incarnation e.incarnation = true → peerTaken st p s = { s with
        pcu := { s.pcu with
          peers := filled
          counts := { s.pcu.counts with peerRenewed := up s.pcu.counts.peerRenewed } }
        rst := {
          entries := s.rst.entries.filter fun x => !x.claim.learnedFrom st
          counts := { s.rst.counts with
            rosterFlushed := upBy s.rst.counts.rosterFlushed (learnedCount st s.rst.entries) } }
        csu := s.csu.raise .peer (.peerRenewed st e.incarnation p.incarnation) }) ∧
      (p.incarnation ≠ e.incarnation → newer p.incarnation e.incarnation = false →
        peerTaken st p s = s))) ∧
  (∀ (s : State) (i : Nat) (x : BeaconItem) (rest : List BeaconItem) (v : CueValue),
    cueOfCode i x.code = some v →
    let c : Cue := { item := i, value := v, number := x.number, origin := x.origin }
    mergeItems i [] s = s ∧
    mergeItems i (x :: rest) s = mergeItems (i + 1) rest (applyCue c { s with pcu := { s.pcu with
      counts := { s.pcu.counts with
        mergeApplied := upIf (s.pcu.applies c) s.pcu.counts.mergeApplied } } })) ∧
  ∀ (s : State) (base inc : Word) (st : StationState) (id : Nat),
    let t := beaconEpoch base st id inc s
    (s.tlu.station = .armed → s.tlu.epoch = none →
      (st = .running → s.tlu.droppedBase ≠ some base → t = { s with tlu := { s.tlu with
        epoch := some { base := base, source := id }, curIndex := none } }) ∧
      (st ≠ .running ∨ s.tlu.droppedBase = some base → t = s)) ∧
    (∀ e, s.tlu.epoch = some e →
      s.tlu.station = .armed ∨ s.tlu.station = .running ∨ s.tlu.station = .ending →
      let pair := s.tlu.conflicts.find? fun c => c.station == id
      (base = e.base → t = s) ∧
      (base ≠ e.base → pair.map (·.incarnation) = some inc → t = s) ∧
      (base ≠ e.base → pair.map (·.incarnation) ≠ some inc →
        t.tlu = { s.tlu with
          conflicts := t.tlu.conflicts
          counts := { s.tlu.counts with epochConflict := up s.tlu.counts.epochConflict } } ∧
        (∀ c, c.station ≠ id → (c ∈ t.tlu.conflicts ↔ c ∈ s.tlu.conflicts)) ∧
        ((∀ c, pair = some c → newer inc c.incarnation = true) →
          ∀ c ∈ t.tlu.conflicts, c.station = id → c.incarnation = inc) ∧
        ((∀ c, pair = some c → newer inc c.incarnation = true) →
          { station := id, incarnation := inc } ∈ t.tlu.conflicts) ∧
        ((∃ c, pair = some c ∧ newer inc c.incarnation = false) →
          t.tlu.conflicts = s.tlu.conflicts) ∧
        State.Raised .epoch (.epochConflict base id) s t ∧
        State.Triggered (·.cutEpoch) (.epoch base id) s t)) ∧
    (s.tlu.station = .unconfigured ∨ s.tlu.station = .configured ∨ s.tlu.station = .done → t = s)

/-- Cues (R76, R103, R104, R114, R115, R117, R121): a CUE frame, of this station or of another, is counted as
delivered and taken with the pair of its number and the origin of its header. One with a value of its item is
counted CUE_APPLIED or CUE_STALE and applied by its pair. A cue whose pair is greater than its item's sets the item's value
and pair; another leaves the table as it was; either advances the clock to a newer number. A CUE frame
whose value is none of its item's is counted CUE_BAD and changes nothing else. Two cues for one item
leave it the same in either order. A group set DARK loses its LEARNED and LOCAL entries, counted: an applied cue
of DARK reaches the roster so from ARMED onward, and a stale cue, a cue before ARM and one of the freeze item do
not reach it. The order of pairs (R113) is by number, then by origin; never is each of two pairs greater than the other,
and neither is only when they are equal or their numbers lie exactly 2^31 apart. -/
def Obligations.CuesApplied : Prop :=
  (∀ (n m : Word) (o p : Nat),
    (pairGreater n o m p = true ↔
      (1 ≤ (n - m).toNat ∧ (n - m).toNat ≤ 2 ^ 31 - 1) ∨ (n = m ∧ p < o)) ∧
    (pairGreater n o m p = false → pairGreater m p n o = false →
      (n = m ∧ o = p) ∨ (n - m).toNat = 2 ^ 31) ∧
    (pairGreater n o m p = true → pairGreater m p n o = false)) ∧
  (∀ (s : State) (c : Cue) (items : List CueItem) (x : CueItem), s.pcu.cues = some items →
    items[c.item]? = some x →
    (applyCue c s).pcu = { s.pcu with
      cues := some (if pairGreater c.number c.origin x.number x.origin then
          items.set c.item { value := c.value, number := c.number, origin := c.origin }
        else items)
      clock := if newer c.number s.pcu.clock then c.number else s.pcu.clock }) ∧
  (∀ (s : State) (own : Bool) (frame : Bytes), deliver .cue own frame s =
    cueTaken (ringHeader frame).origin (parseCue frame) { s with dlu := { s.dlu with
      counts := { s.dlu.counts with deliveredCue := up s.dlu.counts.deliveredCue } } }) ∧
  ((∀ i, i < 16 → [0, 1, 2, 3].map (cueOfCode i) = [some .dark, some .primed, some .on, none]) ∧
    [0, 1, 2].map (cueOfCode 16) = [some .off, some .on, none] ∧
    (∀ i n, 17 ≤ i → cueOfCode i n = none) ∧ ∀ i n, 3 ≤ n → cueOfCode i n = none) ∧
  (∀ (s : State) (o : Nat) (b : CueBody) (v : CueValue) (items : List CueItem) (x : CueItem),
    cueOfCode b.item b.code = some v → s.pcu.cues = some items → items[b.item]? = some x →
    let applied := pairGreater b.number o x.number x.origin
    cueTaken o b s = applyCue { item := b.item, value := v, number := b.number, origin := o }
      { s with pcu := { s.pcu with counts := { s.pcu.counts with
        cueApplied := upIf applied s.pcu.counts.cueApplied
        cueStale := upIf (!applied) s.pcu.counts.cueStale } } }) ∧
  (∀ (s : State) (c : Cue) (items : List CueItem) (x : CueItem), s.pcu.cues = some items →
    items[c.item]? = some x →
    let applied := pairGreater c.number c.origin x.number x.origin
    (applied = true → s.armedOnward = true → c.item < 16 → c.value = .dark →
      applyCue c s = { s with
        pcu := (applyCue c s).pcu, rst := (rosterCue c.item .dark s).rst }) ∧
    (applied = false ∨ s.armedOnward = false ∨ 16 ≤ c.item →
      applyCue c s = { s with pcu := (applyCue c s).pcu })) ∧
  (∀ (s : State) (o : Nat) (b : CueBody), cueOfCode b.item b.code = none →
    cueTaken o b s = { s with pcu := { s.pcu with
      counts := { s.pcu.counts with cueBad := up s.pcu.counts.cueBad } } }) ∧
  (∀ (s : State) (c d : Cue), c.item = d.item → (c.number, c.origin) ≠ (d.number, d.origin) →
    (c.number - d.number).toNat ≠ 2 ^ 31 →
    (∀ x, s.pcu.item c.item = some x → pairGreater c.number c.origin x.number x.origin = true ∧
      pairGreater d.number d.origin x.number x.origin = true) →
    (applyCue c (applyCue d s)).pcu.item c.item = (applyCue d (applyCue c s)).pcu.item c.item) ∧
  (∀ (s : State) (g : Nat), g < 16 → s.armedOnward = true →
    (rosterCue g .dark s).rst.entries = s.rst.entries.filter (fun e =>
      match e.claim with
      | .localTrack h => h != g
      | .learned _ h _ => h != g
      | .pin _ _ => true
      | .bar => true) ∧
    (rosterCue g .dark s).rst.counts = { s.rst.counts with
      rosterFlushed := upBy s.rst.counts.rosterFlushed
        (s.rst.entries.length - (rosterCue g .dark s).rst.entries.length) })

/-- A group cue of PRIMED or ON (R104, Table 6-4): the LOCAL entry of each patched channel of the group, in
ascending channel order, row by row; it takes the place of a LEARNED one, and PIN and BAR stay. From ARMED
onward an applied cue of the group reaches the roster so; the freeze item, and any cue before ARM, does not.
Where the roster has room, each track of the group's channels is then LOCAL unless it is static, and every
other track keeps its entry. That the station concerned in a FULL and a BARRED violation is this one is the
model's choice (log 29). -/
def Obligations.GroupCueMakesLocals : Prop :=
  (∀ (s : State) (e : PatchEntry),
    let made := { s.rst with
      entries := putEntry { track := e.track, claim := .localTrack e.group } s.rst.entries }
    let violates := fun (r : Rst) (v : Violation) (f : RstCounts → RstCounts) (station : Nat) =>
      makeLocal e s = { s with
        rst := { r with counts := f r.counts }
        csu := s.csu.raise .claim (.claim v e.track station) }
    let double := fun c : RstCounts => { c with claimDouble := up c.claimDouble }
    (findClaim e.track s.rst.entries = none →
      (s.rst.entries.length < 320 → makeLocal e s = { s with rst := made }) ∧
      (320 ≤ s.rst.entries.length →
        violates s.rst .full (fun c => { c with claimFull := up c.claimFull }) s.ownId)) ∧
    (∀ o g n, findClaim e.track s.rst.entries = some (.learned o g n) →
      violates made .doubleClaim double o) ∧
    (∀ g, findClaim e.track s.rst.entries = some (.localTrack g) → makeLocal e s = s) ∧
    (∀ o g, findClaim e.track s.rst.entries = some (.pin o g) →
      violates s.rst .doubleClaim double o) ∧
    (findClaim e.track s.rst.entries = some .bar →
      violates s.rst .barred (fun c => { c with claimBarred := up c.claimBarred }) s.ownId)) ∧
  ∀ (s : State) (g : Nat) (v : CueValue), v = .primed ∨ v = .on →
    let channels := s.patched.filter fun p => p.2.group == g
    (s.armedOnward = false ∨ 16 ≤ g → rosterCue g v s = s) ∧
    (s.armedOnward = true → g < 16 →
      rosterCue g v s = channels.foldl (fun u p => makeLocal p.2 u) s ∧
      (∀ c : Cue, c.item = g → c.value = v → s.pcu.applies c = true →
        (applyCue c s).rst = (rosterCue g v s).rst ∧ (applyCue c s).csu = (rosterCue g v s).csu) ∧
      (s.rst.entries.length + channels.length ≤ 320 → (channels.map fun p => p.2.track).Nodup →
        (∀ p ∈ channels, findClaim p.2.track (rosterCue g v s).rst.entries =
          match findClaim p.2.track s.rst.entries with
          | some (.pin o h) => some (.pin o h)
          | some .bar => some .bar
          | some (.localTrack h) => some (.localTrack h)
          | some (.learned _ _ _) => some (.localTrack g)
          | none => some (.localTrack g)) ∧
        ∀ track, (∀ p ∈ channels, p.2.track ≠ track) →
          findClaim track (rosterCue g v s).rst.entries = findClaim track s.rst.entries))

/-! ### The roster (chapter 6) -/

/-- An AIR frame of another origin that is delivered is counted and reaches the roster with the origin of its
header (R76, R93, Table 5-6), and does nothing there before ARM. From ARMED onward the roster judges it (R93 to
R100, Table 6-3): one of a group that is DARK is counted and goes no further; a violation is counted, raises CLAIM and leaves the
roster as it was; a frame that makes, refreshes or moves its LEARNED entry, or matches a PIN, is
accepted, and reaches the Air Outlet where the station has the role. That the cause of a CLAIM carries the
sending station is the model's choice (log 29). -/
def Obligations.RosterJudgesAir : Prop :=
  (∀ (s : State) (frame : Bytes), deliver .air false frame s =
    rosterAir (ringHeader frame).origin (parseAir frame) { s with dlu := { s.dlu with
      counts := { s.dlu.counts with deliveredAir := up s.dlu.counts.deliveredAir } } }) ∧
  (∀ (s : State) (o : Nat) (a : AirBody), s.armedOnward = false → rosterAir o a s = s) ∧
  ∀ (s : State) (o : Nat) (a : AirBody), s.armedOnward = true →
    let count := fun c : RstCounts => { s with rst := { s.rst with counts := c } }
    let violates := fun (v : Violation) (c : RstCounts) => rosterAir o a s =
      { count c with csu := s.csu.raise .claim (.claim v a.track o) }
    let full := s.claimLimit o ≤ learnedCount o s.rst.entries
    let c := s.rst.counts
    let accepts := fun r : Rst =>
      (rosterAir o a s).rst = r ∧
      (s.airRole = false → rosterAir o a s = { s with rst := r }) ∧
      (s.airRole = true → rosterAir o a s = takeArrival
        { track := a.track, origin := o, index := a.index, load := a.load } { s with rst := r })
    let learns := fun d : RstCounts => accepts {
      entries := putEntry { track := a.track, claim := .learned o a.group a.index } s.rst.entries
      counts := { d with airAccepted := up c.airAccepted } }
    ((s.cueValue a.group).onAir = false → rosterAir o a s = count { c with airDark := up c.airDark }) ∧
    ((s.cueValue a.group).onAir = true →
      (findClaim a.track s.rst.entries = none →
        (s.cueValue 16 = .on → violates .frozen { c with claimFrozen := up c.claimFrozen }) ∧
        (s.cueValue 16 ≠ .on → full → violates .limit { c with claimLimit := up c.claimLimit }) ∧
        (s.cueValue 16 ≠ .on → ¬ full → 320 ≤ s.rst.entries.length →
          violates .full { c with claimFull := up c.claimFull }) ∧
        (s.cueValue 16 ≠ .on → ¬ full → s.rst.entries.length < 320 →
          learns { c with rosterLearned := up c.rosterLearned })) ∧
      (∀ g n, findClaim a.track s.rst.entries = some (.learned o g n) → learns c) ∧
      (∀ q g n, findClaim a.track s.rst.entries = some (.learned q g n) → q ≠ o →
        (s.guardOn = true → violates .doubleClaim { c with claimDouble := up c.claimDouble }) ∧
        (s.guardOn = false → full → violates .limit { c with claimLimit := up c.claimLimit }) ∧
        (s.guardOn = false → ¬ full → learns { c with rosterMoved := up c.rosterMoved })) ∧
      (∀ g, findClaim a.track s.rst.entries = some (.localTrack g) →
        violates .doubleClaim { c with claimDouble := up c.claimDouble }) ∧
      (∀ g, findClaim a.track s.rst.entries = some (.pin o g) →
        accepts { s.rst with counts := { c with airAccepted := up c.airAccepted } }) ∧
      (∀ q g, findClaim a.track s.rst.entries = some (.pin q g) → q ≠ o →
        violates .doubleClaim { c with claimDouble := up c.claimDouble }) ∧
      (findClaim a.track s.rst.entries = some .bar →
        violates .barred { c with claimBarred := up c.claimBarred }))

/-- Aging (R102): at a boundary presented with an index, from ARMED onward, each LEARNED entry whose last
refresh lies more than the roster age behind it, as a signed difference, is removed and counted; no
other entry goes, and the count of each origin falls by the entries of it removed. Nothing ages at a boundary
without an index, before an epoch is adopted or void, nor at a mark that is no boundary, nor before ARM. -/
def Obligations.RosterAges : Prop :=
  ∀ (s : State) (count : Word) (spacing : Nat),
    let boundary := (s.tlu.ref = .locked ∨ (s.tlu.ref = .acquiring ∧ 3 ≤ s.tlu.run + 1)) ∧
      spacing = s.rate.samples ∧ s.tlu.lastMark.map (· + 1) = some count
    let void := fun n : Index => (s.tlu.station = .running ∨ s.tlu.station = .ending) ∧
      ∃ h, s.tlu.high = some h ∧ n.toInt ≤ h.toInt
    ∃ t, exec (.markTaken count spacing) s = .next t ∧
      (∀ (c : Configuration) (e : Epoch), s.csu.config = some c → s.armedOnward = true →
        s.tlu.epoch = some e → boundary →
        let n : Index := count - e.base
        ¬ void n →
        let stale := fun x : RosterEntry => match x.claim with
          | .learned _ _ last => decide ((c.age : Int) < (n - last).toInt)
          | .localTrack _ => false
          | .pin _ _ => false
          | .bar => false
        t.rst.entries = s.rst.entries.filter (fun x => !stale x) ∧
        t.rst.counts = { s.rst.counts with
          rosterAged := upBy s.rst.counts.rosterAged (s.rst.entries.filter stale).length } ∧
        ∀ st, learnedCount st t.rst.entries + learnedCount st (s.rst.entries.filter stale) =
          learnedCount st s.rst.entries) ∧
      (¬ boundary ∨ s.armedOnward = false ∨ (∀ e, s.tlu.epoch = some e → void (count - e.base)) →
        t.rst = s.rst)

/-! ### The Air Outlet (chapter 8) -/

/-- An AIR segment reaches the window (R131, R132, Table 8-3): what is not stored is counted alone; what is
stored fills the place of its track, and a slot whose every place is filled closes COMPLETE, and is emitted
when it is the oldest (R134). A slot emitted is resolved (R135, R136, Table 8-4): each expected track gives the
payload that arrived, else the last one within the conceal limit, else silence, and its miss run is cleared or
grows, to 255 at most, while the places of other tracks stay. That an arrival ends with a look for an emission
and for a start is fixed in log 12. -/
def Obligations.ArrivalsAndResolution : Prop :=
  (∀ (u : Aou) (a : Arrival),
    ((∀ m, u.openMark = some m → m.toInt < a.index.toInt) → u.classify a = .ahead) ∧
    (∀ m, u.openMark = some m → a.index.toInt ≤ m.toInt →
      (u.slotOf a.index = none → u.classify a = .late) ∧
      (∀ t, u.slotOf a.index = some t →
        ((∃ k, t.state = .closed k) → u.classify a = .late) ∧
        ((∃ d, t.state = .opened d) →
          ((∀ e ∈ t.expected, e.track ≠ a.track) → u.classify a = .unexpected) ∧
          (∀ e, t.expected.find? (fun e => e.track == a.track) = some e →
            (e.origin ≠ a.origin → u.classify a = .stray) ∧
            (e.origin = a.origin → e.arrived.isSome = true → u.classify a = .duplicate) ∧
            (e.origin = a.origin → e.arrived = none → u.classify a = .stored)))))) ∧
  (∀ (s : State) (a : Arrival), s.aou.classify a ≠ .stored →
    takeArrival a s = { s with aou := { s.aou with
      counts := (s.aou.classify a).count s.aou.counts } }) ∧
  (∀ (s : State) (a : Arrival), s.aou.classify a = .stored →
    let w := s.aou.window.map fun t => if t.index = a.index then t.store a else t
    let closes := w.any fun t => t.index == a.index && !t.isOpen
    let stored := { s with aou := { s.aou with
      window := w
      counts := { s.aou.counts with
        arrStored := up s.aou.counts.arrStored
        slotComplete := upIf closes s.aou.counts.slotComplete } } }
    takeArrival a s = feedSettle stored ∧
    ((∀ x rest, w = x :: rest → ∃ d, x.state = .opened d) →
      takeArrival a s = { stored with aou := { stored.aou with
        feed := if s.aou.driven && s.aou.ready then startRecord s.aou.feed else s.aou.feed } }) ∧
    (∀ x cause rest, w = x :: rest → x.state = .closed cause → s.aou.cut = none →
      s.aou.feed.length < 2 → (∀ y ys, rest = y :: ys → ∃ d, y.state = .opened d) →
      let r := resolveAll s.concealLimit x.expected s.aou.conceal
      let t := takeArrival a s
      t.aou.window = rest ∧ t.aou.conceal = r.2 ∧
      t.aou.counts.slotEmitted = up s.aou.counts.slotEmitted ∧
      t.aou.feed.map LineBuffer.record = s.aou.feed.map LineBuffer.record ++ [{
        station := s.ownId, incarnation := s.tlu.incarnation.getD 0, index := x.index, cut := false
        cause := cause, expected := x.expected.length, arrived := x.arrived, entries := r.1 }])) ∧
  (∀ (a : Arrival) (t : Slot) (e : Expected), e ∈ (t.store a).expected → e.track = a.track →
    e.arrived = some a.load) ∧
  (∀ (a : Arrival) (t : Slot), (∃ d, t.state = .opened d) →
    ((t.store a).state = .closed .complete ↔ ∀ e ∈ (t.store a).expected, e.arrived.isSome = true)) ∧
  (∀ (limit : Nat) (e : Expected) (c : ConcealPlace),
    let miss := min 255 (c.missRun + 1)
    (∀ a, e.arrived = some a → resolveTrack limit e c =
      ({ track := e.track, origin := e.origin, kind := .arrived, grade := a.grade, damage := a.damage
         payload := a.payload }, { last := some a, missRun := 0 })) ∧
    (∀ a, e.arrived = none → c.last = some a → miss ≤ limit → resolveTrack limit e c =
      ({ track := e.track, origin := e.origin, kind := .repeated, grade := a.grade, damage := a.damage
         payload := a.payload }, { last := some a, missRun := miss })) ∧
    (e.arrived = none → c.last = none ∨ limit < miss → resolveTrack limit e c =
      ({ track := e.track, origin := e.origin, kind := .silent, grade := 0, damage := false
         payload := [] }, { last := c.last, missRun := miss }))) ∧
  (∀ (limit : Nat) (es : List Expected) (store : List ConcealPlace), store.length = 512 →
    (es.map fun e => e.track).Nodup → (∀ e ∈ es, e.track < 512) →
    let one := fun e : Expected => resolveTrack limit e (store.getD e.track {})
    let r := resolveAll limit es store
    r.1 = es.map (fun e => (one e).1) ∧ r.2.length = 512 ∧
    ∀ k, k < 512 → r.2.getD k {} = match es.find? fun e => e.track == k with
      | some e => (one e).2
      | none => store.getD k {})

/-- A slot at a boundary presented with an index (R107, R129, R130): in RUNNING, at the boundary that enters it,
and in ENDING up to L, at a station with the AIR outlet role, the slot of the index joins the window OPEN, with
its deadline and the expected set of that boundary, and the open mark takes the index. A full window refuses it
while its oldest slot is OPEN, and drops a CLOSED oldest one that cannot be emitted; both are counted and raise
FEED. At any other mark the open mark stays. That the expected set is read before the aging of the same boundary
is fixed in log 10; no batch is in flight. -/
def Obligations.SlotOpens : Prop :=
  (∀ (s : State) (x : Expected), x ∈ s.expectedSet ↔ x.arrived = none ∧
    ∃ r ∈ s.rst.entries, ∃ g, r.track = x.track ∧ r.claim.group = some g ∧ s.cueValue g = .on ∧
      r.claim.origin s.ownId = some x.origin) ∧
  (∀ s : State, (s.expectedSet.map fun x => x.track).Sublist (s.rst.entries.map fun r => r.track)) ∧
  ∀ (s : State) (c : Configuration) (count : Word) (e : Epoch),
    s.csu.config = some c → s.tlu.ref = .locked → s.tlu.lastMark.map (· + 1) = some count →
    s.tlu.epoch = some e → s.tlu.station ≠ .unconfigured → s.sgc.batch = none →
    let n : Index := count - e.base
    let above := ∃ h, s.tlu.high = some h ∧ h.toInt < n.toInt
    let opens := c.airRole = true ∧
      ((s.tlu.station = .armed ∧ 0 ≤ n.toInt) ∨ (s.tlu.station = .running ∧ above) ∨
        (s.tlu.station = .ending ∧ above ∧ ∃ l, s.tlu.last = some l ∧ n.toInt ≤ l.toInt))
    let passes := c.airRole = false ∨ (s.tlu.station = .armed ∧ n.toInt < 0) ∨
      s.tlu.station = .configured ∨ s.tlu.station = .done ∨
      ((s.tlu.station = .running ∨ s.tlu.station = .ending) ∧
        ∃ h, s.tlu.high = some h ∧ n.toInt ≤ h.toInt) ∨
      (s.tlu.station = .ending ∧ ∃ l, s.tlu.last = some l ∧ l.toInt < n.toInt)
    let slot : Slot := {
      index := n
      state := .opened (s.now + 10000000 + 1000000 * c.latency)
      expected := s.expectedSet }
    let opened := fun (t : State) (w : List Slot) => t.aou.window = w ++ [slot] ∧
      t.aou.openMark = some n ∧ t.aou.counts.slotOpened = up s.aou.counts.slotOpened
    ∃ t, exec (.markTaken count s.rate.samples) s = .next t ∧
      (passes → t.aou.openMark = s.aou.openMark ∧
        t.aou.counts.slotOpened = s.aou.counts.slotOpened ∧
        t.aou.counts.slotRefused = s.aou.counts.slotRefused) ∧
      (opens → s.aou.window.length < 12 →
        (∃ w, w <:+ s.aou.window ∧ opened t w) ∧
        ((∀ x rest, s.aou.window = x :: rest → ∃ d, x.state = .opened d) → opened t s.aou.window)) ∧
      (∀ x rest, opens → s.aou.window = x :: rest → s.aou.window.length = 12 →
        ((∃ d, x.state = .opened d) →
          t.aou.window = s.aou.window ∧ t.aou.openMark = some n ∧
          t.aou.counts.slotOpened = s.aou.counts.slotOpened ∧
          t.aou.counts.slotRefused = up s.aou.counts.slotRefused ∧
          State.Raised .feed (.slotRefused n) s t) ∧
        ((∃ k, x.state = .closed k) → s.aou.cut = none → 2 ≤ s.aou.feed.length →
          opened t rest ∧ t.aou.conceal = s.aou.conceal ∧
          t.aou.counts.feedOverrun = up s.aou.counts.feedOverrun ∧
          t.aou.counts.slotEmitted = s.aou.counts.slotEmitted ∧
          State.Raised .feed (.slotDropped x.index) s t))

/-- SLOT_DEADLINE, FEED_RECORD_COMPLETE, PROGRAM_READY_RISE and PROGRAM_READY_FALL (R133, R134, R138, R139,
R143): an OPEN slot closes by its deadline and stays behind an OPEN older one; the oldest slot, with no CLOSED
one behind it, is emitted at a CLEAR station with a FREE buffer, with its record and its conceal places; under
a QUIET cut its record holds silence and the conceal store stays; under STOP and FLOAT it leaves unsent,
counted; with both buffers taken it waits. A record that completes frees its buffer, for a slot that waits for
it; a rise of READY starts the record placed first; a fall has no effect on a record. The model's choices: the
deadline acts whenever it is presented and moves local time to the later of itself and its due time (log 2),
a record complete with none SENDING does nothing (log 3), and the events end with the tests of log 12. -/
def Obligations.ProgramFeedEvents : Prop :=
  ∀ s : State,
    let record := fun (x : Slot) (cut : Bool) (cause : CloseCause) (entries : List SlotEntry) => ({
      station := s.ownId
      incarnation := s.tlu.incarnation.getD 0
      index := x.index
      cut := cut
      cause := cause
      expected := x.expected.length
      arrived := x.arrived
      entries := entries } : SlotRecord)
    let records := fun u : Aou => u.feed.map LineBuffer.record
    let silent := fun x : Slot => x.expected.map fun e => ({
      track := e.track, origin := e.origin, kind := .silent, grade := 0, damage := false
      payload := [] } : SlotEntry)
    let allOpen := fun rest : List Slot => ∀ y ys, rest = y :: ys → ∃ d, y.state = .opened d
    let r := fun x : Slot => resolveAll s.concealLimit x.expected s.aou.conceal
    (∀ n, s.aou.deadlineOf n = none → exec (.slotDeadline n) s = .next (settle s)) ∧
    (∀ n d, s.aou.deadlineOf n = some d → ∃ t, exec (.slotDeadline n) s = .next t ∧
      t.now = max s.now d ∧ t.aou.openMark = s.aou.openMark ∧ t.aou.cut = s.aou.cut ∧
      t.aou.counts.slotDeadline = up s.aou.counts.slotDeadline ∧
      (∀ x rest e, s.aou.window = x :: rest → x.state = .opened e → x.index ≠ n →
        t.aou.window = s.aou.window.map fun y =>
          if y.index = n then ({ y with state := .closed .deadline } : Slot) else y) ∧
      (∀ x rest, s.aou.window = x :: rest → x.index = n → (∀ y ∈ rest, y.index ≠ n) → allOpen rest →
        (s.aou.cut = none → s.aou.feed.length < 2 →
          t.aou.window = rest ∧ t.aou.conceal = (r x).2 ∧
          t.aou.counts.slotEmitted = up s.aou.counts.slotEmitted ∧
          records t.aou = records s.aou ++ [record x false .deadline (r x).1]) ∧
        (∀ c, s.csu.config = some c → s.aou.cut.isSome = true → c.cutMode = .quiet →
          s.aou.feed.length < 2 →
          t.aou.window = rest ∧ t.aou.conceal = s.aou.conceal ∧
          t.aou.counts.slotEmitted = up s.aou.counts.slotEmitted ∧
          t.aou.counts.entrySilent = upBy s.aou.counts.entrySilent x.expected.length ∧
          records t.aou = records s.aou ++ [record x true .deadline (silent x)]) ∧
        (∀ c, s.csu.config = some c → s.aou.cut.isSome = true →
          c.cutMode = .stop ∨ c.cutMode = .float →
          t.aou.window = rest ∧ t.aou.conceal = s.aou.conceal ∧ records t.aou = records s.aou ∧
          t.aou.counts.slotCut = up s.aou.counts.slotCut ∧
          t.aou.counts.slotEmitted = s.aou.counts.slotEmitted) ∧
        (s.aou.cut = none → 2 ≤ s.aou.feed.length →
          t.aou.window = ({ x with state := .closed .deadline } : Slot) :: rest ∧
          t.aou.conceal = s.aou.conceal ∧ records t.aou = records s.aou))) ∧
    (sendingRecord s.aou.feed = none → exec .feedRecordComplete s = .next (settle s)) ∧
    (∀ q, sendingRecord s.aou.feed = some q → ∃ t, exec .feedRecordComplete s = .next t ∧
      t.aou.counts.recSent = up s.aou.counts.recSent ∧ t.aou.conceal.length = s.aou.conceal.length ∧
      (allOpen s.aou.window →
        records t.aou = (dropSending s.aou.feed).map LineBuffer.record ∧
        t.aou.window = s.aou.window ∧ t.aou.conceal = s.aou.conceal) ∧
      (∀ x rest k, s.aou.window = x :: rest → x.state = .closed k → allOpen rest →
        s.aou.cut = none → (dropSending s.aou.feed).length < 2 →
        t.aou.window = rest ∧ t.aou.conceal = (r x).2 ∧
        records t.aou = (dropSending s.aou.feed).map LineBuffer.record ++
          [record x false k (r x).1])) ∧
    exec .programReadyRise s = .next { s with aou := { s.aou with
      ready := true
      feed := if s.aou.driven then startRecord s.aou.feed else s.aou.feed } } ∧
    exec .programReadyFall s = .next { s with aou := { s.aou with ready := false } }

/-! ### The Keep Spool and the Keep Outlet (chapter 9) -/

/-- The spool (R151, R155 to R157): a KEEP record becomes the entry of sequence write, with the lost run, or
is lost in a full spool, the first of a run raising SPOOL; no record is taken before ARM. Freeing moves
free to the older of drain and 1 plus the oldest kept sequence, when that is newer, and drops the
entries before it. RESEND_TIMER makes a go-back: drain takes the value of free. The model's choices: the first
update of free at the instant of a go-back, and behind it, does not move free (log 44); the expiry acts whenever
it is presented and moves local time to the later of itself and its due time (log 2), and does nothing with no
timer running (log 3); it ends with the tests of log 12. Of two sequences exactly 2^31 apart the first stands as the older (log 56), and of a
kept list that names one origin and incarnation twice the first entry counts (log 55). -/
def Obligations.SpoolAppendsFreesAndGoesBack : Prop :=
  ∀ s : State,
    (∀ b, s.armedOnward = false → appendKeep b s = s) ∧
    (∀ b, s.armedOnward = true → s.ksp.retained < 262144 →
      appendKeep b s = { s with ksp := { s.ksp with
        entries := s.ksp.entries ++ [{ b with sequence := s.ksp.write, lossBefore := s.ksp.lostRun }]
        write := s.ksp.write + 1
        lostRun := 0
        counts := { s.ksp.counts with spoolAppended := up s.ksp.counts.spoolAppended } } }) ∧
    (∀ b, s.armedOnward = true → 262144 ≤ s.ksp.retained →
      appendKeep b s = { s with
        ksp := { s.ksp with
          lostRun := up s.ksp.lostRun
          counts := { s.ksp.counts with spoolLost := up s.ksp.counts.spoolLost } }
        csu := if s.ksp.lostRun = 0 then s.csu.raise .spool (.spoolFull s.ksp.write) else s.csu }) ∧
    (s.countedOutlets = [] → recomputeFree s = s) ∧
    (∀ oldest, oldestOf (s.countedOutlets.map (·.2)) = some oldest →
      let target := if newer s.ksp.drain (oldest + 1) then oldest + 1 else s.ksp.drain
      (newer target s.ksp.free = false → recomputeFree s = s) ∧
      (newer target s.ksp.free = true → s.ksp.wentBack = some s.now →
        recomputeFree s = { s with ksp := { s.ksp with wentBack := none } }) ∧
      (newer target s.ksp.free = true → s.ksp.wentBack ≠ some s.now →
        recomputeFree s = { s with ksp := { s.ksp with
        entries := s.ksp.entries.drop (target - s.ksp.free).toNat
        free := target
        resendAt := if target = s.ksp.drain then none else some s.resendDue
        counts := { s.ksp.counts with
          spoolFreed := upBy s.ksp.counts.spoolFreed (target - s.ksp.free).toNat } } })) ∧
    (s.ksp.resendAt = none → exec .resendTimer s = .next (settle s)) ∧
    (∀ d, s.ksp.resendAt = some d → exec .resendTimer s = .next (settle { s with
      now := max s.now d
      ksp := { s.ksp with
        drain := s.ksp.free
        resendAt := none
        wentBack := some (max s.now d)
        counts := { s.ksp.counts with
          rewind := up s.ksp.counts.rewind
          rewindEntries := upBy s.ksp.counts.rewindEntries (s.ksp.drain - s.ksp.free).toNat } } }))

/-- The drain (R62, R152, R153). It may send exactly when the station is RUNNING or ENDING and not MUTED, an
entry is undrained, each UP port has lane 2 OPEN, not held, not congested and two below the KEEP high mark, and
with no port UP the own Keep Outlet has two free places. Then the entry at drain goes out as a KEEP frame with
the value of free as its floor: offered to lane 2 of both ports, delivered to the own Keep Outlet where there is
one, with the next ring sequence; drain increments, and the resend timer starts as drain leaves free. The drain
goes on until a condition fails. It runs in ENDING as in RUNNING; that the tests at the end of an event make it
is fixed in log 12. -/
def Obligations.DrainSends : Prop :=
  (∀ s : State, settle s = testDone (reportFinished (drain s))) ∧
  (∀ s : State, s.drainBlock = none ↔
    (s.tlu.station = .running ∨ s.tlu.station = .ending) ∧ s.dlu.muted = none ∧
    s.ksp.drain ≠ s.ksp.write ∧
    (∀ p, (s.port p).link = .up → (s.port p).lane2 = .opened ∧ (s.port p).heldUntil = none ∧
      (s.port p).refreshAt = none ∧ (s.port p).queue2.length + 2 ≤ s.highMark) ∧
    ((∀ p, (s.port p).link ≠ .up) → s.keepRole = true ∧ s.kou.queue.length + 2 ≤ 64)) ∧
  (∀ s : State, s.drainBlock ≠ none → drain s = s) ∧
  (∀ s : State, s.ksp.Law → s.drainBlock = none →
    ∃ b, s.ksp.entries[(s.ksp.drain - s.ksp.free).toNat]? = some b ∧ b.sequence = s.ksp.drain ∧
      drain s = drain (sendEntry b s)) ∧
  ∀ (s : State) (c : Configuration) (inc : Word) (b : KeepBody), s.dlu.muted = none →
    s.csu.config = some c → s.tlu.incarnation = some inc →
    let frame := ringBytes .keep
      { origin := c.station, incarnation := inc, sequence := s.dlu.nextSeq } (keepBytes b s.ksp.free)
    let v := { s with dlu := { s.dlu with
      nextSeq := s.dlu.nextSeq + 1
      counts := { s.dlu.counts with
        originated := up s.dlu.counts.originated
        origUnsent := upIf ((s.port .a).offer 2 != .queued && (s.port .b).offer 2 != .queued)
          s.dlu.counts.origUnsent } } }
    let w := offerFrame .b 2 frame (offerFrame .a 2 frame v)
    let u := if c.keepRole then
        takeKeep c.station inc (parseKeep frame) (keepFloor frame) { w with dlu := { w.dlu with
          counts := { w.dlu.counts with deliveredKeep := up w.dlu.counts.deliveredKeep } } }
      else w
    1 ≤ c.station → c.station ≤ 16 →
    sendEntry b s = { u with ksp := { u.ksp with
      drain := s.ksp.drain + 1
      resendAt := if u.ksp.free = s.ksp.drain then some (s.now + 1000000 * c.resend)
        else u.ksp.resendAt
      counts := { u.ksp.counts with keepDrained := up u.ksp.counts.keepDrained } } }

/-- A KEEP frame that is delivered is counted and reaches the Keep Outlet, with the origin and the incarnation of
its header and its floor, where the station has the KEEP outlet role, and does nothing more without it (R76,
Table 5-6). It is judged by the take table (R160, Table 9-6) from ARMED onward, its records queued behind those
that wait and moved into the line buffers in order, and a position it changes told to the own spool (R165); and
ARCHIVE_RECORD_COMPLETE, ARCHIVE_READY_RISE and ARCHIVE_READY_FALL (R163 to R165): a DATA record that
completes, of the incarnation its place holds and newer than the place's last sent, becomes the last sent; a
JOIN changes no place; a rise of READY starts a record where the line is driven; a fall has no effect on a
record. The model's choices: a record complete with none SENDING does nothing (log 3), the events end with the tests
of log 12, and a frame with s newer than next take and a floor exactly 2^31 from next take is ahead (log 59). -/
def Obligations.KeepOutletTakesAndSends : Prop :=
  (∀ (s : State) (own : Bool) (frame : Bytes),
    let h := ringHeader frame
    (s.keepRole = true → deliver .keep own frame s =
      takeKeep h.origin h.incarnation (parseKeep frame) (keepFloor frame) { s with dlu := { s.dlu with
        counts := { s.dlu.counts with deliveredKeep := up s.dlu.counts.deliveredKeep } } }) ∧
    (s.keepRole = false → deliver .keep own frame s = s)) ∧
  (∀ (inc n floor : Word) (room : Nat),
    (judgeKeep none inc n floor room = if 2 ≤ room then .start else .queueFull) ∧
    ∀ e : TakeEntry,
      (newer inc e.incarnation = true →
        judgeKeep (some e) inc n floor room = if 2 ≤ room then .start else .queueFull) ∧
      (newer inc e.incarnation = false → inc ≠ e.incarnation →
        judgeKeep (some e) inc n floor room = .stale) ∧
      (inc = e.incarnation →
        (n = e.nextTake →
          judgeKeep (some e) inc n floor room = if 1 ≤ room then .taken else .queueFull) ∧
        (newer e.nextTake n = true → judgeKeep (some e) inc n floor room = .duplicate) ∧
        (newer n e.nextTake = true → newer floor e.nextTake = true →
          judgeKeep (some e) inc n floor room = if 2 ≤ room then .gap else .queueFull) ∧
        (newer n e.nextTake = true → newer floor e.nextTake = false →
          judgeKeep (some e) inc n floor room = .ahead) ∧
        ((n - e.nextTake).toNat = 2 ^ 31 → judgeKeep (some e) inc n floor room = .stale))) ∧
  (∀ (k : Kou) (o : Nat) (inc floor : Word) (b : KeepBody), 1 ≤ o → o ≤ 16 → k.take.length = 16 →
    let place := fun r => atStation (k.judged o inc b floor r).take o
    let queue := fun r => (k.judged o inc b floor r).queue
    place .start = some { incarnation := inc, nextTake := b.sequence + 1, lastSent := b.sequence - 1 } ∧
    queue .start = k.queue ++ [.join o inc b.sequence, .data o inc b] ∧
    (∀ e, atStation k.take o = some e → place .taken =
      some { incarnation := inc, nextTake := b.sequence + 1, lastSent := e.lastSent }) ∧
    queue .taken = k.queue ++ [.data o inc b] ∧
    (b.sequence = floor →
      place .gap = some { incarnation := inc, nextTake := floor + 1, lastSent := floor - 1 } ∧
      queue .gap = k.queue ++ [.join o inc floor, .data o inc b]) ∧
    (b.sequence ≠ floor →
      place .gap = some { incarnation := inc, nextTake := floor, lastSent := floor - 1 } ∧
      queue .gap = k.queue ++ [.join o inc floor]) ∧
    (∀ r, r = .duplicate ∨ r = .ahead ∨ r = .stale ∨ r = .queueFull →
      place r = atStation k.take o ∧ queue r = k.queue)) ∧
  (∀ (s : State) (o : Nat) (inc : Word) (b : KeepBody) (floor : Word),
    let r := judgeKeep (atStation s.kou.take o) inc b.sequence floor (64 - s.kou.queue.length)
    let k := s.kou.judged o inc b floor r
    let t := takeKeep o inc b floor s
    let own := o = s.ownId ∧ s.tlu.incarnation = some inc
    (s.armedOnward = false → t = s) ∧
    (s.armedOnward = true →
      t = { s with kou := t.kou, ksp := t.ksp } ∧
      t.kou.take = k.take ∧ t.kou.counts = k.counts ∧
      t.kou.lines.map LineBuffer.record ++ t.kou.queue =
        s.kou.lines.map LineBuffer.record ++ k.queue ∧
      (own → r = .start ∨ r = .gap → t.ksp = (recomputeFree { s with kou := k }).ksp) ∧
      (¬ own ∨ (r ≠ .start ∧ r ≠ .gap) → t.ksp = s.ksp))) ∧
  ∀ s : State,
    (sendingRecord s.kou.lines = none → exec .archiveRecordComplete s = .next (settle s)) ∧
    (∀ q, sendingRecord s.kou.lines = some q →
      ∃ u, exec .archiveRecordComplete s = .next (settle u) ∧
        u = { s with kou := u.kou, ksp := u.ksp } ∧
        u.kou.counts = { s.kou.counts with archSent := up s.kou.counts.archSent } ∧
        u.kou.lines.map LineBuffer.record ++ u.kou.queue =
          (dropSending s.kou.lines).map LineBuffer.record ++ s.kou.queue ∧
        (∀ o inc first, q = .join o inc first → u.kou.take = s.kou.take ∧ u.ksp = s.ksp) ∧
        (∀ o inc b, q = .data o inc b →
          (∀ e, atStation s.kou.take o = some e → e.incarnation = inc →
            newer b.sequence e.lastSent = true →
            let take := setStation s.kou.take o (some { e with lastSent := b.sequence })
            u.kou.take = take ∧
            (o = s.ownId ∧ s.tlu.incarnation = some inc →
              u.ksp = (recomputeFree { s with kou := { s.kou with take := take } }).ksp) ∧
            (¬ (o = s.ownId ∧ s.tlu.incarnation = some inc) → u.ksp = s.ksp)) ∧
          ((∀ e, atStation s.kou.take o = some e →
              e.incarnation ≠ inc ∨ newer b.sequence e.lastSent = false) →
            u.kou.take = s.kou.take ∧ u.ksp = s.ksp))) ∧
    (∃ u, exec .archiveReadyRise s = .next (settle u) ∧ u = { s with kou := u.kou } ∧
      u.kou.ready = true ∧ u.kou.take = s.kou.take ∧ u.kou.counts = s.kou.counts ∧
      u.kou.lines.map LineBuffer.record ++ u.kou.queue =
        s.kou.lines.map LineBuffer.record ++ s.kou.queue ∧
      (s.kou.queue = [] →
        u.kou.lines = if s.keepRole then startRecord s.kou.lines else s.kou.lines)) ∧
    exec .archiveReadyFall s = .next { s with kou := { s.kou with ready := false } }

/-! ### Attention (R180, R181) -/

/-- The attention pin and the first-cause law (R180 to R182, Table 10-6). A raise keeps the first cause of a
pending class, gives a class that is not pending its cause, and is counted; no other class changes. The pin is
asserted exactly while a class is pending and enabled. A class that is pending stays so with its first cause
until CLEAR ATTN or a reset, whatever else is taken; a line or a break may bring a CLEAR ATTN. -/
def Obligations.AttentionPin : Prop :=
  [AttnClass.dupid, .ref, .epoch, .cut, .spool, .feed, .claim, .link, .capture, .peer, .reset].map
    AttnClass.rank = [0, 1, 2, 3, 4, 5, 6, 7, 8, 9, 10] ∧
  (∀ (u : Csu) (c : AttnClass) (cause : Cause),
    u.pendingAttn.length = 11 → u.attnRaised.length = 11 →
    let v := u.raise c cause
    v = { u with pendingAttn := v.pendingAttn, attnRaised := v.attnRaised } ∧
    v.pendingAttn.length = 11 ∧ v.attnRaised.length = 11 ∧
    v.pendingAttn.getD c.rank none = some ((u.pendingAttn.getD c.rank none).getD cause) ∧
    v.attnRaised.getD c.rank 0 = up (u.attnRaised.getD c.rank 0) ∧
    ∀ a : AttnClass, a ≠ c →
      v.pendingAttn.getD a.rank none = u.pendingAttn.getD a.rank none ∧
      v.attnRaised.getD a.rank 0 = u.attnRaised.getD a.rank 0) ∧
  (∀ u : Csu, u.pendingAttn.length = 11 →
    (u.attnAsserted = true ↔ ∃ a : AttnClass,
      (u.pendingAttn.getD a.rank none).isSome = true ∧ u.enableMask.getLsbD a.rank = true)) ∧
  ∀ (c : Instr) (s t : State) (a : AttnClass) (cause : Cause), exec c s = .next t →
    c ≠ .powerOnReset → c ≠ .consoleReset → c ≠ .commandLineTaken → c ≠ .breakTaken →
    (∀ m, c ≠ .clearAttn m) →
    s.csu.pendingAttn.getD a.rank none = some cause → t.csu.pendingAttn.getD a.rank none = some cause

/-! ### Frames (chapter 11) -/

/-- What a station sends, another reads as it was meant (R46, R79, R185, R186): the CRC of every frame is
good, the header of a ring-wide frame and each body come back as they were, and a HELLO is valid. -/
def Obligations.FramesRoundTrip : Prop :=
  crc32 [0x31, 0x32, 0x33, 0x34, 0x35, 0x36, 0x37, 0x38, 0x39] = 0xCBF43926#32 ∧
  (∀ bs : Bytes, crcGood (withCrc bs) = true) ∧
  (∀ (s : State) (p : PortId) (now : Time), 1 ≤ s.ownId → s.ownId ≤ 16 → s.unconfigured = false →
    parseHello now (helloBytes s p) = some {
      station := s.ownId
      letter := p
      state := s.tlu.station
      digest := s.lku.digest.getD 0
      enable1 := s.lku.enabled
      enable2 := s.lku.enabled
      seen1 := (s.port p).seen1
      seen2 := (s.port p).seen2
      takenAt := now }) ∧
  (∀ sender time, sender < 256 → time < 65536 →
    (holdBytes sender time).length = 8 ∧ byteAt (holdBytes sender time) 0 = 2 ∧
    byteAt (holdBytes sender time) 1 = sender ∧ wordAt16 (holdBytes sender time) 2 = time) ∧
  (∀ (k : RingKind) (h : RingHeader) (body : Bytes), h.origin < 256 → body.length < 65000 →
    ringHeader (ringBytes k h body) = h ∧
    ringKindOf (byteAt (ringBytes k h body) 0) = some k ∧
    byteAt (ringBytes k h body) 2 = k.lane ∧
    wordAt16 (ringBytes k h body) 12 = (ringBytes k h body).length) ∧
  (∀ (h : RingHeader) (w v : Word),
    wordAt32 (ringBytes .start h (put32 w)) 14 = w ∧
    wordAt32 (ringBytes .endFrame h (put32 w ++ put32 v)) 14 = w ∧
    wordAt32 (ringBytes .endFrame h (put32 w ++ put32 v)) 18 = v) ∧
  (∀ (h : RingHeader) (c : CueBody), c.item < 256 → c.code < 256 →
    parseCue (ringBytes .cue h (cueBytes c)) = c) ∧
  (∀ (h : RingHeader) (a : AirBody), a.track < 65536 → a.group < 256 → a.load.grade ≤ 7 →
    a.load.payload.length = gradeSize a.load.grade →
    parseAir (ringBytes .air h (airBytes a)) = a) ∧
  (∀ (h : RingHeader) (b : KeepBody) (floor : Word), b.track < 65536 → b.damage < 65536 →
    b.group < 256 → b.payload.length < 65000 →
    parseKeep (ringBytes .keep h (keepBytes b floor)) = b ∧
    keepFloor (ringBytes .keep h (keepBytes b floor)) = floor) ∧
  (∀ (h : RingHeader) (b : BeaconBody), b.stateCode < 256 → b.grade < 256 →
    b.items.length = 17 → (∀ i ∈ b.items, i.code < 256 ∧ i.origin < 256) →
    b.kept.length = b.keptCount → b.keptCount ≤ 16 → (∀ e ∈ b.kept, e.origin < 256) →
    parseBeacon (ringBytes .beacon h (beaconBytes b)) = b)

/-! ### The laws every step keeps -/

/-- The station right after a reset keeps every law. -/
def Obligations.LawsHoldAtReset : Prop :=
  State.reset.ksp.Law ∧ Fits State.reset ∧ RosterLaw State.reset ∧ ClaimLaw State.reset ∧
  KindLaw State.reset ∧ Lifecycle State.reset ∧ LinkLaw State.reset ∧ WindowLaw State.reset

/-- Every step keeps the spool law (R150, R156). -/
def Obligations.SpoolLawKept : Prop :=
  ∀ s t : State, s.ksp.Law → step s = .next t → t.ksp.Law

/-- Every step keeps every buffer, queue and table within its size, but for the transmit buffer: that one takes
a reply whole whatever its fill, which is the model's choice (log 41). -/
def Obligations.BuffersFitKept : Prop :=
  ∀ s t : State, Fits s → step s = .next t → Fits t

/-- Every step keeps the roster law (R89, R90); and in a lawful roster, with the station's life lawful, no
origin comes to have more LEARNED entries than its claim limit (R96), and the roster holds at most 64 static
entries, each of the static list, and at most 32 LOCAL ones, each of a patched channel (R90, `KindLaw`). -/
def Obligations.RosterLawKept : Prop :=
  ∀ s t : State, RosterLaw s → step s = .next t →
    RosterLaw t ∧ (Lifecycle s → ClaimLaw s → ClaimLaw t) ∧ (Lifecycle s → KindLaw s → KindLaw t)

/-- Every step keeps what the station states go with (R7 to R16, R56, R91, R111, R118, R179). -/
def Obligations.LifecycleKept : Prop :=
  ∀ s t : State, Lifecycle s → step s = .next t → Lifecycle t

/-- Every step keeps what the link states go with (R49 to R57, R60, R61, R64). -/
def Obligations.LinkLawKept : Prop :=
  ∀ s t : State, LinkLaw s → step s = .next t → LinkLaw t

/-- Every step keeps the window's order and its bounds (R5, R128, R129). -/
def Obligations.WindowLawKept : Prop :=
  ∀ s t : State, WindowLaw s → step s = .next t → WindowLaw t
end

