-- ==== Sys2Proof/Laws/State.lean ====
section
/-! SUPPORT. What each update of the state leaves in each field. -/

namespace Sys2Proof.Machine

-- One proof after the other: the whole package is compiled as one text, and needs few threads so.
set_option Elab.async false

/-! ### `State.onTlu` -/

@[simp] theorem State.onTlu_pending (f : Tlu → Tlu) (s : State) : (s.onTlu f).pending = s.pending := rfl
@[simp] theorem State.onTlu_now (f : Tlu → Tlu) (s : State) : (s.onTlu f).now = s.now := rfl
@[simp] theorem State.onTlu_tlu (f : Tlu → Tlu) (s : State) : (s.onTlu f).tlu = f s.tlu := rfl
@[simp] theorem State.onTlu_cfr (f : Tlu → Tlu) (s : State) : (s.onTlu f).cfr = s.cfr := rfl
@[simp] theorem State.onTlu_sgc (f : Tlu → Tlu) (s : State) : (s.onTlu f).sgc = s.sgc := rfl
@[simp] theorem State.onTlu_lku (f : Tlu → Tlu) (s : State) : (s.onTlu f).lku = s.lku := rfl
@[simp] theorem State.onTlu_dlu (f : Tlu → Tlu) (s : State) : (s.onTlu f).dlu = s.dlu := rfl
@[simp] theorem State.onTlu_rst (f : Tlu → Tlu) (s : State) : (s.onTlu f).rst = s.rst := rfl
@[simp] theorem State.onTlu_pcu (f : Tlu → Tlu) (s : State) : (s.onTlu f).pcu = s.pcu := rfl
@[simp] theorem State.onTlu_aou (f : Tlu → Tlu) (s : State) : (s.onTlu f).aou = s.aou := rfl
@[simp] theorem State.onTlu_ksp (f : Tlu → Tlu) (s : State) : (s.onTlu f).ksp = s.ksp := rfl
@[simp] theorem State.onTlu_kou (f : Tlu → Tlu) (s : State) : (s.onTlu f).kou = s.kou := rfl
@[simp] theorem State.onTlu_csu (f : Tlu → Tlu) (s : State) : (s.onTlu f).csu = s.csu := rfl

/-! ### `State.onCfr` -/

@[simp] theorem State.onCfr_pending (f : Cfr → Cfr) (s : State) : (s.onCfr f).pending = s.pending := rfl
@[simp] theorem State.onCfr_now (f : Cfr → Cfr) (s : State) : (s.onCfr f).now = s.now := rfl
@[simp] theorem State.onCfr_tlu (f : Cfr → Cfr) (s : State) : (s.onCfr f).tlu = s.tlu := rfl
@[simp] theorem State.onCfr_cfr (f : Cfr → Cfr) (s : State) : (s.onCfr f).cfr = f s.cfr := rfl
@[simp] theorem State.onCfr_sgc (f : Cfr → Cfr) (s : State) : (s.onCfr f).sgc = s.sgc := rfl
@[simp] theorem State.onCfr_lku (f : Cfr → Cfr) (s : State) : (s.onCfr f).lku = s.lku := rfl
@[simp] theorem State.onCfr_dlu (f : Cfr → Cfr) (s : State) : (s.onCfr f).dlu = s.dlu := rfl
@[simp] theorem State.onCfr_rst (f : Cfr → Cfr) (s : State) : (s.onCfr f).rst = s.rst := rfl
@[simp] theorem State.onCfr_pcu (f : Cfr → Cfr) (s : State) : (s.onCfr f).pcu = s.pcu := rfl
@[simp] theorem State.onCfr_aou (f : Cfr → Cfr) (s : State) : (s.onCfr f).aou = s.aou := rfl
@[simp] theorem State.onCfr_ksp (f : Cfr → Cfr) (s : State) : (s.onCfr f).ksp = s.ksp := rfl
@[simp] theorem State.onCfr_kou (f : Cfr → Cfr) (s : State) : (s.onCfr f).kou = s.kou := rfl
@[simp] theorem State.onCfr_csu (f : Cfr → Cfr) (s : State) : (s.onCfr f).csu = s.csu := rfl

/-! ### `State.onSgc` -/

@[simp] theorem State.onSgc_pending (f : Sgc → Sgc) (s : State) : (s.onSgc f).pending = s.pending := rfl
@[simp] theorem State.onSgc_now (f : Sgc → Sgc) (s : State) : (s.onSgc f).now = s.now := rfl
@[simp] theorem State.onSgc_tlu (f : Sgc → Sgc) (s : State) : (s.onSgc f).tlu = s.tlu := rfl
@[simp] theorem State.onSgc_cfr (f : Sgc → Sgc) (s : State) : (s.onSgc f).cfr = s.cfr := rfl
@[simp] theorem State.onSgc_sgc (f : Sgc → Sgc) (s : State) : (s.onSgc f).sgc = f s.sgc := rfl
@[simp] theorem State.onSgc_lku (f : Sgc → Sgc) (s : State) : (s.onSgc f).lku = s.lku := rfl
@[simp] theorem State.onSgc_dlu (f : Sgc → Sgc) (s : State) : (s.onSgc f).dlu = s.dlu := rfl
@[simp] theorem State.onSgc_rst (f : Sgc → Sgc) (s : State) : (s.onSgc f).rst = s.rst := rfl
@[simp] theorem State.onSgc_pcu (f : Sgc → Sgc) (s : State) : (s.onSgc f).pcu = s.pcu := rfl
@[simp] theorem State.onSgc_aou (f : Sgc → Sgc) (s : State) : (s.onSgc f).aou = s.aou := rfl
@[simp] theorem State.onSgc_ksp (f : Sgc → Sgc) (s : State) : (s.onSgc f).ksp = s.ksp := rfl
@[simp] theorem State.onSgc_kou (f : Sgc → Sgc) (s : State) : (s.onSgc f).kou = s.kou := rfl
@[simp] theorem State.onSgc_csu (f : Sgc → Sgc) (s : State) : (s.onSgc f).csu = s.csu := rfl

/-! ### `State.onLku` -/

@[simp] theorem State.onLku_pending (f : Lku → Lku) (s : State) : (s.onLku f).pending = s.pending := rfl
@[simp] theorem State.onLku_now (f : Lku → Lku) (s : State) : (s.onLku f).now = s.now := rfl
@[simp] theorem State.onLku_tlu (f : Lku → Lku) (s : State) : (s.onLku f).tlu = s.tlu := rfl
@[simp] theorem State.onLku_cfr (f : Lku → Lku) (s : State) : (s.onLku f).cfr = s.cfr := rfl
@[simp] theorem State.onLku_sgc (f : Lku → Lku) (s : State) : (s.onLku f).sgc = s.sgc := rfl
@[simp] theorem State.onLku_lku (f : Lku → Lku) (s : State) : (s.onLku f).lku = f s.lku := rfl
@[simp] theorem State.onLku_dlu (f : Lku → Lku) (s : State) : (s.onLku f).dlu = s.dlu := rfl
@[simp] theorem State.onLku_rst (f : Lku → Lku) (s : State) : (s.onLku f).rst = s.rst := rfl
@[simp] theorem State.onLku_pcu (f : Lku → Lku) (s : State) : (s.onLku f).pcu = s.pcu := rfl
@[simp] theorem State.onLku_aou (f : Lku → Lku) (s : State) : (s.onLku f).aou = s.aou := rfl
@[simp] theorem State.onLku_ksp (f : Lku → Lku) (s : State) : (s.onLku f).ksp = s.ksp := rfl
@[simp] theorem State.onLku_kou (f : Lku → Lku) (s : State) : (s.onLku f).kou = s.kou := rfl
@[simp] theorem State.onLku_csu (f : Lku → Lku) (s : State) : (s.onLku f).csu = s.csu := rfl

/-! ### `State.onDlu` -/

@[simp] theorem State.onDlu_pending (f : Dlu → Dlu) (s : State) : (s.onDlu f).pending = s.pending := rfl
@[simp] theorem State.onDlu_now (f : Dlu → Dlu) (s : State) : (s.onDlu f).now = s.now := rfl
@[simp] theorem State.onDlu_tlu (f : Dlu → Dlu) (s : State) : (s.onDlu f).tlu = s.tlu := rfl
@[simp] theorem State.onDlu_cfr (f : Dlu → Dlu) (s : State) : (s.onDlu f).cfr = s.cfr := rfl
@[simp] theorem State.onDlu_sgc (f : Dlu → Dlu) (s : State) : (s.onDlu f).sgc = s.sgc := rfl
@[simp] theorem State.onDlu_lku (f : Dlu → Dlu) (s : State) : (s.onDlu f).lku = s.lku := rfl
@[simp] theorem State.onDlu_dlu (f : Dlu → Dlu) (s : State) : (s.onDlu f).dlu = f s.dlu := rfl
@[simp] theorem State.onDlu_rst (f : Dlu → Dlu) (s : State) : (s.onDlu f).rst = s.rst := rfl
@[simp] theorem State.onDlu_pcu (f : Dlu → Dlu) (s : State) : (s.onDlu f).pcu = s.pcu := rfl
@[simp] theorem State.onDlu_aou (f : Dlu → Dlu) (s : State) : (s.onDlu f).aou = s.aou := rfl
@[simp] theorem State.onDlu_ksp (f : Dlu → Dlu) (s : State) : (s.onDlu f).ksp = s.ksp := rfl
@[simp] theorem State.onDlu_kou (f : Dlu → Dlu) (s : State) : (s.onDlu f).kou = s.kou := rfl
@[simp] theorem State.onDlu_csu (f : Dlu → Dlu) (s : State) : (s.onDlu f).csu = s.csu := rfl

/-! ### `State.onRst` -/

@[simp] theorem State.onRst_pending (f : Rst → Rst) (s : State) : (s.onRst f).pending = s.pending := rfl
@[simp] theorem State.onRst_now (f : Rst → Rst) (s : State) : (s.onRst f).now = s.now := rfl
@[simp] theorem State.onRst_tlu (f : Rst → Rst) (s : State) : (s.onRst f).tlu = s.tlu := rfl
@[simp] theorem State.onRst_cfr (f : Rst → Rst) (s : State) : (s.onRst f).cfr = s.cfr := rfl
@[simp] theorem State.onRst_sgc (f : Rst → Rst) (s : State) : (s.onRst f).sgc = s.sgc := rfl
@[simp] theorem State.onRst_lku (f : Rst → Rst) (s : State) : (s.onRst f).lku = s.lku := rfl
@[simp] theorem State.onRst_dlu (f : Rst → Rst) (s : State) : (s.onRst f).dlu = s.dlu := rfl
@[simp] theorem State.onRst_rst (f : Rst → Rst) (s : State) : (s.onRst f).rst = f s.rst := rfl
@[simp] theorem State.onRst_pcu (f : Rst → Rst) (s : State) : (s.onRst f).pcu = s.pcu := rfl
@[simp] theorem State.onRst_aou (f : Rst → Rst) (s : State) : (s.onRst f).aou = s.aou := rfl
@[simp] theorem State.onRst_ksp (f : Rst → Rst) (s : State) : (s.onRst f).ksp = s.ksp := rfl
@[simp] theorem State.onRst_kou (f : Rst → Rst) (s : State) : (s.onRst f).kou = s.kou := rfl
@[simp] theorem State.onRst_csu (f : Rst → Rst) (s : State) : (s.onRst f).csu = s.csu := rfl

/-! ### `State.onPcu` -/

@[simp] theorem State.onPcu_pending (f : Pcu → Pcu) (s : State) : (s.onPcu f).pending = s.pending := rfl
@[simp] theorem State.onPcu_now (f : Pcu → Pcu) (s : State) : (s.onPcu f).now = s.now := rfl
@[simp] theorem State.onPcu_tlu (f : Pcu → Pcu) (s : State) : (s.onPcu f).tlu = s.tlu := rfl
@[simp] theorem State.onPcu_cfr (f : Pcu → Pcu) (s : State) : (s.onPcu f).cfr = s.cfr := rfl
@[simp] theorem State.onPcu_sgc (f : Pcu → Pcu) (s : State) : (s.onPcu f).sgc = s.sgc := rfl
@[simp] theorem State.onPcu_lku (f : Pcu → Pcu) (s : State) : (s.onPcu f).lku = s.lku := rfl
@[simp] theorem State.onPcu_dlu (f : Pcu → Pcu) (s : State) : (s.onPcu f).dlu = s.dlu := rfl
@[simp] theorem State.onPcu_rst (f : Pcu → Pcu) (s : State) : (s.onPcu f).rst = s.rst := rfl
@[simp] theorem State.onPcu_pcu (f : Pcu → Pcu) (s : State) : (s.onPcu f).pcu = f s.pcu := rfl
@[simp] theorem State.onPcu_aou (f : Pcu → Pcu) (s : State) : (s.onPcu f).aou = s.aou := rfl
@[simp] theorem State.onPcu_ksp (f : Pcu → Pcu) (s : State) : (s.onPcu f).ksp = s.ksp := rfl
@[simp] theorem State.onPcu_kou (f : Pcu → Pcu) (s : State) : (s.onPcu f).kou = s.kou := rfl
@[simp] theorem State.onPcu_csu (f : Pcu → Pcu) (s : State) : (s.onPcu f).csu = s.csu := rfl

/-! ### `State.onAou` -/

@[simp] theorem State.onAou_pending (f : Aou → Aou) (s : State) : (s.onAou f).pending = s.pending := rfl
@[simp] theorem State.onAou_now (f : Aou → Aou) (s : State) : (s.onAou f).now = s.now := rfl
@[simp] theorem State.onAou_tlu (f : Aou → Aou) (s : State) : (s.onAou f).tlu = s.tlu := rfl
@[simp] theorem State.onAou_cfr (f : Aou → Aou) (s : State) : (s.onAou f).cfr = s.cfr := rfl
@[simp] theorem State.onAou_sgc (f : Aou → Aou) (s : State) : (s.onAou f).sgc = s.sgc := rfl
@[simp] theorem State.onAou_lku (f : Aou → Aou) (s : State) : (s.onAou f).lku = s.lku := rfl
@[simp] theorem State.onAou_dlu (f : Aou → Aou) (s : State) : (s.onAou f).dlu = s.dlu := rfl
@[simp] theorem State.onAou_rst (f : Aou → Aou) (s : State) : (s.onAou f).rst = s.rst := rfl
@[simp] theorem State.onAou_pcu (f : Aou → Aou) (s : State) : (s.onAou f).pcu = s.pcu := rfl
@[simp] theorem State.onAou_aou (f : Aou → Aou) (s : State) : (s.onAou f).aou = f s.aou := rfl
@[simp] theorem State.onAou_ksp (f : Aou → Aou) (s : State) : (s.onAou f).ksp = s.ksp := rfl
@[simp] theorem State.onAou_kou (f : Aou → Aou) (s : State) : (s.onAou f).kou = s.kou := rfl
@[simp] theorem State.onAou_csu (f : Aou → Aou) (s : State) : (s.onAou f).csu = s.csu := rfl

/-! ### `State.onKsp` -/

@[simp] theorem State.onKsp_pending (f : Ksp → Ksp) (s : State) : (s.onKsp f).pending = s.pending := rfl
@[simp] theorem State.onKsp_now (f : Ksp → Ksp) (s : State) : (s.onKsp f).now = s.now := rfl
@[simp] theorem State.onKsp_tlu (f : Ksp → Ksp) (s : State) : (s.onKsp f).tlu = s.tlu := rfl
@[simp] theorem State.onKsp_cfr (f : Ksp → Ksp) (s : State) : (s.onKsp f).cfr = s.cfr := rfl
@[simp] theorem State.onKsp_sgc (f : Ksp → Ksp) (s : State) : (s.onKsp f).sgc = s.sgc := rfl
@[simp] theorem State.onKsp_lku (f : Ksp → Ksp) (s : State) : (s.onKsp f).lku = s.lku := rfl
@[simp] theorem State.onKsp_dlu (f : Ksp → Ksp) (s : State) : (s.onKsp f).dlu = s.dlu := rfl
@[simp] theorem State.onKsp_rst (f : Ksp → Ksp) (s : State) : (s.onKsp f).rst = s.rst := rfl
@[simp] theorem State.onKsp_pcu (f : Ksp → Ksp) (s : State) : (s.onKsp f).pcu = s.pcu := rfl
@[simp] theorem State.onKsp_aou (f : Ksp → Ksp) (s : State) : (s.onKsp f).aou = s.aou := rfl
@[simp] theorem State.onKsp_ksp (f : Ksp → Ksp) (s : State) : (s.onKsp f).ksp = f s.ksp := rfl
@[simp] theorem State.onKsp_kou (f : Ksp → Ksp) (s : State) : (s.onKsp f).kou = s.kou := rfl
@[simp] theorem State.onKsp_csu (f : Ksp → Ksp) (s : State) : (s.onKsp f).csu = s.csu := rfl

/-! ### `State.onKou` -/

@[simp] theorem State.onKou_pending (f : Kou → Kou) (s : State) : (s.onKou f).pending = s.pending := rfl
@[simp] theorem State.onKou_now (f : Kou → Kou) (s : State) : (s.onKou f).now = s.now := rfl
@[simp] theorem State.onKou_tlu (f : Kou → Kou) (s : State) : (s.onKou f).tlu = s.tlu := rfl
@[simp] theorem State.onKou_cfr (f : Kou → Kou) (s : State) : (s.onKou f).cfr = s.cfr := rfl
@[simp] theorem State.onKou_sgc (f : Kou → Kou) (s : State) : (s.onKou f).sgc = s.sgc := rfl
@[simp] theorem State.onKou_lku (f : Kou → Kou) (s : State) : (s.onKou f).lku = s.lku := rfl
@[simp] theorem State.onKou_dlu (f : Kou → Kou) (s : State) : (s.onKou f).dlu = s.dlu := rfl
@[simp] theorem State.onKou_rst (f : Kou → Kou) (s : State) : (s.onKou f).rst = s.rst := rfl
@[simp] theorem State.onKou_pcu (f : Kou → Kou) (s : State) : (s.onKou f).pcu = s.pcu := rfl
@[simp] theorem State.onKou_aou (f : Kou → Kou) (s : State) : (s.onKou f).aou = s.aou := rfl
@[simp] theorem State.onKou_ksp (f : Kou → Kou) (s : State) : (s.onKou f).ksp = s.ksp := rfl
@[simp] theorem State.onKou_kou (f : Kou → Kou) (s : State) : (s.onKou f).kou = f s.kou := rfl
@[simp] theorem State.onKou_csu (f : Kou → Kou) (s : State) : (s.onKou f).csu = s.csu := rfl

/-! ### `State.onCsu` -/

@[simp] theorem State.onCsu_pending (f : Csu → Csu) (s : State) : (s.onCsu f).pending = s.pending := rfl
@[simp] theorem State.onCsu_now (f : Csu → Csu) (s : State) : (s.onCsu f).now = s.now := rfl
@[simp] theorem State.onCsu_tlu (f : Csu → Csu) (s : State) : (s.onCsu f).tlu = s.tlu := rfl
@[simp] theorem State.onCsu_cfr (f : Csu → Csu) (s : State) : (s.onCsu f).cfr = s.cfr := rfl
@[simp] theorem State.onCsu_sgc (f : Csu → Csu) (s : State) : (s.onCsu f).sgc = s.sgc := rfl
@[simp] theorem State.onCsu_lku (f : Csu → Csu) (s : State) : (s.onCsu f).lku = s.lku := rfl
@[simp] theorem State.onCsu_dlu (f : Csu → Csu) (s : State) : (s.onCsu f).dlu = s.dlu := rfl
@[simp] theorem State.onCsu_rst (f : Csu → Csu) (s : State) : (s.onCsu f).rst = s.rst := rfl
@[simp] theorem State.onCsu_pcu (f : Csu → Csu) (s : State) : (s.onCsu f).pcu = s.pcu := rfl
@[simp] theorem State.onCsu_aou (f : Csu → Csu) (s : State) : (s.onCsu f).aou = s.aou := rfl
@[simp] theorem State.onCsu_ksp (f : Csu → Csu) (s : State) : (s.onCsu f).ksp = s.ksp := rfl
@[simp] theorem State.onCsu_kou (f : Csu → Csu) (s : State) : (s.onCsu f).kou = s.kou := rfl
@[simp] theorem State.onCsu_csu (f : Csu → Csu) (s : State) : (s.onCsu f).csu = f s.csu := rfl

/-! ### `State.reach`, `State.withQueue`, `raiseAttn` -/

@[simp] theorem State.reach_pending (t : Time) (s : State) : (s.reach t).pending = s.pending := rfl
@[simp] theorem State.reach_now (t : Time) (s : State) : (s.reach t).now = max s.now t := rfl
@[simp] theorem State.reach_tlu (t : Time) (s : State) : (s.reach t).tlu = s.tlu := rfl
@[simp] theorem State.reach_cfr (t : Time) (s : State) : (s.reach t).cfr = s.cfr := rfl
@[simp] theorem State.reach_sgc (t : Time) (s : State) : (s.reach t).sgc = s.sgc := rfl
@[simp] theorem State.reach_lku (t : Time) (s : State) : (s.reach t).lku = s.lku := rfl
@[simp] theorem State.reach_dlu (t : Time) (s : State) : (s.reach t).dlu = s.dlu := rfl
@[simp] theorem State.reach_rst (t : Time) (s : State) : (s.reach t).rst = s.rst := rfl
@[simp] theorem State.reach_pcu (t : Time) (s : State) : (s.reach t).pcu = s.pcu := rfl
@[simp] theorem State.reach_aou (t : Time) (s : State) : (s.reach t).aou = s.aou := rfl
@[simp] theorem State.reach_ksp (t : Time) (s : State) : (s.reach t).ksp = s.ksp := rfl
@[simp] theorem State.reach_kou (t : Time) (s : State) : (s.reach t).kou = s.kou := rfl
@[simp] theorem State.reach_csu (t : Time) (s : State) : (s.reach t).csu = s.csu := rfl

@[simp] theorem State.withQueue_pending (q : List Instr) (s : State) : (s.withQueue q).pending = q := rfl
@[simp] theorem State.withQueue_now (q : List Instr) (s : State) : (s.withQueue q).now = s.now := rfl
@[simp] theorem State.withQueue_tlu (q : List Instr) (s : State) : (s.withQueue q).tlu = s.tlu := rfl
@[simp] theorem State.withQueue_cfr (q : List Instr) (s : State) : (s.withQueue q).cfr = s.cfr := rfl
@[simp] theorem State.withQueue_sgc (q : List Instr) (s : State) : (s.withQueue q).sgc = s.sgc := rfl
@[simp] theorem State.withQueue_lku (q : List Instr) (s : State) : (s.withQueue q).lku = s.lku := rfl
@[simp] theorem State.withQueue_dlu (q : List Instr) (s : State) : (s.withQueue q).dlu = s.dlu := rfl
@[simp] theorem State.withQueue_rst (q : List Instr) (s : State) : (s.withQueue q).rst = s.rst := rfl
@[simp] theorem State.withQueue_pcu (q : List Instr) (s : State) : (s.withQueue q).pcu = s.pcu := rfl
@[simp] theorem State.withQueue_aou (q : List Instr) (s : State) : (s.withQueue q).aou = s.aou := rfl
@[simp] theorem State.withQueue_ksp (q : List Instr) (s : State) : (s.withQueue q).ksp = s.ksp := rfl
@[simp] theorem State.withQueue_kou (q : List Instr) (s : State) : (s.withQueue q).kou = s.kou := rfl
@[simp] theorem State.withQueue_csu (q : List Instr) (s : State) : (s.withQueue q).csu = s.csu := rfl

@[simp] theorem raiseAttn_pending (c : AttnClass) (x : Cause) (s : State) :
    (raiseAttn c x s).pending = s.pending := rfl
@[simp] theorem raiseAttn_now (c : AttnClass) (x : Cause) (s : State) :
    (raiseAttn c x s).now = s.now := rfl
@[simp] theorem raiseAttn_tlu (c : AttnClass) (x : Cause) (s : State) :
    (raiseAttn c x s).tlu = s.tlu := rfl
@[simp] theorem raiseAttn_cfr (c : AttnClass) (x : Cause) (s : State) :
    (raiseAttn c x s).cfr = s.cfr := rfl
@[simp] theorem raiseAttn_sgc (c : AttnClass) (x : Cause) (s : State) :
    (raiseAttn c x s).sgc = s.sgc := rfl
@[simp] theorem raiseAttn_lku (c : AttnClass) (x : Cause) (s : State) :
    (raiseAttn c x s).lku = s.lku := rfl
@[simp] theorem raiseAttn_dlu (c : AttnClass) (x : Cause) (s : State) :
    (raiseAttn c x s).dlu = s.dlu := rfl
@[simp] theorem raiseAttn_rst (c : AttnClass) (x : Cause) (s : State) :
    (raiseAttn c x s).rst = s.rst := rfl
@[simp] theorem raiseAttn_pcu (c : AttnClass) (x : Cause) (s : State) :
    (raiseAttn c x s).pcu = s.pcu := rfl
@[simp] theorem raiseAttn_aou (c : AttnClass) (x : Cause) (s : State) :
    (raiseAttn c x s).aou = s.aou := rfl
@[simp] theorem raiseAttn_ksp (c : AttnClass) (x : Cause) (s : State) :
    (raiseAttn c x s).ksp = s.ksp := rfl
@[simp] theorem raiseAttn_kou (c : AttnClass) (x : Cause) (s : State) :
    (raiseAttn c x s).kou = s.kou := rfl
@[simp] theorem raiseAttn_csu (c : AttnClass) (x : Cause) (s : State) :
    (raiseAttn c x s).csu = s.csu.raise c x := rfl

/-! ### Ports -/

@[simp] theorem State.onPort_pending (p : PortId) (f : Port → Port) (s : State) :
    (s.onPort p f).pending = s.pending := rfl
@[simp] theorem State.onPort_now (p : PortId) (f : Port → Port) (s : State) :
    (s.onPort p f).now = s.now := rfl
@[simp] theorem State.onPort_tlu (p : PortId) (f : Port → Port) (s : State) :
    (s.onPort p f).tlu = s.tlu := rfl
@[simp] theorem State.onPort_cfr (p : PortId) (f : Port → Port) (s : State) :
    (s.onPort p f).cfr = s.cfr := rfl
@[simp] theorem State.onPort_sgc (p : PortId) (f : Port → Port) (s : State) :
    (s.onPort p f).sgc = s.sgc := rfl
@[simp] theorem State.onPort_dlu (p : PortId) (f : Port → Port) (s : State) :
    (s.onPort p f).dlu = s.dlu := rfl
@[simp] theorem State.onPort_rst (p : PortId) (f : Port → Port) (s : State) :
    (s.onPort p f).rst = s.rst := rfl
@[simp] theorem State.onPort_pcu (p : PortId) (f : Port → Port) (s : State) :
    (s.onPort p f).pcu = s.pcu := rfl
@[simp] theorem State.onPort_aou (p : PortId) (f : Port → Port) (s : State) :
    (s.onPort p f).aou = s.aou := rfl
@[simp] theorem State.onPort_ksp (p : PortId) (f : Port → Port) (s : State) :
    (s.onPort p f).ksp = s.ksp := rfl
@[simp] theorem State.onPort_kou (p : PortId) (f : Port → Port) (s : State) :
    (s.onPort p f).kou = s.kou := rfl
@[simp] theorem State.onPort_csu (p : PortId) (f : Port → Port) (s : State) :
    (s.onPort p f).csu = s.csu := rfl

@[simp] theorem Lku.setPort_port (k : Lku) (p : PortId) (x : Port) : (k.setPort p x).port p = x := by
  cases p <;> rfl

@[simp] theorem Lku.setPort_other (k : Lku) (p : PortId) (x : Port) :
    (k.setPort p x).port (other p) = k.port (other p) := by
  cases p <;> rfl

@[simp] theorem Lku.setPort_enabled (k : Lku) (p : PortId) (x : Port) :
    (k.setPort p x).enabled = k.enabled := by
  cases p <;> rfl

@[simp] theorem Lku.setPort_digest (k : Lku) (p : PortId) (x : Port) :
    (k.setPort p x).digest = k.digest := by
  cases p <;> rfl

@[simp] theorem Lku.setPort_helloAt (k : Lku) (p : PortId) (x : Port) :
    (k.setPort p x).helloAt = k.helloAt := by
  cases p <;> rfl

@[simp] theorem other_other (p : PortId) : other (other p) = p := by cases p <;> rfl

/-- The port an update names is changed by it. -/
@[simp] theorem State.onPort_port (p : PortId) (f : Port → Port) (s : State) :
    (s.onPort p f).port p = f (s.port p) := by
  cases p <;> rfl

/-- The other port is left as it was. -/
@[simp] theorem State.onPort_other (p : PortId) (f : Port → Port) (s : State) :
    (s.onPort p f).port (other p) = s.port (other p) := by
  cases p <;> rfl

/-- Any port after an update of one port. -/
theorem State.onPort_at (p q : PortId) (f : Port → Port) (s : State) :
    (s.onPort p f).port q = if q = p then f (s.port p) else s.port q := by
  cases p <;> cases q <;> rfl

@[simp] theorem State.onPort_lku_enabled (p : PortId) (f : Port → Port) (s : State) :
    (s.onPort p f).lku.enabled = s.lku.enabled := by
  cases p <;> rfl

@[simp] theorem State.onPort_lku_digest (p : PortId) (f : Port → Port) (s : State) :
    (s.onPort p f).lku.digest = s.lku.digest := by
  cases p <;> rfl

@[simp] theorem State.onPort_lku_helloAt (p : PortId) (f : Port → Port) (s : State) :
    (s.onPort p f).lku.helloAt = s.lku.helloAt := by
  cases p <;> rfl

/-! ### Attention -/

@[simp] theorem Csu.raise_config (c : AttnClass) (x : Cause) (u : Csu) :
    (u.raise c x).config = u.config := rfl
@[simp] theorem Csu.raise_locked (c : AttnClass) (x : Cause) (u : Csu) :
    (u.raise c x).locked = u.locked := rfl
@[simp] theorem Csu.raise_load (c : AttnClass) (x : Cause) (u : Csu) :
    (u.raise c x).load = u.load := rfl

end Sys2Proof.Machine
end

