-- ==== Sys2Proof/Laws/Tables.lean ====
section
/-! SUPPORT. The tables: what changing, clearing or setting one place leaves of each place. -/

namespace Sys2Proof.Machine

-- One proof after the other: the whole package is compiled as one text, and needs few threads so.
set_option Elab.async false

/-! ### One element of a list -/

theorem modifyAt_getElem? (f : α → α) (k : Nat) (xs : List α) (j : Nat) :
    (modifyAt f k xs)[j]? = if j = k then (xs[j]?).map f else xs[j]? := by
  induction xs generalizing k j with
  | nil => simp [modifyAt]
  | cons x xs ih =>
    cases k <;> cases j
    · simp [modifyAt]
    · simp [modifyAt]
    · simp [modifyAt]
    · simp [modifyAt, ih]

theorem modifyAt_length (f : α → α) (k : Nat) (xs : List α) :
    (modifyAt f k xs).length = xs.length := by
  induction xs generalizing k with
  | nil => simp [modifyAt]
  | cons x xs ih =>
    cases k
    · simp [modifyAt]
    · simp [modifyAt, ih]

/-- Changing an element that is there is setting it. -/
theorem modifyAt_eq_set (f : α → α) (k : Nat) (xs : List α) (x : α) (h : xs[k]? = some x) :
    modifyAt f k xs = xs.set k (f x) := by
  induction xs generalizing k with
  | nil => simp at h
  | cons y ys ih =>
    cases k
    · simp only [List.getElem?_cons_zero, Option.some.injEq] at h
      simp [modifyAt, h]
    · simp only [List.getElem?_cons_succ] at h
      simp [modifyAt, ih _ h]

/-! ### The station tables -/

theorem setStation_length (xs : List (Option α)) (id : Nat) (v : Option α) :
    (setStation xs id v).length = xs.length := by
  cases id <;> simp [setStation]

theorem atStation_setStation_self (xs : List (Option α)) (id : Nat) (v : Option α) (h : 1 ≤ id)
    (g : id ≤ xs.length) : atStation (setStation xs id v) id = v := by
  cases id with
  | zero => omega
  | succ k =>
    have : k < xs.length := g
    simp [setStation, atStation, List.getD_eq_getElem?_getD, this]

theorem atStation_setStation_ne (xs : List (Option α)) (id j : Nat) (v : Option α) (h : j ≠ id) :
    atStation (setStation xs id v) j = atStation xs j := by
  cases id with
  | zero => rfl
  | succ k =>
    cases j with
    | zero => rfl
    | succ i =>
      have : ¬ k = i := fun e => h (by rw [e])
      simp [setStation, atStation, List.getD_eq_getElem?_getD, this]

/-! ### The capture flags and the pending classes -/

theorem clearFlags_length (ls : List CaptureLine) (m : Nat) : (clearFlags m ls).length = ls.length := by
  induction ls generalizing m with
  | nil => rfl
  | cons l ls ih => simp [clearFlags, ih]

theorem clearFlags_getElem? (ls : List CaptureLine) (m k : Nat) :
    (clearFlags m ls)[k]? = (ls[k]?).map fun l => l.clear (m / 16 ^ k % 16) := by
  induction ls generalizing m k with
  | nil => simp [clearFlags]
  | cons l ls ih =>
    cases k
    · simp [clearFlags]
    · simp [clearFlags, ih, Nat.div_div_eq_div_mul, Nat.pow_succ']

/-- A flag after its line's bits of a mask have been cleared (R23, R24). -/
theorem CaptureLine.clear_flag (l : CaptureLine) (m k : Nat) (f : CaptureFlag) :
    (l.clear (m / 16 ^ k % 16)).flag f = (l.flag f && !m.testBit (4 * k + f.number)) := by
  have h : ∀ j, j < 4 → (m / 16 ^ k % 16).testBit j = m.testBit (4 * k + j) := by
    intro j hj
    rw [show (16 : Nat) = 2 ^ 4 from rfl, ← Nat.pow_mul, Nat.testBit_mod_two_pow,
      Nat.testBit_div_two_pow]
    simp [hj, Nat.add_comm]
  cases f <;> simp only [CaptureLine.flag, CaptureLine.clear, CaptureFlag.number] <;>
    rw [h _ (by omega)]

theorem clearClasses_length (os : List (Option Cause)) (m : Nat) :
    (clearClasses m os).length = os.length := by
  induction os generalizing m with
  | nil => rfl
  | cons o os ih => simp [clearClasses, ih]

theorem clearClasses_getD (os : List (Option Cause)) (m k : Nat) :
    (clearClasses m os).getD k none = if m.testBit k then none else os.getD k none := by
  induction os generalizing m k with
  | nil => simp [clearClasses]
  | cons o os ih =>
    cases k with
    | zero => simp [clearClasses, Nat.testBit_zero]
    | succ k =>
      have := ih (m / 2) k
      simp only [List.getD_eq_getElem?_getD] at this
      simp [clearClasses, Nat.testBit_succ, this, List.getD_eq_getElem?_getD]

/-! ### The roster's order -/

theorem putEntry_mem (e : RosterEntry) (es : List RosterEntry) (x : RosterEntry) :
    x ∈ putEntry e es → x = e ∨ x ∈ es := by
  induction es with
  | nil => simp [putEntry]
  | cons y ys ih =>
    unfold putEntry
    intro h
    split at h
    · simpa using h
    · split at h
      · rcases List.mem_cons.1 h with h | h
        · exact .inl h
        · exact .inr (List.mem_cons_of_mem _ h)
      · rcases List.mem_cons.1 h with h | h
        · exact .inr (h ▸ List.mem_cons_self)
        · exact (ih h).imp id (List.mem_cons_of_mem _)

/-- An entry put in its place keeps the roster's order (R89). -/
theorem putEntry_ordered (e : RosterEntry) (es : List RosterEntry)
    (h : es.Pairwise fun a b => a.track < b.track) :
    (putEntry e es).Pairwise fun a b => a.track < b.track := by
  induction es with
  | nil => simp [putEntry]
  | cons y ys ih =>
    obtain ⟨h1, h2⟩ := List.pairwise_cons.1 h
    unfold putEntry
    split
    · rename_i lt
      refine List.pairwise_cons.2 ⟨fun x hx => ?_, h⟩
      rcases List.mem_cons.1 hx with rfl | hx
      · exact lt
      · exact Nat.lt_trans lt (h1 x hx)
    · split
      · rename_i eq
        exact List.pairwise_cons.2 ⟨fun x hx => eq ▸ h1 x hx, h2⟩
      · refine List.pairwise_cons.2 ⟨fun x hx => ?_, ih h2⟩
        rcases putEntry_mem e ys x hx with rfl | hx
        · omega
        · exact h1 x hx

theorem putEntry_length (e : RosterEntry) (es : List RosterEntry) :
    (putEntry e es).length ≤ es.length + 1 := by
  induction es with
  | nil => simp [putEntry]
  | cons y ys ih =>
    unfold putEntry
    split
    · simp
    · split
      · simp
      · simpa using ih

end Sys2Proof.Machine
end

