-- ==== Sys2Proof/Laws/Foot.lean ====
section
/-! SUPPORT. Footprints: which parts of the state an operation may change. One lemma for each operation
says all the parts it can change; every other part is then read off it. -/

namespace Sys2Proof.Machine

-- One proof after the other: the whole package is compiled as one text, and needs few threads so.
set_option Elab.async false

/-- The parts of the state. `ports` are the two ports, `link` what they share; `muted` is the muting
cause, `dlu` the rest of the Delivery Unit; `attn` is the pending set with its counters, `console` the
rest of the Console Unit. -/
inductive Part where
  | pending | now | tlu | cfr | sgc | ports | link | muted | dlu | rst | pcu | aou | ksp | kou | attn
  | console
  deriving DecidableEq

/-- From `s` to `t` at most the parts `ps` change. -/
structure Foot (ps : List Part) (s t : State) : Prop where
  pending : Part.pending ∉ ps → t.pending = s.pending
  now : Part.now ∉ ps → t.now = s.now
  tlu : Part.tlu ∉ ps → t.tlu = s.tlu
  cfr : Part.cfr ∉ ps → t.cfr = s.cfr
  sgc : Part.sgc ∉ ps → t.sgc = s.sgc
  ports : Part.ports ∉ ps → t.lku.portA = s.lku.portA ∧ t.lku.portB = s.lku.portB
  link : Part.link ∉ ps → t.lku.enabled = s.lku.enabled ∧ t.lku.digest = s.lku.digest ∧
    t.lku.helloAt = s.lku.helloAt
  muted : Part.muted ∉ ps → t.dlu.muted = s.dlu.muted
  dlu : Part.dlu ∉ ps → t.dlu.filter = s.dlu.filter ∧ t.dlu.nextSeq = s.dlu.nextSeq ∧
    t.dlu.counts = s.dlu.counts
  rst : Part.rst ∉ ps → t.rst = s.rst
  pcu : Part.pcu ∉ ps → t.pcu = s.pcu
  aou : Part.aou ∉ ps → t.aou = s.aou
  ksp : Part.ksp ∉ ps → t.ksp = s.ksp
  kou : Part.kou ∉ ps → t.kou = s.kou
  attn : Part.attn ∉ ps → t.csu.pendingAttn = s.csu.pendingAttn ∧ t.csu.attnRaised = s.csu.attnRaised
  console : Part.console ∉ ps →
    t.csu = { s.csu with pendingAttn := t.csu.pendingAttn, attnRaised := t.csu.attnRaised }

namespace Foot

theorem refl (ps : List Part) (s : State) : Foot ps s s := by
  constructor <;> intro _ <;> first | rfl | exact ⟨rfl, rfl⟩ | exact ⟨rfl, rfl, rfl⟩

/-- A footprint within a larger one. -/
theorem grow {a c : List Part} {s t : State} (h : Foot a s t)
    (ha : ∀ x ∈ a, x ∈ c := by decide) : Foot c s t := by
  constructor <;> intro n
  · exact h.pending fun m => n (ha _ m)
  · exact h.now fun m => n (ha _ m)
  · exact h.tlu fun m => n (ha _ m)
  · exact h.cfr fun m => n (ha _ m)
  · exact h.sgc fun m => n (ha _ m)
  · exact h.ports fun m => n (ha _ m)
  · exact h.link fun m => n (ha _ m)
  · exact h.muted fun m => n (ha _ m)
  · exact h.dlu fun m => n (ha _ m)
  · exact h.rst fun m => n (ha _ m)
  · exact h.pcu fun m => n (ha _ m)
  · exact h.aou fun m => n (ha _ m)
  · exact h.ksp fun m => n (ha _ m)
  · exact h.kou fun m => n (ha _ m)
  · exact h.attn fun m => n (ha _ m)
  · exact h.console fun m => n (ha _ m)

/-- One operation after another, of one footprint. -/
theorem seq {ps : List Part} {s t u : State} (h : Foot ps s t) (k : Foot ps t u) : Foot ps s u := by
  constructor <;> intro n
  · rw [k.pending n, h.pending n]
  · rw [k.now n, h.now n]
  · rw [k.tlu n, h.tlu n]
  · rw [k.cfr n, h.cfr n]
  · rw [k.sgc n, h.sgc n]
  · exact ⟨(k.ports n).1.trans (h.ports n).1, (k.ports n).2.trans (h.ports n).2⟩
  · exact ⟨(k.link n).1.trans (h.link n).1, (k.link n).2.1.trans (h.link n).2.1,
      (k.link n).2.2.trans (h.link n).2.2⟩
  · rw [k.muted n, h.muted n]
  · exact ⟨(k.dlu n).1.trans (h.dlu n).1, (k.dlu n).2.1.trans (h.dlu n).2.1,
      (k.dlu n).2.2.trans (h.dlu n).2.2⟩
  · rw [k.rst n, h.rst n]
  · rw [k.pcu n, h.pcu n]
  · rw [k.aou n, h.aou n]
  · rw [k.ksp n, h.ksp n]
  · rw [k.kou n, h.kou n]
  · exact ⟨(k.attn n).1.trans (h.attn n).1, (k.attn n).2.trans (h.attn n).2⟩
  · have e := k.console n
    rw [h.console n] at e
    exact e

/-- One operation after another. -/
theorem andThen {a b c : List Part} {s t u : State} (h : Foot a s t) (k : Foot b t u)
    (ha : ∀ x ∈ a, x ∈ c := by decide) (hb : ∀ x ∈ b, x ∈ c := by decide) : Foot c s u :=
  (h.grow ha).seq (k.grow hb)

/-- The port of a letter, where the ports are left as they were. -/
theorem port {ps : List Part} {s t : State} (h : Foot ps s t) (n : Part.ports ∉ ps) (p : PortId) :
    t.port p = s.port p := by
  cases p
  · exact (h.ports n).1
  · exact (h.ports n).2

/-- The Link Unit as a whole. -/
theorem lku {ps : List Part} {s t : State} (h : Foot ps s t) (n : Part.ports ∉ ps)
    (m : Part.link ∉ ps) : t.lku = s.lku := by
  have a := h.ports n
  have b := h.link m
  cases e : t.lku
  cases f : s.lku
  simp_all

/-- The configuration. -/
theorem config {ps : List Part} {s t : State} (h : Foot ps s t) (n : Part.console ∉ ps) :
    t.csu.config = s.csu.config := by
  rw [h.console n]

/-- The LOAD state. -/
theorem load {ps : List Part} {s t : State} (h : Foot ps s t) (n : Part.console ∉ ps) :
    t.csu.load = s.csu.load := by
  rw [h.console n]

/-- The configuration lock. -/
theorem locked {ps : List Part} {s t : State} (h : Foot ps s t) (n : Part.console ∉ ps) :
    t.csu.locked = s.csu.locked := by
  rw [h.console n]

end Foot

/-! ### The block updates -/

theorem State.onTlu_foot (f : Tlu → Tlu) (s : State) : Foot [.tlu] s (s.onTlu f) := by
  constructor <;> intro n <;>
    first | rfl | exact ⟨rfl, rfl⟩ | exact ⟨rfl, rfl, rfl⟩ | exact absurd (by decide) n

theorem State.onCfr_foot (f : Cfr → Cfr) (s : State) : Foot [.cfr] s (s.onCfr f) := by
  constructor <;> intro n <;>
    first | rfl | exact ⟨rfl, rfl⟩ | exact ⟨rfl, rfl, rfl⟩ | exact absurd (by decide) n

theorem State.onSgc_foot (f : Sgc → Sgc) (s : State) : Foot [.sgc] s (s.onSgc f) := by
  constructor <;> intro n <;>
    first | rfl | exact ⟨rfl, rfl⟩ | exact ⟨rfl, rfl, rfl⟩ | exact absurd (by decide) n

theorem State.onDlu_foot (f : Dlu → Dlu) (s : State) : Foot [.dlu, .muted] s (s.onDlu f) := by
  constructor <;> intro n <;>
    first | rfl | exact ⟨rfl, rfl⟩ | exact ⟨rfl, rfl, rfl⟩ | exact absurd (by decide) n

theorem State.onRst_foot (f : Rst → Rst) (s : State) : Foot [.rst] s (s.onRst f) := by
  constructor <;> intro n <;>
    first | rfl | exact ⟨rfl, rfl⟩ | exact ⟨rfl, rfl, rfl⟩ | exact absurd (by decide) n

theorem State.onPcu_foot (f : Pcu → Pcu) (s : State) : Foot [.pcu] s (s.onPcu f) := by
  constructor <;> intro n <;>
    first | rfl | exact ⟨rfl, rfl⟩ | exact ⟨rfl, rfl, rfl⟩ | exact absurd (by decide) n

theorem State.onAou_foot (f : Aou → Aou) (s : State) : Foot [.aou] s (s.onAou f) := by
  constructor <;> intro n <;>
    first | rfl | exact ⟨rfl, rfl⟩ | exact ⟨rfl, rfl, rfl⟩ | exact absurd (by decide) n

theorem State.onKsp_foot (f : Ksp → Ksp) (s : State) : Foot [.ksp] s (s.onKsp f) := by
  constructor <;> intro n <;>
    first | rfl | exact ⟨rfl, rfl⟩ | exact ⟨rfl, rfl, rfl⟩ | exact absurd (by decide) n

theorem State.onKou_foot (f : Kou → Kou) (s : State) : Foot [.kou] s (s.onKou f) := by
  constructor <;> intro n <;>
    first | rfl | exact ⟨rfl, rfl⟩ | exact ⟨rfl, rfl, rfl⟩ | exact absurd (by decide) n

theorem State.onPort_foot (p : PortId) (f : Port → Port) (s : State) :
    Foot [.ports] s (s.onPort p f) := by
  cases p <;> constructor <;> intro n <;>
    first | rfl | exact ⟨rfl, rfl⟩ | exact ⟨rfl, rfl, rfl⟩ | exact absurd (by decide) n

theorem State.countPort_foot (p : PortId) (f : PortCounts → PortCounts) (s : State) :
    Foot [.ports] s (s.countPort p f) := State.onPort_foot _ _ _

theorem raiseAttn_foot (c : AttnClass) (x : Cause) (s : State) : Foot [.attn] s (raiseAttn c x s) := by
  constructor <;> intro n <;>
    first | rfl | exact ⟨rfl, rfl⟩ | exact ⟨rfl, rfl, rfl⟩ | exact absurd (by decide) n

theorem State.reach_foot (t : Time) (s : State) : Foot [.now] s (s.reach t) := by
  constructor <;> intro n <;>
    first | rfl | exact ⟨rfl, rfl⟩ | exact ⟨rfl, rfl, rfl⟩ | exact absurd (by decide) n

/-- A change of the Delivery Unit that leaves the muting cause. -/
theorem State.onDlu_foot_unmuted (f : Dlu → Dlu) (s : State) (h : (f s.dlu).muted = s.dlu.muted) :
    Foot [.dlu] s (s.onDlu f) := by
  constructor <;> intro n <;>
    first | rfl | exact ⟨rfl, rfl⟩ | exact ⟨rfl, rfl, rfl⟩ | exact h | exact absurd (by decide) n

theorem State.countDlu_foot (f : DluCounts → DluCounts) (s : State) : Foot [.dlu] s (s.countDlu f) :=
  State.onDlu_foot_unmuted _ _ rfl

/-- A change of the Console Unit that leaves the attentions. -/
theorem State.onCsu_foot_quiet (f : Csu → Csu) (s : State)
    (h : (f s.csu).pendingAttn = s.csu.pendingAttn ∧ (f s.csu).attnRaised = s.csu.attnRaised) :
    Foot [.console] s (s.onCsu f) := by
  constructor <;> intro n <;>
    first | rfl | exact h | exact ⟨rfl, rfl⟩ | exact ⟨rfl, rfl, rfl⟩ | exact absurd (by decide) n

theorem State.onCsu_foot (f : Csu → Csu) (s : State) : Foot [.console, .attn] s (s.onCsu f) := by
  constructor <;> intro n <;>
    first | rfl | exact ⟨rfl, rfl⟩ | exact ⟨rfl, rfl, rfl⟩ | exact absurd (by decide) n

/-! ### The Link Unit -/

theorem startLinkLocal_foot (p : PortId) (s : State) : Foot [.ports] s (startLinkLocal p s) := by
  unfold startLinkLocal
  split
  · exact State.onPort_foot _ _ _
  · exact State.onPort_foot _ _ _
  · exact .refl _ _

theorem offerHello_foot (p : PortId) (s : State) : Foot [.ports] s (offerHello p s) := by
  unfold offerHello
  dsimp only
  split
  · exact .refl _ _
  · split
    · exact State.countPort_foot _ _ _
    · exact (State.onPort_foot _ _ _).seq (startLinkLocal_foot _ _)

theorem offerHold_foot (p : PortId) (t : Nat) (s : State) : Foot [.ports] s (offerHold p t s) := by
  unfold offerHold
  split
  · split
    · exact State.countPort_foot _ _ _
    · exact (State.onPort_foot _ _ _).seq (startLinkLocal_foot _ _)
  · exact .refl _ _

theorem startCongestion_foot (p : PortId) (s : State) : Foot [.ports] s (startCongestion p s) :=
  (State.onPort_foot _ _ _).seq (offerHold_foot _ _ _)

theorem endCongestion_foot (p : PortId) (s : State) : Foot [.ports] s (endCongestion p s) :=
  (State.onPort_foot _ _ _).seq (offerHold_foot _ _ _)

theorem lane2Rose_foot (p : PortId) (s : State) : Foot [.ports] s (lane2Rose p s) := by
  unfold lane2Rose
  split
  · exact startCongestion_foot _ _
  · exact .refl _ _

theorem lane2Fell_foot (p : PortId) (s : State) : Foot [.ports] s (lane2Fell p s) := by
  unfold lane2Fell
  split
  · exact endCongestion_foot _ _
  · exact .refl _ _

theorem dropStale_foot (p : PortId) (s : State) : Foot [.ports] s (dropStale p s) :=
  State.onPort_foot _ _ _

theorem kick_foot (p : PortId) (s : State) : Foot [.ports] s (kick p s) := by
  unfold kick
  dsimp only
  split
  · exact .refl _ _
  · split
    · exact startLinkLocal_foot _ _
    · exact State.onPort_foot _ _ _
    · exact (State.onPort_foot _ _ _).seq (dropStale_foot _ _)
    · split
      · exact .refl _ _
      · exact (State.onPort_foot _ _ _).seq (lane2Fell_foot _ _)
    · exact .refl _ _

theorem afterJoin_foot (p : PortId) (lane : Nat) (s : State) : Foot [.ports] s (afterJoin p lane s) := by
  unfold afterJoin
  split
  · exact .refl _ _
  · split
    · exact dropStale_foot _ _
    · exact .refl _ _
  · exact lane2Rose_foot _ _

theorem offerFrame_foot (p : PortId) (lane : Nat) (f : Bytes) (s : State) :
    Foot [.ports] s (offerFrame p lane f s) := by
  unfold offerFrame
  split
  · exact .refl _ _
  · exact State.countPort_foot _ _ _
  · exact ((State.onPort_foot _ _ _).seq (afterJoin_foot _ _ _)).seq (kick_foot _ _)

theorem moveLanes_foot (p : PortId) (l1 l2 : LaneState) (s : State) :
    Foot [.ports] s (moveLanes p l1 l2 s) := by
  have h : Foot [.ports] s (lane2Fell p (s.onPort p fun x => x.setLanes l1 l2)) :=
    (State.onPort_foot _ _ _).seq (lane2Fell_foot _ _)
  unfold moveLanes
  dsimp only
  split
  · exact h
  · exact h.seq (offerHello_foot _ _)

theorem leaveUp_foot (p : PortId) (dest : LinkState) (s : State) :
    Foot [.ports, .attn] s (leaveUp p dest s) := by
  unfold leaveUp
  dsimp only
  refine .andThen (b := [.attn]) (a := [.ports]) ?_ (raiseAttn_foot _ _ _)
  refine .seq ?_ (startLinkLocal_foot _ _)
  have h : Foot [.ports] s (if (s.port p).congested = true
      then offerHold (other p) 0 (s.onPort p fun x => x.leave dest)
      else s.onPort p fun x => x.leave dest) := by
    split
    · exact (State.onPort_foot _ _ _).seq (offerHold_foot _ _ _)
    · exact State.onPort_foot _ _ _
  by_cases c : (s.port p).lane1 = .closed ∧ (s.port p).lane2 = .closed
  · rw [if_pos c]; exact h
  · rw [if_neg c]; exact h.seq (offerHello_foot _ _)

theorem goDown_foot (p : PortId) (s : State) : Foot [.ports, .attn] s (goDown p s) := by
  unfold goDown
  dsimp only
  refine .seq ?_ (State.onPort_foot _ _ _).grow
  split
  · exact (State.onPort_foot _ _ _).grow.seq (leaveUp_foot _ _ _)
  · exact ((State.onPort_foot _ _ _).seq (startLinkLocal_foot _ _)).grow

theorem enterUp_foot (p : PortId) (h : Neighbour) (s : State) : Foot [.ports] s (enterUp p h s) :=
  (State.onPort_foot _ _ _).seq (offerHello_foot _ _)

theorem barPort_foot (p : PortId) (old new : BarCause) (h : Neighbour) (s : State) :
    Foot [.ports, .attn] s (barPort p old new h s) := by
  unfold barPort
  dsimp only
  split <;> split <;>
    first
    | exact ((State.onPort_foot _ _ _).andThen (raiseAttn_foot _ _ _)).andThen
        (c := [.ports, .attn]) (a := [.ports, .attn]) (raiseAttn_foot _ _ _)
    | exact (State.onPort_foot _ _ _).andThen (raiseAttn_foot _ _ _)
    | exact (State.onPort_foot _ _ _).grow

theorem listenHello_foot (p : PortId) (h : Neighbour) (s : State) :
    Foot [.ports, .attn] s (listenHello p h s) := by
  unfold listenHello
  split
  · exact (enterUp_foot _ _ _).grow
  · exact barPort_foot _ _ _ _ _

theorem keepUp_foot (p : PortId) (h : Neighbour) (s : State) : Foot [.ports] s (keepUp p h s) :=
  (State.onPort_foot _ _ _).seq (moveLanes_foot _ _ _ _)

theorem helloTaken_foot (p : PortId) (h : Neighbour) (s : State) :
    Foot [.ports, .attn] s (helloTaken p h s) := by
  unfold helloTaken
  dsimp only
  split
  · exact .refl _ _
  · exact listenHello_foot _ _ _
  · split
    · exact (enterUp_foot _ _ _).grow
    · exact barPort_foot _ _ _ _ _
  · split
    · split
      · exact (keepUp_foot _ _ _).grow
      · exact (((State.countPort_foot _ _ _).grow).seq (leaveUp_foot _ _ _)).seq
          (listenHello_foot _ _ _)
    · exact (leaveUp_foot _ _ _).seq (barPort_foot _ _ _ _ _)

theorem releaseLane2_foot (p : PortId) (s : State) : Foot [.ports] s (releaseLane2 p s) :=
  (State.onPort_foot _ _ _).seq (kick_foot _ _)

theorem obeyHold_foot (p : PortId) (t : Nat) (s : State) : Foot [.ports] s (obeyHold p t s) := by
  unfold obeyHold
  split
  · exact (State.countPort_foot _ _ _).seq (releaseLane2_foot _ _)
  · exact State.onPort_foot _ _ _

theorem holdTaken_foot (p : PortId) (bs : Bytes) (s : State) : Foot [.ports] s (holdTaken p bs s) := by
  unfold holdTaken
  dsimp only
  split
  · exact State.countPort_foot _ _ _
  · split
    · exact .refl _ _
    · exact State.countPort_foot _ _ _
    · exact State.countPort_foot _ _ _
    · split
      · exact obeyHold_foot _ _ _
      · exact State.countPort_foot _ _ _

theorem enablePort_foot (p : PortId) (s : State) : Foot [.ports] s (enablePort p s) := by
  unfold enablePort
  dsimp only
  split
  · exact moveLanes_foot _ _ _ _
  · exact .refl _ _

/-- A change of what the ports share. -/
theorem State.onLku_foot (f : Lku → Lku) (s : State) : Foot [.ports, .link] s (s.onLku f) := by
  constructor <;> intro n <;>
    first | rfl | exact ⟨rfl, rfl⟩ | exact ⟨rfl, rfl, rfl⟩ | exact absurd (by decide) n

theorem enableLanes_foot (s : State) : Foot [.ports, .link] s (enableLanes s) := by
  unfold enableLanes
  split
  · exact .refl _ _
  · exact ((State.onLku_foot _ _).seq (enablePort_foot _ _).grow).seq (enablePort_foot _ _).grow

end Sys2Proof.Machine
end

