-- ==== Sys2Proof/Laws/FootBlocks.lean ====
section
/-! SUPPORT. The footprints of the outlets, the roster, the timeline, the spool, the cues and the capture
front. -/

namespace Sys2Proof.Machine

-- One proof after the other: the whole package is compiled as one text, and needs few threads so.
set_option Elab.async false

/-! ### The Air Outlet -/

theorem emitSlot_foot (t : Slot) (c : CloseCause) (rest : List Slot) (s : State) :
    Foot [.aou] s (emitSlot t c rest s) := by
  unfold emitSlot
  exact State.onAou_foot _ _

theorem removeSlot_foot (rest : List Slot) (s : State) : Foot [.aou] s (removeSlot rest s) :=
  State.onAou_foot _ _

theorem drainWindow_foot (n : Nat) (s : State) : Foot [.aou] s (drainWindow n s) := by
  induction n generalizing s with
  | zero => exact .refl _ _
  | succ n ih =>
    unfold drainWindow
    split
    · exact .refl _ _
    · split
      · exact .refl _ _
      · split
        · exact (removeSlot_foot _ _).seq (ih _)
        · split
          · exact (emitSlot_foot _ _ _ _).seq (ih _)
          · exact .refl _ _

theorem startFeed_foot (s : State) : Foot [.aou] s (startFeed s) := by
  unfold startFeed
  split
  · exact State.onAou_foot _ _
  · exact .refl _ _

theorem feedSettle_foot (s : State) : Foot [.aou] s (feedSettle s) :=
  (drainWindow_foot _ _).seq (startFeed_foot _)

theorem takeArrival_foot (a : Arrival) (s : State) : Foot [.aou] s (takeArrival a s) := by
  unfold takeArrival
  dsimp only
  split
  · exact ((State.onAou_foot _ _).seq (State.onAou_foot _ _)).seq (feedSettle_foot _)
  · exact State.onAou_foot _ _

theorem joinSlot_foot (n : Index) (e : List Expected) (s : State) : Foot [.aou] s (joinSlot n e s) :=
  State.onAou_foot _ _

theorem openSlot_foot (n : Index) (e : List Expected) (s : State) :
    Foot [.aou, .attn] s (openSlot n e s) := by
  unfold openSlot
  split
  · exact (joinSlot_foot _ _ _).grow
  · split
    · exact (joinSlot_foot _ _ _).grow
    · split
      · exact (State.onAou_foot _ _).andThen (raiseAttn_foot _ _ _)
      · exact ((State.onAou_foot _ _).andThen (c := [.aou, .attn]) (raiseAttn_foot _ _ _)).seq
          (joinSlot_foot _ _ _).grow

theorem enterCut_foot (c : CutCause) (s : State) : Foot [.aou, .attn] s (enterCut c s) :=
  ((State.onAou_foot _ _).andThen (c := [.aou, .attn]) (raiseAttn_foot _ _ _)).seq
    (feedSettle_foot _).grow

theorem cutTrigger_foot (f : Configuration → Bool) (c : CutCause) (s : State) :
    Foot [.aou, .attn] s (cutTrigger f c s) := by
  unfold cutTrigger
  split
  · dsimp only
    split
    · exact (State.onAou_foot _ _).grow
    · exact (State.onAou_foot _ _).grow.seq (enterCut_foot _ _)
  · exact .refl _ _

theorem leaveCut_foot (s : State) : Foot [.aou] s (leaveCut s) :=
  (State.onAou_foot _ _).seq (feedSettle_foot _)

theorem driveOnRunning_foot (s : State) : Foot [.aou] s (driveOnRunning s) :=
  (State.onAou_foot _ _).seq (feedSettle_foot _)

theorem reportFinished_foot (s : State) : Foot [.aou] s (reportFinished s) := by
  unfold reportFinished
  split
  · exact State.onAou_foot _ _
  · exact .refl _ _

/-! ### The Timeline Unit -/

theorem discardPeriod_foot (s : State) : Foot [.cfr] s (discardPeriod s) := by
  unfold discardPeriod
  split
  · exact .refl _ _
  · exact State.onCfr_foot _ _

theorem leaveLocked_foot (c : Cause) (x : CutCause) (s : State) :
    Foot [.tlu, .cfr, .aou, .attn] s (leaveLocked c x s) :=
  (((State.onTlu_foot _ _).andThen (c := [.tlu, .cfr, .aou, .attn]) (raiseAttn_foot _ _ _)).seq
    (cutTrigger_foot _ _ _).grow).seq (discardPeriod_foot _).grow

theorem adoptEpoch_foot (b : Word) (src : Nat) (s : State) : Foot [.tlu] s (adoptEpoch b src s) :=
  State.onTlu_foot _ _

theorem epochConflict_foot (b : Word) (st : Nat) (s : State) :
    Foot [.tlu, .aou, .attn] s (epochConflict b st s) :=
  ((State.onTlu_foot _ _).andThen (c := [.tlu, .aou, .attn]) (raiseAttn_foot _ _ _)).seq
    (cutTrigger_foot _ _ _).grow

theorem ignoreStart_foot (s : State) : Foot [.tlu] s (ignoreStart s) := State.onTlu_foot _ _

theorem ignoreEnd_foot (s : State) : Foot [.tlu] s (ignoreEnd s) := State.onTlu_foot _ _

theorem startAgainst_foot (e : Epoch) (b : Word) (o : Nat) (s : State) :
    Foot [.tlu, .aou, .attn] s (startAgainst e b o s) := by
  unfold startAgainst
  split
  · exact .refl _ _
  · exact epochConflict_foot _ _ _

theorem startTaken_foot (b : Word) (o : Nat) (s : State) :
    Foot [.tlu, .aou, .attn] s (startTaken b o s) := by
  unfold startTaken
  split
  · split
    · exact (ignoreStart_foot _).grow
    · exact (adoptEpoch_foot _ _ _).grow
  · split
    · split
      · exact (adoptEpoch_foot _ _ _).grow
      · exact (ignoreStart_foot _).grow
    · exact startAgainst_foot _ _ _ _
  · exact startAgainst_foot _ _ _ _
  · exact startAgainst_foot _ _ _ _
  · exact .refl _ _

theorem beaconConflict_foot (b : Word) (st : Nat) (i : Word) (s : State) :
    Foot [.tlu, .aou, .attn] s (beaconConflict b st i s) := by
  unfold beaconConflict
  split
  · exact (State.onTlu_foot _ _).grow.seq (epochConflict_foot _ _ _)
  · split
    · exact .refl _ _
    · split
      · exact (State.onTlu_foot _ _).grow.seq (epochConflict_foot _ _ _)
      · exact epochConflict_foot _ _ _

theorem beaconAgainst_foot (e : Epoch) (b : Word) (st : Nat) (i : Word) (s : State) :
    Foot [.tlu, .aou, .attn] s (beaconAgainst e b st i s) := by
  unfold beaconAgainst
  split
  · exact .refl _ _
  · exact beaconConflict_foot _ _ _ _

theorem beaconEpoch_foot (b : Word) (x : StationState) (st : Nat) (i : Word) (s : State) :
    Foot [.tlu, .aou, .attn] s (beaconEpoch b x st i s) := by
  unfold beaconEpoch
  split
  · split
    · exact (adoptEpoch_foot _ _ _).grow
    · exact .refl _ _
  · exact beaconAgainst_foot _ _ _ _ _
  · exact beaconAgainst_foot _ _ _ _ _
  · exact beaconAgainst_foot _ _ _ _ _
  · exact .refl _ _

theorem enterEnding_foot (l : Index) (s : State) : Foot [.tlu] s (enterEnding l s) :=
  State.onTlu_foot _ _

theorem dropEpoch_foot (b : Word) (s : State) : Foot [.tlu] s (dropEpoch b s) := State.onTlu_foot _ _

theorem endTaken_foot (b : Word) (l : Index) (s : State) : Foot [.tlu] s (endTaken b l s) := by
  unfold endTaken
  split
  · split
    · exact enterEnding_foot _ _
    · exact ignoreEnd_foot _
  · split
    · exact State.onTlu_foot _ _
    · exact ignoreEnd_foot _
  · split
    · exact dropEpoch_foot _ _
    · exact ignoreEnd_foot _
  · exact ignoreEnd_foot _

theorem enterDone_foot (s : State) : Foot [.tlu, .cfr] s (enterDone s) :=
  (State.onTlu_foot _ _).andThen (discardPeriod_foot _)

theorem testDone_foot (s : State) : Foot [.tlu, .cfr] s (testDone s) := by
  unfold testDone
  split
  · exact enterDone_foot _
  · exact .refl _ _

/-! ### The Roster -/

theorem violate_foot (v : Violation) (track st : Nat) (s : State) :
    Foot [.rst, .attn] s (violate v track st s) :=
  (State.onRst_foot _ _).andThen (raiseAttn_foot _ _ _)

theorem acceptAir_foot (o : Nat) (a : AirBody) (s : State) : Foot [.rst, .aou] s (acceptAir o a s) := by
  unfold acceptAir
  dsimp only
  split
  · exact (State.onRst_foot _ _).andThen (takeArrival_foot _ _)
  · exact (State.onRst_foot _ _).grow

theorem rosterAir_foot (o : Nat) (a : AirBody) (s : State) :
    Foot [.rst, .aou, .attn] s (rosterAir o a s) := by
  unfold rosterAir
  split
  · exact .refl _ _
  · split
    · exact (State.onRst_foot _ _).grow
    · split
      · exact (violate_foot _ _ _ _).grow
      · exact (State.onRst_foot _ _).andThen (acceptAir_foot _ _ _)
      · exact (State.onRst_foot _ _).andThen (acceptAir_foot _ _ _)
      · exact (State.onRst_foot _ _).andThen (acceptAir_foot _ _ _)
      · exact (acceptAir_foot _ _ _).grow

theorem makeLocal_foot (e : PatchEntry) (s : State) : Foot [.rst, .attn] s (makeLocal e s) := by
  unfold makeLocal
  dsimp only
  split
  · split
    · exact violate_foot _ _ _ _
    · exact (State.onRst_foot _ _).grow
  · exact .refl _ _
  · exact (State.onRst_foot _ _).grow.seq (violate_foot _ _ _ _)
  · exact violate_foot _ _ _ _
  · exact violate_foot _ _ _ _

theorem makeLocals_foot (es : List (Nat × PatchEntry)) (s : State) :
    Foot [.rst, .attn] s (makeLocals es s) := by
  induction es generalizing s with
  | nil => exact .refl _ _
  | cons e rest ih => exact (makeLocal_foot _ _).seq (ih _)

theorem fillRoster_foot (s : State) : Foot [.rst, .attn] s (fillRoster s) :=
  (State.onRst_foot _ _).grow.seq (makeLocals_foot _ _)

theorem flushPeer_foot (st : Nat) (s : State) : Foot [.rst] s (flushPeer st s) :=
  State.onRst_foot _ _

theorem rosterCue_foot (i : Nat) (v : CueValue) (s : State) :
    Foot [.rst, .attn] s (rosterCue i v s) := by
  unfold rosterCue
  split
  · exact .refl _ _
  · split
    · exact makeLocals_foot _ _
    · exact (State.onRst_foot _ _).grow

theorem ageRoster_foot (n : Index) (s : State) : Foot [.rst] s (ageRoster n s) := by
  unfold ageRoster
  split
  · exact State.onRst_foot _ _
  · exact .refl _ _

/-! ### The Keep Spool and the Keep Outlet -/

theorem appendKeep_foot (b : KeepBody) (s : State) : Foot [.ksp, .attn] s (appendKeep b s) := by
  unfold appendKeep
  split
  · exact .refl _ _
  · split
    · dsimp only
      split
      · exact (State.onKsp_foot _ _).andThen (raiseAttn_foot _ _ _)
      · exact (State.onKsp_foot _ _).grow
    · exact (State.onKsp_foot _ _).grow

theorem moveFree_foot (t : Word) (s : State) : Foot [.ksp] s (moveFree t s) := by
  unfold moveFree
  exact State.onKsp_foot _ _

theorem recomputeFree_foot (s : State) : Foot [.ksp] s (recomputeFree s) := by
  unfold recomputeFree
  split
  · exact .refl _ _
  · split
    · split
      · exact State.onKsp_foot _ _
      · exact moveFree_foot _ _
    · exact .refl _ _

theorem advanceDrain_foot (s : State) : Foot [.ksp] s (advanceDrain s) := State.onKsp_foot _ _

theorem archiveSettle_foot (s : State) : Foot [.kou] s (archiveSettle s) := State.onKou_foot _ _

theorem tellOwnSpool_foot (o : Nat) (i : Word) (s : State) : Foot [.ksp] s (tellOwnSpool o i s) := by
  unfold tellOwnSpool
  split
  · exact recomputeFree_foot _
  · exact .refl _ _

theorem takeKeep_foot (o : Nat) (i : Word) (b : KeepBody) (f : Word) (s : State) :
    Foot [.kou, .ksp] s (takeKeep o i b f s) := by
  unfold takeKeep
  split
  · exact .refl _ _
  · dsimp only
    have h : ∀ k : Kou → Kou, Foot [.kou] s (archiveSettle (s.onKou k)) := fun k =>
      (State.onKou_foot _ _).seq (archiveSettle_foot _)
    split
    · exact (h _).andThen (tellOwnSpool_foot _ _ _)
    · exact (h _).andThen (tellOwnSpool_foot _ _ _)
    all_goals exact (h _).grow

theorem recordSent_foot (r : ArchiveRecord) (s : State) : Foot [.kou, .ksp] s (recordSent r s) := by
  unfold recordSent
  split
  · exact .refl _ _
  · split
    · exact .refl _ _
    · split
      · exact (State.onKou_foot _ _).andThen (tellOwnSpool_foot _ _ _)
      · exact .refl _ _

/-! ### The Peer and Cue Unit -/

theorem applyCue_foot (c : Cue) (s : State) : Foot [.pcu, .rst, .attn] s (applyCue c s) := by
  unfold applyCue
  split
  · exact (State.onPcu_foot _ _).andThen (rosterCue_foot _ _ _)
  · exact (State.onPcu_foot _ _).grow

theorem cueTaken_foot (o : Nat) (b : CueBody) (s : State) :
    Foot [.pcu, .rst, .attn] s (cueTaken o b s) := by
  unfold cueTaken
  split
  · exact (State.onPcu_foot _ _).grow
  · exact (State.onPcu_foot _ _).grow.seq (applyCue_foot _ _)

theorem mergeItem_foot (c : Cue) (s : State) : Foot [.pcu, .rst, .attn] s (mergeItem c s) :=
  (State.onPcu_foot _ _).grow.seq (applyCue_foot _ _)

theorem mergeItems_foot (n : Nat) (bs : List BeaconItem) (s : State) :
    Foot [.pcu, .rst, .attn] s (mergeItems n bs s) := by
  induction bs generalizing n s with
  | nil => exact .refl _ _
  | cons b rest ih => exact (mergeItem_foot _ _).seq (ih _ _)

theorem setPeer_foot (st : Nat) (p : Option Peer) (s : State) : Foot [.pcu] s (setPeer st p s) :=
  State.onPcu_foot _ _

theorem newPeer_foot (st : Nat) (p : Peer) (s : State) : Foot [.pcu, .attn] s (newPeer st p s) :=
  ((State.onPcu_foot _ _).seq (setPeer_foot _ _ _)).andThen (raiseAttn_foot _ _ _)

theorem renewPeer_foot (st : Nat) (o : Word) (p : Peer) (s : State) :
    Foot [.pcu, .rst, .attn] s (renewPeer st o p s) :=
  (((State.onPcu_foot _ _).seq (setPeer_foot _ _ _)).andThen (c := [.pcu, .rst, .attn])
    (flushPeer_foot _ _)).seq (raiseAttn_foot _ _ _).grow

theorem peerTaken_foot (st : Nat) (p : Peer) (s : State) :
    Foot [.pcu, .rst, .attn] s (peerTaken st p s) := by
  unfold peerTaken
  split
  · exact (newPeer_foot _ _ _).grow
  · split
    · exact (setPeer_foot _ _ _).grow
    · split
      · exact renewPeer_foot _ _ _ _
      · exact .refl _ _

theorem handBase_foot (b : BeaconBody) (x : StationState) (st : Nat) (i : Word) (s : State) :
    Foot [.tlu, .aou, .attn] s (handBase b x st i s) := by
  unfold handBase
  split
  · exact .refl _ _
  · exact beaconEpoch_foot _ _ _ _ _

theorem beaconTaken_foot (h : RingHeader) (b : BeaconBody) (s : State) :
    Foot [.pcu, .rst, .attn, .tlu, .aou, .ksp] s (beaconTaken h b s) := by
  unfold beaconTaken
  split
  · exact (State.onPcu_foot _ _).grow
  · dsimp only
    refine .seq ?_ (State.onPcu_foot _ _).grow
    have k : ∀ x p, Foot [.pcu, .rst, .attn, .tlu, .aou, .ksp] s
        (handBase b x h.origin h.incarnation (mergeItems 0 b.items (peerTaken h.origin p s))) :=
      fun x p => ((peerTaken_foot _ _ _).seq (mergeItems_foot _ _ _)).andThen (handBase_foot _ _ _ _ _)
    split
    · exact (k _ _).seq (recomputeFree_foot _).grow
    · exact k _ _

theorem losePeer_foot (st : Nat) (p : Peer) (s : State) :
    Foot [.pcu, .rst, .ksp, .attn] s (losePeer st p s) := by
  unfold losePeer
  dsimp only
  refine .seq (.seq ?_ (State.onPcu_foot _ _).grow) (raiseAttn_foot _ _ _).grow
  have k : Foot [.pcu, .rst, .ksp, .attn] s (flushPeer st (setPeer st none s)) :=
    (setPeer_foot _ _ _).andThen (flushPeer_foot _ _)
  split
  · exact k.seq (recomputeFree_foot _).grow
  · exact k

/-! ### The Capture Front -/

theorem State.onLine_foot (k : Nat) (f : CaptureLine → CaptureLine) (s : State) :
    Foot [.cfr] s (s.onLine k f) := State.onCfr_foot _ _

theorem lineError_foot (k : Nat) (f : CaptureFlag) (s : State) :
    Foot [.cfr, .attn] s (lineError k f s) := by
  unfold lineError
  dsimp only
  split
  · exact (State.onLine_foot _ _ _).grow
  · exact (State.onLine_foot _ _ _).andThen (raiseAttn_foot _ _ _)

theorem frameComplete_foot (k : Nat) (f : List LineSlot) (s : State) :
    Foot [.cfr, .attn] s (frameComplete k f s) := by
  unfold frameComplete
  split
  · exact (State.onLine_foot _ _ _).grow
  · exact lineError_foot _ _ _

theorem framingLost_foot (k : Nat) (s : State) : Foot [.cfr, .attn] s (framingLost k s) :=
  (lineError_foot _ _ _).seq (State.onLine_foot _ _ _).grow

theorem receiveBits_foot (k n : Nat) (bits : List Bool) (s : State) :
    Foot [.cfr, .attn] s (receiveBits k n bits s) := by
  induction n generalizing bits s with
  | zero => exact .refl _ _
  | succ n ih =>
    unfold receiveBits
    dsimp only
    split
    · exact .refl _ _
    · split
      · exact (State.onLine_foot _ _ _).grow
      · exact (State.onLine_foot _ _ _).grow.seq (ih _ _)
    · split
      · exact (framingLost_foot _ _).seq (ih _ _)
      · split
        · exact (State.onLine_foot _ _ _).grow
        · exact (frameComplete_foot _ _ _).seq (ih _ _)

theorem lineBits_foot (k : Nat) (bits : List Bool) (s : State) :
    Foot [.cfr, .attn] s (lineBits k bits s) := receiveBits_foot _ _ _ _

theorem clockStops_foot (k : Nat) (s : State) : Foot [.cfr, .attn] s (clockStops k s) := by
  unfold clockStops
  split
  · exact .refl _ _
  · exact .refl _ _
  · exact (State.onLine_foot _ _ _).grow

/-- The runs after the first go on from where the first leaves the line, once its clock has stopped. -/
theorem lineRuns_cons (k : Nat) (bits next : List Bool) (later : List (List Bool)) (s : State) :
    lineRuns k (bits :: next :: later) s =
      lineRuns k (next :: later) (clockStops k (lineBits k bits s)) := rfl

theorem lineRuns_foot (k : Nat) (runs : List (List Bool)) (s : State) :
    Foot [.cfr, .attn] s (lineRuns k runs s) := by
  induction runs generalizing s with
  | nil => exact .refl _ _
  | cons bits later ih =>
    cases later with
    | nil => exact lineBits_foot _ _ _
    | cons next later =>
      rw [lineRuns_cons]
      exact ((lineBits_foot _ _ _).seq (clockStops_foot _ _)).seq (ih _)

theorem lineErrors_foot (k : Nat) (f : CaptureFlag) (n : Nat) (s : State) :
    Foot [.cfr, .attn] s (lineErrors k f n s) := by
  induction n generalizing s with
  | zero => exact .refl _ _
  | succ n ih => exact (lineError_foot _ _ _).seq (ih _)

theorem afterTake_foot (k : Nat) (s : State) : Foot [.cfr, .attn] s (afterTake k s) := by
  unfold afterTake
  dsimp only
  split
  · exact .refl _ _
  · exact .refl _ _
  · exact lineError_foot _ _ _
  · exact (State.onLine_foot _ _ _).grow.seq (lineErrors_foot _ _ _ _)

theorem takeLine_foot (k : Nat) (s : State) : Foot [.cfr, .attn] s (takeLine k s) :=
  (State.onCfr_foot _ _).grow.seq (afterTake_foot _ _)

theorem takeAll_foot (s : State) : Foot [.cfr, .attn] s (takeAll s) := by
  unfold takeAll
  split
  · exact .refl _ _
  · exact (((takeLine_foot _ _).seq (takeLine_foot _ _)).seq (takeLine_foot _ _)).seq
      (takeLine_foot _ _)

end Sys2Proof.Machine
end

