-- ==== Sys2Proof/Laws/FootRing.lean ====
section
/-! SUPPORT. The footprints of the Delivery Unit, the drain, the coder and the boundary. -/

namespace Sys2Proof.Machine

-- One proof after the other: the whole package is compiled as one text, and needs few threads so.
set_option Elab.async false

/-! ### The Delivery Unit -/

/-- What a block does with a frame of a kind delivered to it. -/
def RingKind.parts : RingKind → Bool → List Part
  | .start, _ => [.tlu, .aou, .attn]
  | .endFrame, _ => [.tlu]
  | .cue, _ => [.pcu, .rst, .attn]
  | .beacon, true => []
  | .beacon, false => [.pcu, .rst, .attn, .tlu, .aou, .ksp]
  | .air, true => [.aou]
  | .air, false => [.rst, .aou, .attn]
  | .keep, _ => [.kou, .ksp]

theorem toBlock_foot (k : RingKind) (own : Bool) (bs : Bytes) (s : State) :
    Foot (k.parts own) s (toBlock k own bs s) := by
  cases k <;> cases own
  all_goals first
    | exact startTaken_foot _ _ _
    | exact endTaken_foot _ _ _
    | exact cueTaken_foot _ _ _
    | exact .refl _ _
    | exact beaconTaken_foot _ _ _
    | exact takeArrival_foot _ _
    | exact rosterAir_foot _ _ _
    | exact takeKeep_foot _ _ _ _ _

theorem deliver_foot (k : RingKind) (own : Bool) (bs : Bytes) (s : State) :
    Foot (.dlu :: k.parts own) s (deliver k own bs s) := by
  unfold deliver
  split
  · refine .andThen (State.countDlu_foot _ _) (toBlock_foot _ _ _ _) (fun x h => ?_) (fun x h => ?_)
    · simp_all
    · exact List.mem_cons_of_mem _ h
  · exact .refl _ _

theorem originateFrame_foot (k : RingKind) (body : Bytes) (s : State) :
    Foot (.ports :: .dlu :: k.parts true) s (originateFrame k body s) := by
  unfold originateFrame
  dsimp only
  refine .seq ?_ ((deliver_foot _ _ _ _).grow fun x h => List.mem_cons_of_mem _ h)
  refine .seq (.seq ?_ ((offerFrame_foot _ _ _ _).grow fun x h => by simp_all))
    ((offerFrame_foot _ _ _ _).grow fun x h => by simp_all)
  exact (State.onDlu_foot_unmuted _ _ rfl).grow fun x h => by simp_all

theorem originate_foot (k : RingKind) (body : Bytes) (s : State) :
    Foot (.ports :: .dlu :: k.parts true) s (originate k body s) := by
  unfold originate
  split
  · exact (State.countDlu_foot _ _).grow fun x h => by simp_all
  · exact originateFrame_foot _ _ _

theorem setFilter_foot (st : Nat) (e : FilterEntry) (s : State) : Foot [.dlu] s (setFilter st e s) :=
  State.onDlu_foot_unmuted _ _ rfl

theorem relay_foot (p : PortId) (k : RingKind) (bs : Bytes) (s : State) :
    Foot [.ports, .dlu] s (relay p k bs s) :=
  (State.countDlu_foot _ _).andThen (offerFrame_foot _ _ _ _)

/-- What a frame of another origin can change. -/
def receiveParts : List Part :=
  [.ports, .dlu, .muted, .tlu, .rst, .pcu, .aou, .ksp, .kou, .attn]

theorem firstCopy_foot (p : PortId) (k : RingKind) (bs : Bytes) (e : FilterEntry) (s : State) :
    Foot receiveParts s (firstCopy p k bs e s) := by
  have h : Foot receiveParts s (relay p k bs (setFilter (ringHeader bs).origin e s)) :=
    (setFilter_foot _ _ _).andThen (relay_foot _ _ _ _)
  refine h.seq ?_
  cases k <;> exact (deliver_foot _ _ _ _).grow

theorem otherOrigin_foot (p : PortId) (k : RingKind) (bs : Bytes) (s : State) :
    Foot receiveParts s (otherOrigin p k bs s) := by
  unfold otherOrigin
  split
  · exact firstCopy_foot _ _ _ _ _
  · exact (State.countDlu_foot _ _).grow.seq (firstCopy_foot _ _ _ _ _)
  · exact (State.countDlu_foot _ _).grow
  · exact (State.countDlu_foot _ _).grow

theorem duplicateId_foot (p : PortId) (h : RingHeader) (s : State) :
    Foot [.dlu, .muted, .attn, .aou] s (duplicateId p h s) := by
  unfold duplicateId
  dsimp only
  split
  · exact (State.countDlu_foot _ _).grow
  · exact (((State.countDlu_foot _ _).grow.seq (State.onDlu_foot _ _).grow).seq
      (raiseAttn_foot _ _ _).grow).seq (cutTrigger_foot _ _ _).grow

theorem ownOrigin_foot (p : PortId) (bs : Bytes) (s : State) :
    Foot [.dlu, .muted, .attn, .aou] s (ownOrigin p bs s) := by
  unfold ownOrigin
  split
  · exact duplicateId_foot _ _ _
  · exact (State.countDlu_foot _ _).grow
  · exact (State.countDlu_foot _ _).grow

theorem admitted_foot (p : PortId) (k : RingKind) (bs : Bytes) (s : State) :
    Foot receiveParts s (admitted p k bs s) := by
  unfold admitted
  split
  · exact (State.countDlu_foot _ _).grow
  · split
    · exact (State.countDlu_foot _ _).grow
    · split
      · exact (ownOrigin_foot _ _ _).grow
      · exact otherOrigin_foot _ _ _ _

theorem unknownKind_foot (bs : Bytes) (s : State) : Foot [.dlu] s (unknownKind bs s) := by
  unfold unknownKind
  split <;> exact State.countDlu_foot _ _

theorem admission_foot (p : PortId) (bs : Bytes) (s : State) : Foot receiveParts s (admission p bs s) := by
  unfold admission
  split
  · exact .refl _ _
  · exact (State.countPort_foot _ _ _).grow
  · exact (State.countPort_foot _ _ _).grow
  · split
    · exact (unknownKind_foot _ _).grow
    · split
      · exact (State.countPort_foot _ _ _).grow
      · split
        · exact (State.countPort_foot _ _ _).grow
        · exact admitted_foot _ _ _ _

theorem receiveHello_foot (p : PortId) (bs : Bytes) (s : State) :
    Foot [.ports, .attn] s (receiveHello p bs s) := by
  unfold receiveHello
  split
  · exact (State.countPort_foot _ _ _).grow
  · exact helloTaken_foot _ _ _

theorem receiveFrame_foot (p : PortId) (bs : Bytes) (s : State) :
    Foot receiveParts s (receiveFrame p bs s) := by
  unfold receiveFrame
  split
  · exact .refl _ _
  · split
    · exact (State.countPort_foot _ _ _).grow
    · split
      · exact (State.countPort_foot _ _ _).grow
      · split
        · exact (receiveHello_foot _ _ _).grow
        · split
          · exact (holdTaken_foot _ _ _).grow
          · exact admission_foot _ _ _

/-! ### The drain and the tests at the end of an event -/

theorem sendEntry_foot (b : KeepBody) (s : State) :
    Foot [.ports, .dlu, .kou, .ksp] s (sendEntry b s) :=
  (originate_foot .keep _ _).seq (advanceDrain_foot _).grow

theorem drainLoop_foot (n : Nat) (s : State) : Foot [.ports, .dlu, .kou, .ksp] s (drainLoop n s) := by
  induction n generalizing s with
  | zero => exact .refl _ _
  | succ n ih =>
    unfold drainLoop
    split
    · exact (sendEntry_foot _ _).seq (ih _)
    · exact .refl _ _

theorem drain_foot (s : State) : Foot [.ports, .dlu, .kou, .ksp] s (drain s) := drainLoop_foot _ _

/-- What the tests at the end of an event can change. -/
def settleParts : List Part := [.ports, .dlu, .kou, .ksp, .aou, .tlu, .cfr]

theorem settle_foot (s : State) : Foot settleParts s (settle s) :=
  ((drain_foot _).grow.seq (reportFinished_foot _).grow).seq (testDone_foot _).grow

theorem restartBeacon_foot (s : State) : Foot [.pcu] s (restartBeacon s) := State.onPcu_foot _ _

theorem sendBeacon_foot (s : State) : Foot [.ports, .dlu, .pcu] s (sendBeacon s) :=
  (originate_foot .beacon _ _).andThen (restartBeacon_foot _)

/-! ### The coder -/

theorem makeAir_foot (b : Batch) (g : Segment) (s : State) :
    Foot [.sgc, .ports, .dlu, .aou] s (makeAir b g s) := by
  unfold makeAir
  split
  · exact (State.onSgc_foot _ _).andThen (originate_foot .air _ _)
  · exact .refl _ _

theorem makeKeep_foot (g : Segment) (s : State) : Foot [.sgc, .ksp, .attn] s (makeKeep g s) := by
  unfold makeKeep
  split
  · exact (State.onSgc_foot _ _).andThen (appendKeep_foot _ _)
  · exact .refl _ _

theorem completeBatch_foot (b : Batch) (s : State) : Foot [.sgc, .tlu] s (completeBatch b s) :=
  (State.onSgc_foot _ _).andThen (State.onTlu_foot _ _)

theorem continueBatch_foot (b : Batch) (rest : List Segment) (s : State) :
    Foot [.sgc, .tlu] s (continueBatch b rest s) := by
  unfold continueBatch
  split
  · exact completeBatch_foot _ _
  · exact (State.onSgc_foot _ _).grow

/-- What coding a segment can change. -/
def codeParts : List Part := [.sgc, .ports, .dlu, .aou, .ksp, .kou, .attn, .tlu]

theorem codeSegment_foot (s : State) : Foot codeParts s (codeSegment s) := by
  unfold codeSegment
  split
  · exact .refl _ _
  · split
    · exact (completeBatch_foot _ _).grow
    · exact (((makeAir_foot _ _ _).grow.seq (makeKeep_foot _ _).grow).seq (drain_foot _).grow).seq
        (continueBatch_foot _ _ _).grow

theorem codeSegments_foot (n : Nat) (s : State) : Foot codeParts s (codeSegments n s) := by
  induction n generalizing s with
  | zero => exact .refl _ _
  | succ n ih => exact (codeSegment_foot _).seq (ih _)

theorem finishBatch_foot (s : State) : Foot codeParts s (finishBatch s) := by
  unfold finishBatch
  split
  · exact .refl _ _
  · exact codeSegments_foot _ _

theorem takeBatch_foot (b : Batch) (s : State) : Foot [.sgc, .tlu] s (takeBatch b s) := by
  unfold takeBatch
  split
  · exact completeBatch_foot _ _
  · exact (State.onSgc_foot _ _).grow

theorem gradeBoundary_foot (e : Bool) (s : State) : Foot [.sgc] s (gradeBoundary e s) := by
  unfold gradeBoundary
  exact State.onSgc_foot _ _

/-! ### The boundary and the mark -/

theorem tluBoundary_foot (c : Word) (s : State) : Foot [.tlu, .attn] s (tluBoundary c s) := by
  unfold tluBoundary
  dsimp only
  split
  · exact (State.onTlu_foot _ _).andThen (raiseAttn_foot _ _ _)
  · exact (State.onTlu_foot _ _).grow

theorem closePeriod_foot (p : Option Index) (s : State) :
    Foot [.cfr, .sgc, .tlu] s (closePeriod p s) := by
  unfold closePeriod
  split
  · exact .refl _ _
  · dsimp only
    split
    · exact ((State.onCfr_foot _ _).seq (State.onCfr_foot _ _)).andThen (takeBatch_foot _ _)
    · exact (State.onCfr_foot _ _).grow

theorem openPeriod_foot (p : Option Index) (s : State) : Foot [.cfr] s (openPeriod p s) :=
  State.onCfr_foot _ _

theorem gradeAt_foot (p : Option Index) (e : Bool) (s : State) : Foot [.sgc] s (gradeAt p e s) := by
  unfold gradeAt
  split
  · exact gradeBoundary_foot _ _
  · exact .refl _ _

theorem ageAt_foot (p : Option Index) (s : State) : Foot [.rst] s (ageAt p s) := by
  unfold ageAt
  split
  · exact .refl _ _
  · exact ageRoster_foot _ _

theorem slotAt_foot (p : Option Index) (e : List Expected) (s : State) :
    Foot [.aou, .attn] s (slotAt p e s) := by
  unfold slotAt
  split
  · exact .refl _ _
  · split
    · exact openSlot_foot _ _ _
    · exact .refl _ _

theorem driverAt_foot (e : Bool) (s : State) : Foot [.aou] s (driverAt e s) := by
  unfold driverAt
  split
  · exact driveOnRunning_foot _
  · exact .refl _ _

/-- What a mark can change. -/
def markParts : List Part := [.tlu, .cfr, .sgc, .ports, .dlu, .rst, .aou, .ksp, .kou, .attn]

theorem takeBoundary_foot (c : Word) (s : State) : Foot markParts s (takeBoundary c s) := by
  unfold takeBoundary
  dsimp only
  exact (((((((((finishBatch_foot _).grow.seq (tluBoundary_foot _ _).grow).seq
    (gradeAt_foot _ _ _).grow).seq (closePeriod_foot _ _).grow).seq (openPeriod_foot _ _).grow).seq
    (ageAt_foot _ _).grow).seq (driverAt_foot _ _).grow).seq (slotAt_foot _ _ _).grow).seq
    (feedSettle_foot _).grow)

theorem takeMark_foot (c : Word) (n : Nat) (s : State) : Foot markParts s (takeMark c n s) := by
  unfold takeMark
  dsimp only
  split
  · exact (State.onTlu_foot _ _).grow
  · exact (State.onTlu_foot _ _).grow
  · split
    · split
      · exact (State.onTlu_foot _ _).grow.seq (takeBoundary_foot _ _)
      · exact (State.onTlu_foot _ _).grow
    · exact (State.onTlu_foot _ _).grow
  · split
    · exact (State.onTlu_foot _ _).grow.seq (takeBoundary_foot _ _)
    · exact ((State.onTlu_foot _ _).grow.seq (State.onTlu_foot _ _).grow).seq
        (leaveLocked_foot _ _ _).grow

theorem loseReference_foot (s : State) : Foot [.tlu, .cfr, .aou, .attn] s (loseReference s) := by
  unfold loseReference
  dsimp only
  split
  · exact ((State.onTlu_foot _ _).grow.seq (State.onTlu_foot _ _).grow).seq (leaveLocked_foot _ _ _)
  · exact (State.onTlu_foot _ _).grow

end Sys2Proof.Machine
end

