-- ==== Sys2Proof/Laws/FootCommands.lean ====
section
/-! SUPPORT. The footprints of LOAD, the console and the events; what no command changes. -/

namespace Sys2Proof.Machine

-- One proof after the other: the whole package is compiled as one text, and needs few threads so.
set_option Elab.async false

/-! ### LOAD -/

theorem startHello_foot (s : State) : Foot [.ports, .link] s (startHello s) :=
  ((State.onLku_foot _ _).seq (offerHello_foot _ _).grow).seq (offerHello_foot _ _).grow

/-- What a successful LOAD can change. -/
def loadParts : List Part := [.tlu, .cfr, .ports, .link, .dlu, .pcu, .aou, .kou, .console]

theorem loadBlocks_foot (c : Configuration) (d : Word) (s : State) :
    Foot loadParts s (loadBlocks c d s) := by
  constructor <;> intro n <;>
    first | rfl | exact ⟨rfl, rfl⟩ | exact ⟨rfl, rfl, rfl⟩ | exact absurd (by decide) n

theorem applyLoad_foot (c : Configuration) (d : Word) (s : State) :
    Foot loadParts s (applyLoad c d s) := by
  unfold applyLoad
  dsimp only
  refine .seq ?_ (archiveSettle_foot _).grow
  split
  · exact (loadBlocks_foot _ _ _).seq (startHello_foot _).grow
  · exact loadBlocks_foot _ _ _

/-! ### Replies -/

theorem countCsu_foot (f : CsuCounts → CsuCounts) (s : State) : Foot [.console] s (s.countCsu f) :=
  State.onCsu_foot_quiet _ _ ⟨rfl, rfl⟩

theorem sendReply_foot (r : Reply) (s : State) : Foot [.console] s (sendReply r s) :=
  State.onCsu_foot_quiet _ _ ⟨rfl, rfl⟩

theorem speak_foot (s : State) : Foot [.console] s (speak s) := State.onCsu_foot_quiet _ _ ⟨rfl, rfl⟩

theorem repliesSent_foot (s : State) : Foot [.console] s (repliesSent s) :=
  State.onCsu_foot_quiet _ _ ⟨rfl, rfl⟩

theorem refuseLine_foot (c : RefusalCode) (s : State) : Foot [.console] s (refuseLine c s) :=
  (countCsu_foot _ _).seq (sendReply_foot _ _)

/-! ### Commands -/

/-- What a taken command can change: everything but the queue, local time and the muting cause. -/
def commandParts : List Part :=
  [.tlu, .cfr, .sgc, .ports, .link, .dlu, .rst, .pcu, .aou, .ksp, .kou, .attn, .console]

theorem armBlocks_foot (s : State) : Foot commandParts s (armBlocks s) := by
  constructor <;> intro n <;>
    first | rfl | exact ⟨rfl, rfl⟩ | exact ⟨rfl, rfl, rfl⟩ | exact absurd (by decide) n

theorem zeroCounts_foot (s : State) : Foot commandParts s (zeroCounts s) := by
  constructor <;> intro n <;>
    first | rfl | exact ⟨rfl, rfl⟩ | exact ⟨rfl, rfl, rfl⟩ | exact absurd (by decide) n

theorem showEffect_foot (i : ShowItem) (s : State) : Foot [.console] s (showEffect i s) :=
  sendReply_foot _ _

theorem watchReport_foot (i : ShowItem) (s : State) : Foot [.console] s (watchReport i s) :=
  (State.onCsu_foot_quiet _ _ ⟨rfl, rfl⟩).seq (sendReply_foot _ _)

theorem watchEffect_foot (i : Option ShowItem) (s : State) : Foot [.console] s (watchEffect i s) := by
  unfold watchEffect
  split
  · exact .refl _ _
  · exact watchReport_foot _ _

theorem loadEffect_foot (s : State) : Foot [.console] s (loadEffect s) :=
  (State.onCsu_foot_quiet _ _ ⟨rfl, rfl⟩).seq (sendReply_foot _ _)

theorem armEffect_foot (s : State) : Foot commandParts s (armEffect s) :=
  ((((armBlocks_foot _).seq (fillRoster_foot _).grow).seq (enableLanes_foot _).grow).seq
    (sendBeacon_foot _).grow).seq (sendReply_foot _ _).grow

theorem goEffect_foot (s : State) :
    Foot [.tlu, .ports, .dlu, .aou, .attn, .console] s (goEffect s) :=
  ((adoptEpoch_foot _ _ _).grow.seq (originate_foot .start _ _).grow).seq (sendReply_foot _ _).grow

theorem endEffect_foot (s : State) :
    Foot [.tlu, .ports, .dlu, .kou, .ksp, .aou, .cfr, .console] s (endEffect s) :=
  (((enterEnding_foot _ _).grow.seq (originate_foot .endFrame _ _).grow).seq
    (settle_foot _).grow).seq (sendReply_foot _ _).grow

theorem cueEffect_foot (i : Nat) (v : CueWord) (s : State) :
    Foot [.ports, .dlu, .pcu, .rst, .attn, .console] s (cueEffect i v s) :=
  (originate_foot .cue _ _).grow.seq (sendReply_foot _ _).grow

theorem cutEffect_foot (s : State) :
    Foot [.ports, .dlu, .kou, .ksp, .aou, .tlu, .cfr, .attn, .console] s (cutEffect s) :=
  ((cutTrigger_foot _ _ _).grow.seq (settle_foot _).grow).seq (sendReply_foot _ _).grow

theorem uncutEffect_foot (s : State) :
    Foot [.ports, .dlu, .kou, .ksp, .aou, .tlu, .cfr, .console] s (uncutEffect s) := by
  have h : Foot [.ports, .dlu, .kou, .ksp, .aou, .tlu, .cfr, .console] s
      (if s.isCut then settle (leaveCut s) else s) := by
    split
    · exact (leaveCut_foot s).grow.seq (settle_foot (leaveCut s)).grow
    · exact .refl _ _
  exact h.seq (sendReply_foot _ _).grow

theorem clearAttnEffect_foot (m : Nat) (s : State) :
    Foot [.attn, .console] s (clearAttnEffect m s) :=
  (State.onCsu_foot _ _).grow.seq (sendReply_foot _ _).grow

theorem clearCaptureEffect_foot (m : Nat) (s : State) :
    Foot [.cfr, .console] s (clearCaptureEffect m s) :=
  (State.onCfr_foot _ _).andThen (sendReply_foot _ _)

theorem clearCountsEffect_foot (s : State) : Foot commandParts s (clearCountsEffect s) :=
  (zeroCounts_foot _).seq (sendReply_foot _ _).grow

theorem resetEffect_foot (s : State) : Foot [.console] s (resetEffect s) :=
  (State.onCsu_foot_quiet _ _ ⟨rfl, rfl⟩).seq (sendReply_foot _ _)

theorem effectOf_foot (c : Instr) (s : State) : Foot commandParts s (effectOf c s) := by
  cases c with
  | load => exact (loadEffect_foot s).grow
  | showState => exact (showEffect_foot .state s).grow
  | showRef => exact (showEffect_foot .ref s).grow
  | showPorts => exact (showEffect_foot .ports s).grow
  | showLanes => exact (showEffect_foot .lanes s).grow
  | showFilter => exact (showEffect_foot .filter s).grow
  | showRoster => exact (showEffect_foot .roster s).grow
  | showCues => exact (showEffect_foot .cues s).grow
  | showPeers => exact (showEffect_foot .peers s).grow
  | showSlots => exact (showEffect_foot .slots s).grow
  | showFeed => exact (showEffect_foot .feed s).grow
  | showSpool => exact (showEffect_foot .spool s).grow
  | showTake => exact (showEffect_foot .take s).grow
  | showCapture => exact (showEffect_foot .capture s).grow
  | showCounts => exact (showEffect_foot .counts s).grow
  | showAttn => exact (showEffect_foot .attn s).grow
  | showConfig => exact (showEffect_foot .config s).grow
  | watch item => exact (watchEffect_foot item s).grow
  | arm => exact armEffect_foot s
  | go => exact (goEffect_foot s).grow
  | endPerformance => exact (endEffect_foot s).grow
  | cue item v => exact (cueEffect_foot item v s).grow
  | cut => exact (cutEffect_foot s).grow
  | uncut => exact (uncutEffect_foot s).grow
  | clearAttn mask => exact (clearAttnEffect_foot mask s).grow
  | clearCapture mask => exact (clearCaptureEffect_foot mask s).grow
  | clearCounts => exact clearCountsEffect_foot s
  | reset => exact (resetEffect_foot s).grow
  | _ => exact .refl _ _

/-- A command changes at most what its effect changes, and the console. -/
theorem command_foot {ps : List Part} (r : State → Option RefusalCode) (e : State → State) (s : State)
    (h : ∀ t, Foot ps t (e t)) (m : Part.console ∈ ps) : Foot ps s (command r e s) := by
  have g : ∀ x ∈ [Part.console], x ∈ ps := by simp [m]
  unfold command
  split
  · exact (refuseLine_foot _ _).grow g
  · exact ((countCsu_foot _ _).grow g).seq (h _)

theorem commandRow_foot {ps : List Part} (r : State → Option RefusalCode) (e : State → State)
    (s : State) (h : ∀ t, Foot ps t (e t)) (m : Part.console ∈ ps) :
    Foot ps s (commandRow r e s) := by
  unfold commandRow
  split
  · exact (((speak_foot _).seq (repliesSent_foot _)).grow (by simp [m])).seq (command_foot r e _ h m)
  · exact .refl _ _

theorem executeWords_foot (ws : List Bytes) (s : State) : Foot commandParts s (executeWords ws s) := by
  unfold executeWords
  split
  · exact (refuseLine_foot _ _).grow
  · split
    · exact command_foot _ _ _ (effectOf_foot _) (by decide)
    · exact (refuseLine_foot _ _).grow

theorem dealWithLine_foot (l : CommandLine) (s : State) : Foot commandParts s (dealWithLine l s) := by
  unfold dealWithLine
  split
  · exact (refuseLine_foot _ _).grow
  · split
    · exact (refuseLine_foot _ _).grow
    · split
      · exact .refl _ _
      · exact executeWords_foot _ _

theorem takeLineWith_foot (sent : State → State) (s : State) (h : ∀ t, Foot [.console] t (sent t)) :
    Foot commandParts s (takeLineWith sent s) := by
  unfold takeLineWith
  split
  · exact .refl _ _
  · split
    · exact (((State.onCsu_foot_quiet _ _ ⟨rfl, rfl⟩).seq (speak_foot _)).seq (h _)).grow.seq
        (dealWithLine_foot _ _)
    · exact .refl _ _

theorem takeLineWaiting_foot (s : State) : Foot commandParts s (takeLineWaiting s) :=
  takeLineWith_foot _ _ repliesSent_foot

/-! ### Characters -/

theorem abandonLoad_foot (r : Reply) (s : State) : Foot [.console] s (abandonLoad r s) :=
  ((State.onCsu_foot_quiet _ _ ⟨rfl, rfl⟩).seq (countCsu_foot _ _)).seq (sendReply_foot _ _)

theorem finishLoad_foot (b : Bytes) (s : State) : Foot loadParts s (finishLoad b s) := by
  unfold finishLoad
  split
  · exact (abandonLoad_foot _ _).grow
  · exact ((State.onCsu_foot_quiet _ _ ⟨rfl, rfl⟩).grow.seq (applyLoad_foot _ _ _)).seq
      (sendReply_foot _ _).grow

theorem loadByte_foot (bs : Bytes) (b : Byte) (s : State) : Foot loadParts s (loadByte bs b s) := by
  unfold loadByte
  dsimp only
  split
  · exact finishLoad_foot _ _
  · exact (State.onCsu_foot_quiet _ _ ⟨rfl, rfl⟩).grow

theorem endWatch_foot (s : State) : Foot [.console] s (endWatch s) :=
  (State.onCsu_foot_quiet _ _ ⟨rfl, rfl⟩).seq (sendReply_foot _ _)

theorem lineCharacter_foot (c : Byte) (s : State) : Foot [.console] s (lineCharacter c s) :=
  State.onCsu_foot_quiet _ _ ⟨rfl, rfl⟩

theorem takeCharacter_foot (c : Byte) (s : State) : Foot loadParts s (takeCharacter c s) := by
  unfold takeCharacter
  split
  · exact loadByte_foot _ _ _
  · exact (endWatch_foot _).grow
  · exact (lineCharacter_foot _ _).grow

theorem Csu.hasRoom_iff (u : Csu) (c : Byte) :
    u.hasRoom c = true ↔ u.echo c = [] ∨ u.fill + (u.echo c).length ≤ 65536 := by
  simp [Csu.hasRoom]

theorem Csu.canTake_line {u : Csu} (c : Byte) (hl : u.load = .idle) (hw : u.watch = none) :
    u.canTake c = (u.waiting.isNone && u.hasRoom c) := by
  simp [Csu.canTake, hl, hw]

theorem takeHolding_foot (s : State) : Foot loadParts s (takeHolding s) := by
  unfold takeHolding
  split
  · exact .refl _ _
  · split
    · exact (State.onCsu_foot_quiet _ _ ⟨rfl, rfl⟩).grow.seq (takeCharacter_foot _ _)
    · exact .refl _ _

theorem overrun_foot (s : State) : Foot [.console] s (overrun s) := by
  unfold overrun
  dsimp only
  split
  · exact (countCsu_foot _ _).seq (abandonLoad_foot _ _)
  · exact (countCsu_foot _ _).seq (State.onCsu_foot_quiet _ _ ⟨rfl, rfl⟩)

theorem completeCharacter_foot (c : Byte) (s : State) : Foot loadParts s (completeCharacter c s) := by
  unfold completeCharacter
  dsimp only
  split
  · exact (takeHolding_foot _).seq (overrun_foot _).grow
  · exact ((takeHolding_foot _).seq (State.onCsu_foot_quiet _ _ ⟨rfl, rfl⟩).grow).seq
      (takeHolding_foot _)

theorem beginBinary_foot (s : State) : Foot loadParts s (beginBinary s) := by
  unfold beginBinary
  split
  · exact (((repliesSent_foot _).seq (State.onCsu_foot_quiet _ _ ⟨rfl, rfl⟩)).grow).seq
      (takeHolding_foot _)
  · exact .refl _ _

theorem loadTimeout_foot (s : State) : Foot [.now, .console] s (loadTimeout s) := by
  unfold loadTimeout
  split
  · exact (State.reach_foot _ _).andThen (abandonLoad_foot _ _)
  · exact .refl _ _
  · exact .refl _ _

theorem answerBreak_foot (s : State) : Foot [.console] s (answerBreak s) := by
  unfold answerBreak
  split
  · exact .refl _ _
  · exact sendReply_foot _ _

theorem breakEffect_foot (s : State) : Foot [.console] s (breakEffect s) := by
  unfold breakEffect
  split
  · exact abandonLoad_foot _ _
  · split
    · exact (endWatch_foot _).seq (sendReply_foot _ _)
    · exact (State.onCsu_foot_quiet _ _ ⟨rfl, rfl⟩).seq (answerBreak_foot _)

theorem takeBreak_foot (s : State) : Foot commandParts s (takeBreak s) := by
  unfold takeBreak
  dsimp only
  exact (((takeLineWith_foot _ _ fun _ => .refl _ _).seq (State.onCsu_foot_quiet _ _ ⟨rfl, rfl⟩).grow).seq
    (countCsu_foot _ _).grow).seq (breakEffect_foot _).grow

theorem repeatWatch_foot (s : State) : Foot [.now, .console] s (repeatWatch s) := by
  unfold repeatWatch
  split
  · exact .refl _ _
  · split
    · exact .refl _ _
    · dsimp only
      split
      · exact (State.reach_foot _ _).andThen (State.onCsu_foot_quiet _ _ ⟨rfl, rfl⟩)
      · exact (State.reach_foot _ _).andThen (watchReport_foot _ _)

theorem reportDone_foot (s : State) : Foot [.console] s (reportDone s) := by
  unfold reportDone
  split
  · exact .refl _ _
  · dsimp only
    split
    · exact (State.onCsu_foot_quiet _ _ ⟨rfl, rfl⟩).seq (watchReport_foot _ _)
    · exact State.onCsu_foot_quiet _ _ ⟨rfl, rfl⟩

theorem idle_foot (s : State) : Foot [.now, .console] s (idle s) :=
  (State.onCsu_foot_quiet _ _ ⟨rfl, rfl⟩).andThen (State.reach_foot _ _)

/-! ### The other events -/

theorem markTaken_foot (c : Word) (n : Nat) (s : State) : Foot markParts s (markTaken c n s) := by
  unfold markTaken
  split
  · exact .refl _ _
  · exact (takeMark_foot _ _ _).seq (settle_foot _).grow

theorem lossTimerExpires_foot (s : State) :
    Foot [.now, .tlu, .cfr, .aou, .attn, .ports, .dlu, .kou, .ksp] s (lossTimerExpires s) := by
  unfold lossTimerExpires
  split
  · exact .refl _ _
  · exact ((State.reach_foot _ _).grow.seq (loseReference_foot _).grow).seq (settle_foot _).grow

theorem helloDue_foot (s : State) : Foot [.now, .ports, .link] s (helloDue s) := by
  unfold helloDue
  split
  · exact .refl _ _
  · exact (((State.reach_foot _ _).grow.seq (State.onLku_foot _ _).grow).seq
      (offerHello_foot _ _).grow).seq (offerHello_foot _ _).grow

theorem carrierAppears_foot (p : PortId) (s : State) : Foot [.ports] s (carrierAppears p s) :=
  State.onPort_foot _ _ _

theorem carrierLost_foot (p : PortId) (s : State) : Foot [.ports, .attn] s (carrierLost p s) := by
  unfold carrierLost
  dsimp only
  split
  · exact (State.onPort_foot _ _ _).grow
  · exact ((State.onPort_foot _ _ _).seq (State.countPort_foot _ _ _)).grow.seq (goDown_foot _ _)

theorem silenceExpires_foot (p : PortId) (s : State) :
    Foot [.now, .ports, .attn] s (silenceExpires p s) := by
  unfold silenceExpires
  split
  · exact .refl _ _
  · exact ((State.reach_foot _ _).grow.seq (State.countPort_foot _ _ _).grow).seq
      (goDown_foot _ _).grow

theorem holdExpires_foot (p : PortId) (s : State) : Foot [.now, .ports] s (holdExpires p s) := by
  unfold holdExpires
  split
  · exact .refl _ _
  · exact ((State.reach_foot _ _).grow.seq (State.countPort_foot _ _ _).grow).seq
      (releaseLane2_foot _ _).grow

theorem refreshExpires_foot (p : PortId) (s : State) : Foot [.now, .ports] s (refreshExpires p s) := by
  unfold refreshExpires
  split
  · exact .refl _ _
  · exact ((State.reach_foot _ _).grow.seq (State.onPort_foot _ _ _).grow).seq
      (offerHold_foot _ _ _).grow

theorem frameSent_foot (p : PortId) (s : State) : Foot [.ports] s (frameSent p s) := by
  unfold frameSent
  split
  · exact .refl _ _
  · exact (State.onPort_foot _ _ _).seq (kick_foot _ _)

theorem beaconDue_foot (s : State) : Foot [.now, .ports, .dlu, .pcu] s (beaconDue s) := by
  unfold beaconDue
  split
  · exact .refl _ _
  · split
    · exact (State.reach_foot _ _).andThen (restartBeacon_foot _)
    · exact (State.reach_foot _ _).andThen (sendBeacon_foot _)

theorem peerTimerExpires_foot (st : Nat) (s : State) :
    Foot [.now, .pcu, .rst, .ksp, .attn] s (peerTimerExpires st s) := by
  unfold peerTimerExpires
  split
  · exact .refl _ _
  · exact (State.reach_foot _ _).andThen (losePeer_foot _ _ _)

theorem deadlineExpires_foot (n : Index) (s : State) :
    Foot [.now, .aou] s (deadlineExpires n s) := by
  unfold deadlineExpires
  split
  · exact .refl _ _
  · exact ((State.reach_foot _ _).andThen (c := [.now, .aou]) (State.onAou_foot _ _)).seq
      (feedSettle_foot _).grow

theorem feedRecordSent_foot (s : State) : Foot [.aou] s (feedRecordSent s) := by
  unfold feedRecordSent
  split
  · exact .refl _ _
  · exact (State.onAou_foot _ _).seq (feedSettle_foot _)

theorem programReady_foot (s : State) : Foot [.aou] s (programReady s) :=
  (State.onAou_foot _ _).seq (startFeed_foot _)

theorem programNotReady_foot (s : State) : Foot [.aou] s (programNotReady s) := State.onAou_foot _ _

theorem drainTimerExpires_foot (s : State) : Foot [.now, .tlu] s (drainTimerExpires s) := by
  unfold drainTimerExpires
  split
  · exact (State.reach_foot _ _).andThen (State.onTlu_foot _ _)
  · exact .refl _ _
  · exact .refl _ _

theorem resendExpires_foot (s : State) : Foot [.now, .ksp] s (resendExpires s) := by
  unfold resendExpires
  split
  · exact .refl _ _
  · exact (State.reach_foot _ _).andThen (State.onKsp_foot _ _)

theorem archiveRecordSent_foot (s : State) : Foot [.kou, .ksp] s (archiveRecordSent s) := by
  unfold archiveRecordSent
  split
  · exact .refl _ _
  · exact ((State.onKou_foot _ _).grow.seq (recordSent_foot _ _)).seq (archiveSettle_foot _).grow

theorem archiveReady_foot (s : State) : Foot [.kou] s (archiveReady s) :=
  (State.onKou_foot _ _).seq (archiveSettle_foot _)

theorem archiveNotReady_foot (s : State) : Foot [.kou] s (archiveNotReady s) := State.onKou_foot _ _

end Sys2Proof.Machine
end

