-- ==== Sys2Proof/Laws/Timeline.lean ====
section
/-! SUPPORT. What a boundary, the coding of segments and the tests at the end of an event leave of the
Timeline Unit and the coder, and what the footprints give of the units taken whole. -/

namespace Sys2Proof.Machine

-- One proof after the other: the whole package is compiled as one text, and needs few threads so.
set_option Elab.async false

/-- A footprint without the Delivery Unit leaves all of it. -/
theorem Foot.dlu_eq {ps : List Part} {s t : State} (h : Foot ps s t) (a : Part.dlu ∉ ps := by decide)
    (b : Part.muted ∉ ps := by decide) : t.dlu = s.dlu := by
  have a := h.dlu a
  have b := h.muted b
  cases hx : t.dlu
  cases hy : s.dlu
  rw [hx, hy] at a b
  simp_all

/-- A footprint without the Console Unit leaves all of it. -/
theorem Foot.csu_eq {ps : List Part} {s t : State} (h : Foot ps s t) (a : Part.attn ∉ ps := by decide)
    (b : Part.console ∉ ps := by decide) : t.csu = s.csu := by
  rw [h.console b, (h.attn a).1, (h.attn a).2]

/-! ### The coding of segments -/

theorem completeBatch_tlu (b : Batch) (s : State) :
    (completeBatch b s).tlu = { s.tlu with codedIndex := some b.index } := rfl

/-- Coding a segment changes nothing of the Timeline Unit but the index last coded. -/
theorem codeSegment_tlu (s : State) :
    ∃ i, (codeSegment s).tlu = { s.tlu with codedIndex := i } := by
  unfold codeSegment
  split
  · exact ⟨_, rfl⟩
  · split
    · exact ⟨_, rfl⟩
    · rename_i _ b _ _ g rest _
      have h : (drain (makeKeep g (makeAir b g s))).tlu = s.tlu := by
        rw [(drain_foot _).tlu (by decide), (makeKeep_foot _ _).tlu (by decide),
          (makeAir_foot _ _ _).tlu (by decide)]
      unfold continueBatch
      split
      · exact ⟨_, by rw [completeBatch_tlu, h]⟩
      · exact ⟨_, by rw [State.onSgc_tlu, h]⟩

theorem codeSegments_tlu (n : Nat) (s : State) :
    ∃ i, (codeSegments n s).tlu = { s.tlu with codedIndex := i } := by
  induction n generalizing s with
  | zero => exact ⟨_, rfl⟩
  | succ n ih =>
    obtain ⟨i, hi⟩ := codeSegment_tlu s
    obtain ⟨j, hj⟩ := ih (codeSegment s)
    exact ⟨j, by rw [codeSegments, hj, hi]⟩

/-- Finishing a batch changes nothing of the Timeline Unit but the index last coded. -/
theorem finishBatch_tlu (s : State) :
    ∃ i, (finishBatch s).tlu = { s.tlu with codedIndex := i } := by
  unfold finishBatch
  split
  · exact ⟨_, rfl⟩
  · exact codeSegments_tlu _ _

/-- A batch taken changes nothing of the Timeline Unit but the index last coded. -/
theorem takeBatch_tlu (b : Batch) (s : State) :
    ∃ i, (takeBatch b s).tlu = { s.tlu with codedIndex := i } := by
  unfold takeBatch
  split
  · exact ⟨_, rfl⟩
  · exact ⟨_, rfl⟩

theorem closePeriod_tlu (p : Option Index) (s : State) :
    ∃ i, (closePeriod p s).tlu = { s.tlu with codedIndex := i } := by
  unfold closePeriod
  split
  · exact ⟨_, rfl⟩
  · dsimp only
    split
    · exact takeBatch_tlu _ _
    · exact ⟨_, rfl⟩

theorem tluBoundary_tlu (c : Word) (s : State) : (tluBoundary c s).tlu = s.tlu.atBoundary c := by
  unfold tluBoundary
  dsimp only
  split <;> rfl

/-- The Timeline Unit after a boundary: the changes of R3, R5 and R9, and the index last coded. -/
theorem takeBoundary_tlu (c : Word) (s : State) :
    ∃ i, (takeBoundary c s).tlu = { s.tlu.atBoundary c with codedIndex := i } := by
  unfold takeBoundary
  dsimp only
  obtain ⟨i, hi⟩ := finishBatch_tlu s
  generalize finishBatch s = u at *
  generalize u.tlu.presents c = p
  generalize u.tlu.entersAt c = e
  rw [(feedSettle_foot _).tlu (by decide), (slotAt_foot _ _ _).tlu (by decide),
    (driverAt_foot _ _).tlu (by decide), (ageAt_foot _ _).tlu (by decide),
    (openPeriod_foot _ _).tlu (by decide)]
  obtain ⟨j, hj⟩ := closePeriod_tlu p (gradeAt p e (tluBoundary c u))
  rw [hj, (gradeAt_foot _ _ _).tlu (by decide), tluBoundary_tlu, hi]
  exact ⟨j, rfl⟩

/-! ### The tests at the end of an event -/

theorem testDone_tlu (s : State) : (testDone s).tlu = s.tlu ∨
    (s.tlu.station = .ending ∧ ∃ n, (testDone s).tlu = { s.tlu with
      station := .done, endTimer := .stopped, voidRun := false
      counts := { s.tlu.counts with endUndrained := n } }) := by
  unfold testDone
  split
  · rename_i h
    refine .inr ⟨h.1, ?_⟩
    unfold enterDone
    rw [(discardPeriod_foot _).tlu (by decide)]
    exact ⟨_, rfl⟩
  · exact .inl rfl

/-- The tests leave the Timeline Unit, but for an entry into DONE from ENDING. -/
theorem settle_tlu (s : State) : (settle s).tlu = s.tlu ∨
    (s.tlu.station = .ending ∧ ∃ n, (settle s).tlu = { s.tlu with
      station := .done, endTimer := .stopped, voidRun := false
      counts := { s.tlu.counts with endUndrained := n } }) := by
  have h : (reportFinished (drain s)).tlu = s.tlu := by
    rw [(reportFinished_foot _).tlu (by decide), (drain_foot _).tlu (by decide)]
  have := testDone_tlu (reportFinished (drain s))
  rw [h] at this
  exact this

/-- Outside ENDING the tests leave the Timeline Unit. -/
theorem settle_tlu_of (s : State) (h : s.tlu.station ≠ .ending) : (settle s).tlu = s.tlu := by
  rcases settle_tlu s with h' | ⟨h', -⟩
  · exact h'
  · exact absurd h' h

/-- The drain waits outside RUNNING and ENDING (R152). -/
theorem drain_idle (s : State) (h : s.performing = false) : drain s = s := by
  have hb : s.drainBlock = some .stationState := by simp [State.drainBlock, h]
  unfold drain
  cases s.ksp.undrained with
  | zero => rfl
  | succ n => simp [drainLoop, hb]

/-- Outside RUNNING and ENDING the tests at the end of an event change nothing. -/
theorem settle_idle (s : State) (h : s.performing = false) : settle s = s := by
  have hs : s.tlu.station ≠ .ending := by
    intro e
    simp [State.performing, e] at h
  simp [settle, drain_idle s h, reportFinished, testDone, hs]

/-- The tests leave the Air Outlet but for its finished report. -/
theorem settle_aou (s : State) :
    ∃ f, (settle s).aou = { s.aou with finished := f } := by
  have h1 := (testDone_foot (reportFinished (drain s))).aou (by decide)
  have h2 := (drain_foot s).aou (by decide)
  unfold settle
  rw [h1]
  unfold reportFinished
  split
  · exact ⟨true, by simp [h2]⟩
  · exact ⟨s.aou.finished, by rw [h2]⟩

/-! ### What the coding of segments leaves of the coder -/

theorem codeSegment_grade (s : State) : (codeSegment s).sgc.grade = s.sgc.grade ∧
    (codeSegment s).sgc.stepUp = s.sgc.stepUp ∧
    (codeSegment s).sgc.counts.gradeUp = s.sgc.counts.gradeUp ∧
    (codeSegment s).sgc.counts.gradeDown = s.sgc.counts.gradeDown := by
  unfold codeSegment
  split
  · exact ⟨rfl, rfl, rfl, rfl⟩
  · split
    · exact ⟨rfl, rfl, rfl, rfl⟩
    · rename_i _ b _ _ g rest _
      have h : ∀ u : State, (continueBatch b rest u).sgc.grade = u.sgc.grade ∧
          (continueBatch b rest u).sgc.stepUp = u.sgc.stepUp ∧
          (continueBatch b rest u).sgc.counts = u.sgc.counts := by
        intro u
        unfold continueBatch
        split <;> exact ⟨rfl, rfl, rfl⟩
      have ha : ∃ c : SgcCounts, (makeAir b g s).sgc = { s.sgc with counts := c } ∧
          c.gradeUp = s.sgc.counts.gradeUp ∧ c.gradeDown = s.sgc.counts.gradeDown := by
        unfold makeAir
        split
        · exact ⟨_, (originate_foot _ _ _).sgc (by decide), rfl, rfl⟩
        · exact ⟨_, rfl, rfl, rfl⟩
      have hk : ∀ u : State, ∃ c : SgcCounts, (makeKeep g u).sgc = { u.sgc with counts := c } ∧
          c.gradeUp = u.sgc.counts.gradeUp ∧ c.gradeDown = u.sgc.counts.gradeDown := by
        intro u
        unfold makeKeep
        split
        · exact ⟨_, (appendKeep_foot _ _).sgc (by decide), rfl, rfl⟩
        · exact ⟨_, rfl, rfl, rfl⟩
      obtain ⟨c, hc, c1, c2⟩ := ha
      obtain ⟨d, hd, d1, d2⟩ := hk (makeAir b g s)
      obtain ⟨h1, h2, h3⟩ := h (drain (makeKeep g (makeAir b g s)))
      rw [h1, h2, h3, (drain_foot _).sgc (by decide), hd, hc]
      refine ⟨rfl, rfl, ?_, ?_⟩
      · rw [d1, hc]; exact c1
      · rw [d2, hc]; exact c2

theorem codeSegments_grade (n : Nat) (s : State) : (codeSegments n s).sgc.grade = s.sgc.grade ∧
    (codeSegments n s).sgc.stepUp = s.sgc.stepUp ∧
    (codeSegments n s).sgc.counts.gradeUp = s.sgc.counts.gradeUp ∧
    (codeSegments n s).sgc.counts.gradeDown = s.sgc.counts.gradeDown := by
  induction n generalizing s with
  | zero => exact ⟨rfl, rfl, rfl, rfl⟩
  | succ n ih =>
    obtain ⟨a, b, c, d⟩ := codeSegment_grade s
    obtain ⟨a', b', c', d'⟩ := ih (codeSegment s)
    exact ⟨a'.trans a, b'.trans b, c'.trans c, d'.trans d⟩

/-- Finishing a batch leaves the grade, the step-up counter and the counters of the grade. -/
theorem finishBatch_grade (s : State) : (finishBatch s).sgc.grade = s.sgc.grade ∧
    (finishBatch s).sgc.stepUp = s.sgc.stepUp ∧
    (finishBatch s).sgc.counts.gradeUp = s.sgc.counts.gradeUp ∧
    (finishBatch s).sgc.counts.gradeDown = s.sgc.counts.gradeDown := by
  unfold finishBatch
  split
  · exact ⟨rfl, rfl, rfl, rfl⟩
  · exact codeSegments_grade _ _

end Sys2Proof.Machine
end

