-- ==== Sys2Proof/Laws/Attention.lean ====
section
/-! SUPPORT. What raising an attention and presenting a cut trigger leave of the attentions and of the cut
state. -/

namespace Sys2Proof.Machine

-- One proof after the other: the whole package is compiled as one text, and needs few threads so.
set_option Elab.async false

theorem AttnClass.rank_lt (c : AttnClass) : c.rank < 11 := by cases c <;> decide

theorem AttnClass.rank_inj {c d : AttnClass} : c.rank = d.rank ↔ c = d := by
  cases c <;> cases d <;> decide

/-! ### Raising (R180) -/

theorem raiseAttn_raised (c : AttnClass) (x : Cause) (s : State) :
    State.Raised c x s (raiseAttn c x s) := by
  intro hp hr
  have h1 : c.rank < s.csu.pendingAttn.length := hp ▸ c.rank_lt
  have h2 : c.rank < s.csu.attnRaised.length := hr ▸ c.rank_lt
  simp [Csu.raise, List.getD_eq_getElem?_getD, modifyAt_getElem?, h1, h2]

theorem raiseAttn_unraised {c d : AttnClass} (h : d ≠ c) (x : Cause) (s : State) :
    State.Unraised d s (raiseAttn c x s) := by
  have : d.rank ≠ c.rank := fun e => h (AttnClass.rank_inj.1 e)
  simp [State.Unraised, Csu.raise, List.getD_eq_getElem?_getD, modifyAt_getElem?, this]

/-- An operation that leaves the attentions raises no class. -/
theorem Foot.unraised {ps : List Part} {s t : State} (h : Foot ps s t) (n : Part.attn ∉ ps)
    (c : AttnClass) : State.Unraised c s t :=
  ⟨by rw [(h.attn n).1], by rw [(h.attn n).2]⟩

/-! ### The cut state and the feed (R134, R141, R142) -/

/-- The cut state, its cause and its two counters stay. -/
def Aou.SameCut (u v : Aou) : Prop :=
  v.cut = u.cut ∧ v.counts.cutTrigger = u.counts.cutTrigger ∧ v.counts.cutEntered = u.counts.cutEntered

theorem Aou.SameCut.trans {u v w : Aou} (h : u.SameCut v) (k : v.SameCut w) : u.SameCut w :=
  ⟨k.1.trans h.1, k.2.1.trans h.2.1, k.2.2.trans h.2.2⟩

theorem drainWindow_sameCut (n : Nat) (s : State) : s.aou.SameCut (drainWindow n s).aou := by
  induction n generalizing s with
  | zero => exact ⟨rfl, rfl, rfl⟩
  | succ n ih =>
    unfold drainWindow
    split
    · exact ⟨rfl, rfl, rfl⟩
    · split
      · exact ⟨rfl, rfl, rfl⟩
      · split
        · exact .trans ⟨rfl, rfl, rfl⟩ (ih _)
        · split
          · exact .trans ⟨rfl, rfl, rfl⟩ (ih _)
          · exact ⟨rfl, rfl, rfl⟩

theorem startFeed_sameCut (s : State) : s.aou.SameCut (startFeed s).aou := by
  unfold startFeed
  split <;> exact ⟨rfl, rfl, rfl⟩

theorem feedSettle_sameCut (s : State) : s.aou.SameCut (feedSettle s).aou :=
  (drainWindow_sameCut _ _).trans (startFeed_sameCut _)

theorem settle_sameCut (s : State) : s.aou.SameCut (settle s).aou := by
  obtain ⟨f, h⟩ := settle_aou s
  rw [h]
  exact ⟨rfl, rfl, rfl⟩

theorem Aou.stopFeed_sameCut (m : CutMode) (u : Aou) : u.SameCut (u.stopFeed m) := by
  cases m <;> exact ⟨rfl, rfl, rfl⟩

/-- The station enters CUT with its cause, counted, and raises CUT. -/
theorem enterCut_enters (x : CutCause) (s : State) :
    (enterCut x s).aou.cut = some x ∧
    (enterCut x s).aou.counts.cutTrigger = s.aou.counts.cutTrigger ∧
    (enterCut x s).aou.counts.cutEntered = up s.aou.counts.cutEntered ∧
    State.Raised .cut (.cutEntered x) s (enterCut x s) := by
  obtain ⟨h1, h2, h3⟩ := (Aou.stopFeed_sameCut _ _).trans (feedSettle_sameCut
    (raiseAttn .cut (.cutEntered x) (s.onAou fun u => ({ u with
      cut := some x
      counts := { u.counts with cutEntered := up u.counts.cutEntered } } : Aou).stopFeed s.cutMode)))
  refine ⟨h1, h2, h3, fun hp hr => ?_⟩
  obtain ⟨h4, h5⟩ := (feedSettle_foot (raiseAttn .cut (.cutEntered x) (s.onAou fun u => ({ u with
      cut := some x
      counts := { u.counts with cutEntered := up u.counts.cutEntered } } : Aou).stopFeed s.cutMode))).attn
    (by decide)
  unfold enterCut
  rw [h4, h5]
  exact raiseAttn_raised .cut (.cutEntered x) (s.onAou _) hp hr

/-- Presenting a trigger does what R141 says of it. -/
theorem cutTrigger_triggered (field : Configuration → Bool) (x : CutCause) (s : State) :
    State.Triggered field x s (cutTrigger field x s) := by
  intro c hc
  refine ⟨fun off => ?_, fun on => ?_⟩
  · simp [cutTrigger, hc, off, State.CutKept, State.Unraised]
  · cases hcut : s.aou.cut with
    | none =>
      have h : cutTrigger field x s = enterCut x (s.onAou fun u => { u with
          counts := { u.counts with cutTrigger := up u.counts.cutTrigger } }) := by
        simp [cutTrigger, hc, on, State.isCut, hcut]
      obtain ⟨h1, h2, h3, h4⟩ := enterCut_enters x (s.onAou fun u => { u with
          counts := { u.counts with cutTrigger := up u.counts.cutTrigger } })
      rw [h]
      exact ⟨h2, fun _ => ⟨h1, h3, h4⟩, fun n => by cases n⟩
    | some k =>
      have h : cutTrigger field x s = s.onAou fun u => { u with
          counts := { u.counts with cutTrigger := up u.counts.cutTrigger } } := by
        simp [cutTrigger, hc, on, State.isCut, hcut]
      rw [h]
      refine ⟨rfl, fun n => ?_, fun _ => ⟨rfl, rfl, rfl, rfl⟩⟩
      cases n

/-- What follows a trigger and leaves the cut state and the attentions leaves what it brought. -/
theorem State.Triggered.before {field : Configuration → Bool} {x : CutCause} {s t u : State}
    (h : State.Triggered field x s t) (a : t.aou.SameCut u.aou)
    (p : u.csu.pendingAttn = t.csu.pendingAttn) (r : u.csu.attnRaised = t.csu.attnRaised) :
    State.Triggered field x s u := by
  obtain ⟨a1, a2, a3⟩ := a
  intro c hc
  simpa only [State.CutKept, State.Unraised, State.Raised, a1, a2, a3, p, r] using h c hc

/-- A trigger presented behind what leaves the configuration, the cut state and the class CUT is presented from
the state before that. -/
theorem State.Triggered.behind {field : Configuration → Bool} {x : CutCause} {s t u : State}
    (h : State.Triggered field x t u) (a : s.aou.SameCut t.aou) (k : State.Unraised .cut s t)
    (c : t.csu.config = s.csu.config) (p : t.csu.pendingAttn.length = s.csu.pendingAttn.length)
    (r : t.csu.attnRaised.length = s.csu.attnRaised.length) : State.Triggered field x s u := by
  obtain ⟨a1, a2, a3⟩ := a
  obtain ⟨k1, k2⟩ := k
  intro d hd
  simpa only [State.CutKept, State.Unraised, State.Raised, a1, a2, a3, k1, k2, p, r] using h d (c.trans hd)

/-- A trigger raises no class but CUT. -/
theorem cutTrigger_unraised {c : AttnClass} (h : c ≠ .cut) (field : Configuration → Bool) (x : CutCause)
    (s : State) : State.Unraised c s (cutTrigger field x s) := by
  unfold cutTrigger
  split
  · dsimp only
    split
    · exact ⟨rfl, rfl⟩
    · obtain ⟨h1, h2⟩ := raiseAttn_unraised h (.cutEntered x) ((s.onAou fun u => { u with
          counts := { u.counts with cutTrigger := up u.counts.cutTrigger } }).onAou fun u => ({ u with
        cut := some x
        counts := { u.counts with cutEntered := up u.counts.cutEntered } } : Aou).stopFeed s.cutMode)
      obtain ⟨h3, h4⟩ := (feedSettle_foot _).unraised (by decide) c
      exact ⟨h3.trans h1, h4.trans h2⟩
  · exact ⟨rfl, rfl⟩

end Sys2Proof.Machine
end

