-- ==== Sys2Proof/Laws/Frames.lean ====
section
/-! SUPPORT. Reading back the fields of a frame: what `byteAt`, `wordAt16` and `wordAt32` give of a string
of fields. -/

namespace Sys2Proof.Machine

-- One proof after the other: the whole package is compiled as one text, and needs few threads so.
set_option Elab.async false

theorem byteAt_append_left {as bs : Bytes} {i : Nat} (h : i < as.length) :
    byteAt (as ++ bs) i = byteAt as i := by
  simp [byteAt, List.getD_eq_getElem?_getD, List.getElem?_append_left h]

theorem byteAt_append_right (as bs : Bytes) (i : Nat) :
    byteAt (as ++ bs) (as.length + i) = byteAt bs i := by
  simp only [byteAt, List.getD_eq_getElem?_getD]
  rw [List.getElem?_append_right (by omega), Nat.add_sub_cancel_left]

theorem wordAt16_append_left {as bs : Bytes} {i : Nat} (h : i + 1 < as.length) :
    wordAt16 (as ++ bs) i = wordAt16 as i := by
  simp only [wordAt16]
  rw [byteAt_append_left (by omega), byteAt_append_left h]

theorem wordAt16_append_right (as bs : Bytes) (i : Nat) :
    wordAt16 (as ++ bs) (as.length + i) = wordAt16 bs i := by
  simp only [wordAt16]
  rw [byteAt_append_right, Nat.add_assoc, byteAt_append_right]

theorem wordAt32_append_left {as bs : Bytes} {i : Nat} (h : i + 3 < as.length) :
    wordAt32 (as ++ bs) i = wordAt32 as i := by
  simp only [wordAt32]
  rw [wordAt16_append_left (by omega), wordAt16_append_left (by omega)]

theorem wordAt32_append_right (as bs : Bytes) (i : Nat) :
    wordAt32 (as ++ bs) (as.length + i) = wordAt32 bs i := by
  simp only [wordAt32]
  rw [wordAt16_append_right, Nat.add_assoc, wordAt16_append_right]

@[simp] theorem put8_length (n : Nat) : (put8 n).length = 1 := rfl
@[simp] theorem put16_length (n : Nat) : (put16 n).length = 2 := rfl
@[simp] theorem put32_length (w : Word) : (put32 w).length = 4 := rfl

theorem byteAt_put8 {n : Nat} (h : n < 256) (rest : Bytes) : byteAt (put8 n ++ rest) 0 = n := by
  simp only [byteAt, put8, List.singleton_append, List.getD_cons_zero, BitVec.toNat_ofNat]
  omega

theorem wordAt16_put16 {n : Nat} (h : n < 65536) (rest : Bytes) :
    wordAt16 (put16 n ++ rest) 0 = n := by
  simp only [wordAt16, byteAt, put16, List.cons_append, List.nil_append, List.getD_cons_zero,
    Nat.zero_add, List.getD_cons_succ, BitVec.toNat_ofNat]
  omega

theorem wordAt32_put32 (w : Word) (rest : Bytes) : wordAt32 (put32 w ++ rest) 0 = w := by
  have hw := w.isLt
  have h1 : wordAt16 (put32 w ++ rest) 0 = w.toNat / 65536 := by
    rw [put32, List.append_assoc]; exact wordAt16_put16 (by omega) _
  have h2 : wordAt16 (put32 w ++ rest) (0 + 2) = w.toNat % 65536 := by
    rw [put32, List.append_assoc, Nat.zero_add]
    exact (wordAt16_append_right (put16 _) _ 0).trans (wordAt16_put16 (by omega) _)
  apply BitVec.eq_of_toNat_eq
  simp only [wordAt32, h1, h2, BitVec.toNat_ofNat]
  omega

/-- A field of one byte, at its place in a string. -/
theorem byteAt_field {as bs : Bytes} {n i : Nat} (hi : as.length = i) (h : n < 256) :
    byteAt (as ++ (put8 n ++ bs)) i = n := by
  subst hi; exact (byteAt_append_right as _ 0).trans (byteAt_put8 h bs)

/-- A field of two bytes, at its place in a string. -/
theorem wordAt16_field {as bs : Bytes} {n i : Nat} (hi : as.length = i) (h : n < 65536) :
    wordAt16 (as ++ (put16 n ++ bs)) i = n := by
  subst hi; exact (wordAt16_append_right as _ 0).trans (wordAt16_put16 h bs)

/-- A field of four bytes, at its place in a string. -/
theorem wordAt32_field {as bs : Bytes} {w : Word} {i : Nat} (hi : as.length = i) :
    wordAt32 (as ++ (put32 w ++ bs)) i = w := by
  subst hi; exact (wordAt32_append_right as _ 0).trans (wordAt32_put32 w bs)

/-- The first 14 bytes of a ring-wide frame (Table 11-5). -/
def ringFront (k : RingKind) (h : RingHeader) (body : Bytes) : Bytes :=
  put8 k.code ++ put8 h.origin ++ put8 k.lane ++ put8 0 ++ put32 h.incarnation ++ put32 h.sequence ++
    put16 (18 + body.length)

theorem ringFront_length (k : RingKind) (h : RingHeader) (body : Bytes) :
    (ringFront k h body).length = 14 := rfl

/-- A ring-wide frame is its front, its body and its CRC. -/
theorem ringBytes_eq (k : RingKind) (h : RingHeader) (body : Bytes) :
    ∃ crc : Word, ringBytes k h body = ringFront k h body ++ (body ++ put32 crc) := by
  refine ⟨crc32 (ringFront k h body ++ body), ?_⟩
  simp only [ringBytes, withCrc, ringFront, List.append_assoc]

theorem ringBytes_length (k : RingKind) (h : RingHeader) (body : Bytes) :
    (ringBytes k h body).length = 18 + body.length := by
  obtain ⟨c, e⟩ := ringBytes_eq k h body
  rw [e]; simp only [List.length_append, ringFront_length, put32_length]; omega

/-- The bytes of the body stand behind the front. -/
theorem byteAt_ringBody {k : RingKind} {h : RingHeader} {body : Bytes} {i : Nat}
    (hi : i < body.length) : byteAt (ringBytes k h body) (14 + i) = byteAt body i := by
  obtain ⟨c, e⟩ := ringBytes_eq k h body
  rw [e, ← ringFront_length k h body, byteAt_append_right, byteAt_append_left hi]

theorem wordAt16_ringBody {k : RingKind} {h : RingHeader} {body : Bytes} {i : Nat}
    (hi : i + 1 < body.length) : wordAt16 (ringBytes k h body) (14 + i) = wordAt16 body i := by
  simp only [wordAt16]
  rw [byteAt_ringBody (by omega), Nat.add_assoc, byteAt_ringBody hi]

theorem wordAt32_ringBody {k : RingKind} {h : RingHeader} {body : Bytes} {i : Nat}
    (hi : i + 3 < body.length) : wordAt32 (ringBytes k h body) (14 + i) = wordAt32 body i := by
  simp only [wordAt32]
  rw [wordAt16_ringBody (by omega), Nat.add_assoc, wordAt16_ringBody (by omega)]

/-- The header of a ring-wide frame reads back. -/
theorem ringHeader_ringBytes (k : RingKind) (h : RingHeader) (body : Bytes) (ho : h.origin < 256) :
    ringHeader (ringBytes k h body) = h := by
  obtain ⟨c, e⟩ := ringBytes_eq k h body
  have o : byteAt (ringBytes k h body) 1 = h.origin := by
    rw [e, ringFront]; simp only [List.append_assoc]
    exact byteAt_field (as := put8 k.code) rfl ho
  have i : wordAt32 (ringBytes k h body) 4 = h.incarnation := by
    rw [e, ringFront]; simp only [List.append_assoc]
    rw [← List.append_assoc, ← List.append_assoc, ← List.append_assoc]
    exact wordAt32_field rfl
  have s : wordAt32 (ringBytes k h body) 8 = h.sequence := by
    rw [e, ringFront]; simp only [List.append_assoc]
    rw [← List.append_assoc, ← List.append_assoc, ← List.append_assoc, ← List.append_assoc]
    exact wordAt32_field rfl
  cases h
  simp only [ringHeader, o, i, s]

/-- The kind of a ring-wide frame reads back. -/
theorem byteAt_ringKind (k : RingKind) (h : RingHeader) (body : Bytes) :
    byteAt (ringBytes k h body) 0 = k.code := by
  obtain ⟨c, e⟩ := ringBytes_eq k h body
  rw [e, ringFront]; simp only [List.append_assoc]
  exact byteAt_put8 (by cases k <;> decide) _

/-- The lane of a ring-wide frame reads back. -/
theorem byteAt_ringLane (k : RingKind) (h : RingHeader) (body : Bytes) :
    byteAt (ringBytes k h body) 2 = k.lane := by
  obtain ⟨c, e⟩ := ringBytes_eq k h body
  rw [e, ringFront]; simp only [List.append_assoc]
  rw [← List.append_assoc]
  exact byteAt_field rfl (by cases k <;> decide)

end Sys2Proof.Machine
end

