-- ==== Sys2Proof/Laws/Keeps.lean ====
section
/-! SUPPORT. What every step keeps: a law that each event and each taken console command keeps is kept
by every step. -/

namespace Sys2Proof.Machine

-- One proof after the other: the whole package is compiled as one text, and needs few threads so.
set_option Elab.async false

/-- A law of the state that each event keeps, and each console command that is taken. -/
structure Keeps (P : State → Prop) : Prop where
  queue : ∀ q s, P s → P (s.withQueue q)
  idle : ∀ s, P s → P (idle s)
  reset : ∀ c s, P s → P (resetWith c s)
  -- the console line
  spoken : ∀ s, P s → P (speak s)
  sent : ∀ s, P s → P (repliesSent s)
  counted : ∀ f s, P s → P (s.countCsu f)
  refused : ∀ c s, P s → P (sendReply (.refused c) s)
  taken : ∀ s, P s → P (s.onCsu fun u => { u with waiting := none })
  effect : ∀ c s, s.csu.takesLines = true → refusalOf c s = none → P s → P (effectOf c s)
  character : ∀ c s, P s → P (completeCharacter c s)
  holding : ∀ s, P s → P (takeHolding s)
  unheld : ∀ s, P s → P (s.onCsu fun u => { u with holding := none })
  breaks : ∀ s, P s → P (breakEffect s)
  binary : ∀ s, P s → P (beginBinary s)
  timeout : ∀ s, P s → P (loadTimeout s)
  repeats : ∀ s, P s → P (repeatWatch s)
  reported : ∀ s, P s → P (reportDone s)
  -- the reference, the capture lines and the coder
  mark : ∀ c n s, P s → P (markTaken c n s)
  loss : ∀ s, P s → P (lossTimerExpires s)
  bits : ∀ k b s, P s → P (lineBits k b s)
  stop : ∀ k s, P s → P (clockStops k s)
  take : ∀ s, P s → P (takeAll s)
  coded : ∀ s, P s → P (settle (codeSegment s))
  -- the ring ports and the peers
  hello : ∀ s, P s → P (helloDue s)
  appear : ∀ p s, P s → P (carrierAppears p s)
  carrier : ∀ p s, P s → P (settle (carrierLost p s))
  silence : ∀ p s, P s → P (settle (silenceExpires p s))
  receive : ∀ p bs s, P s → P (settle (receiveFrame p bs s))
  hold : ∀ p s, P s → P (settle (holdExpires p s))
  refresh : ∀ p s, P s → P (refreshExpires p s)
  sentFrame : ∀ p s, P s → P (settle (frameSent p s))
  beacon : ∀ s, P s → P (beaconDue s)
  peer : ∀ st s, P s → P (settle (peerTimerExpires st s))
  -- the outlets, the spool and the ending
  deadline : ∀ n s, P s → P (settle (deadlineExpires n s))
  record : ∀ s, P s → P (settle (feedRecordSent s))
  ready : ∀ s, P s → P (programReady s)
  notReady : ∀ s, P s → P (programNotReady s)
  drainTimer : ∀ s, P s → P (settle (drainTimerExpires s))
  resend : ∀ s, P s → P (settle (resendExpires s))
  archived : ∀ s, P s → P (settle (archiveRecordSent s))
  archive : ∀ s, P s → P (settle (archiveReady s))
  noArchive : ∀ s, P s → P (archiveNotReady s)

/-- No refusal depends on a counter of the console. -/
theorem refusalOf_counted (c : Instr) (f : CsuCounts → CsuCounts) (s : State) :
    refusalOf c (s.countCsu f) = refusalOf c s := by
  cases c <;> rfl

namespace Keeps

variable {P : State → Prop}

theorem runs (k : Keeps P) (l : Nat) (rs : List (List Bool)) (s : State) (h : P s) :
    P (lineRuns l rs s) := by
  induction rs generalizing s with
  | nil => exact h
  | cons bits later ih =>
    cases later with
    | nil => exact k.bits _ _ _ h
    | cons next later =>
      rw [lineRuns_cons]
      exact ih _ (k.stop _ _ (k.bits _ _ _ h))

theorem refuse (k : Keeps P) (c : RefusalCode) (s : State) (h : P s) : P (refuseLine c s) :=
  k.refused _ _ (k.counted _ _ h)

theorem command (k : Keeps P) (c : Instr) (s : State) (l : s.csu.takesLines = true) (h : P s) :
    P (command (refusalOf c) (effectOf c) s) := by
  unfold Machine.command
  split
  · exact k.refuse _ _ h
  · rename_i e
    exact k.effect c _ l ((refusalOf_counted c _ s).trans e) (k.counted _ _ h)

theorem row (k : Keeps P) (c : Instr) (s : State) (h : P s) :
    P (commandRow (refusalOf c) (effectOf c) s) := by
  unfold commandRow
  split
  · rename_i l
    exact k.command c _ l (k.sent _ (k.spoken _ h))
  · exact h

theorem deal (k : Keeps P) (l : CommandLine) (s : State) (t : s.csu.takesLines = true) (h : P s) :
    P (dealWithLine l s) := by
  unfold dealWithLine
  split
  · exact k.refuse _ _ h
  split
  · exact k.refuse _ _ h
  split
  · exact h
  unfold executeWords
  split
  · exact k.refuse _ _ h
  split
  · exact k.command _ _ t h
  · exact k.refuse _ _ h

theorem lineWith (k : Keeps P) (f : State → State) (s : State)
    (quiet : ∀ t, (f t).csu.takesLines = t.csu.takesLines) (kept : ∀ t, P t → P (f t)) (h : P s) :
    P (takeLineWith f s) := by
  unfold takeLineWith
  split
  · exact h
  split
  · rename_i l
    exact k.deal _ _ ((quiet _).trans l) (kept _ (k.spoken _ (k.taken _ h)))
  · exact h

theorem line (k : Keeps P) (s : State) (h : P s) : P (takeLineWaiting s) :=
  k.lineWith _ _ (fun _ => rfl) k.sent h

theorem breakTaken (k : Keeps P) (s : State) (h : P s) : P (takeBreak s) := by
  unfold takeBreak
  exact k.breaks _ (k.counted _ _ (k.unheld _ (k.lineWith id _ (fun _ => rfl) (fun _ => id) h)))

/-- Every command keeps the law. -/
theorem exec (k : Keeps P) (c : Instr) (s t : State) (h : P s) (e : exec c s = .next t) : P t := by
  have next : ∀ u, P u → Machine.exec c s = .next u → P t := fun u hu hn => by
    have : u = t := by
      rw [hn] at e
      exact Host.Outcome.next.inj e
    exact this ▸ hu
  cases c with
  | powerOnReset => exact next _ (k.reset _ _ h) rfl
  | consoleReset => exact next _ (k.reset _ _ h) rfl
  | characterComplete c => exact next _ (k.character _ _ h) rfl
  | characterTaken => exact next _ (k.holding _ h) rfl
  | commandLineTaken => exact next _ (k.line _ h) rfl
  | breakTaken => exact next _ (k.breakTaken _ h) rfl
  | watchRepeatTimer => exact next _ (k.repeats _ h) rfl
  | binaryPhaseStart => exact next _ (k.binary _ h) rfl
  | loadIdleTimeout => exact next _ (k.timeout _ h) rfl
  | load => exact next _ (k.row .load _ h) rfl
  | showState => exact next _ (k.row .showState _ h) rfl
  | showRef => exact next _ (k.row .showRef _ h) rfl
  | showPorts => exact next _ (k.row .showPorts _ h) rfl
  | showLanes => exact next _ (k.row .showLanes _ h) rfl
  | showFilter => exact next _ (k.row .showFilter _ h) rfl
  | showRoster => exact next _ (k.row .showRoster _ h) rfl
  | showCues => exact next _ (k.row .showCues _ h) rfl
  | showPeers => exact next _ (k.row .showPeers _ h) rfl
  | showSlots => exact next _ (k.row .showSlots _ h) rfl
  | showFeed => exact next _ (k.row .showFeed _ h) rfl
  | showSpool => exact next _ (k.row .showSpool _ h) rfl
  | showTake => exact next _ (k.row .showTake _ h) rfl
  | showCapture => exact next _ (k.row .showCapture _ h) rfl
  | showCounts => exact next _ (k.row .showCounts _ h) rfl
  | showAttn => exact next _ (k.row .showAttn _ h) rfl
  | showConfig => exact next _ (k.row .showConfig _ h) rfl
  | watch i => exact next _ (k.row (.watch i) _ h) rfl
  | arm => exact next _ (k.row .arm _ h) rfl
  | go => exact next _ (k.row .go _ h) rfl
  | endPerformance => exact next _ (k.row .endPerformance _ h) rfl
  | cue i v => exact next _ (k.row (.cue i v) _ h) rfl
  | cut => exact next _ (k.row .cut _ h) rfl
  | uncut => exact next _ (k.row .uncut _ h) rfl
  | clearAttn m => exact next _ (k.row (.clearAttn m) _ h) rfl
  | clearCapture m => exact next _ (k.row (.clearCapture m) _ h) rfl
  | clearCounts => exact next _ (k.row .clearCounts _ h) rfl
  | reset => exact next _ (k.row .reset _ h) rfl
  | markTaken n d => exact next _ (k.mark _ _ _ h) rfl
  | referenceLossTimer => exact next _ (k.loss _ h) rfl
  | sampleFrameComplete l f => exact next _ (k.runs _ _ _ h) rfl
  | lossOfFraming a => exact next _ (k.runs _ _ _ h) rfl
  | sampleTake => exact next _ (k.take _ h) rfl
  | segmentCoded => exact next _ (k.coded _ h) rfl
  | helloTimer => exact next _ (k.hello _ h) rfl
  | carrierAppear p => exact next _ (k.appear _ _ h) rfl
  | carrierLoss p => exact next _ (k.carrier _ _ h) rfl
  | silenceExpiry p => exact next _ (k.silence _ _ h) rfl
  | rxFrameComplete p f => exact next _ (k.receive _ _ _ h) rfl
  | holdTimerExpiry p => exact next _ (k.hold _ _ h) rfl
  | holdRefreshTimer p => exact next _ (k.refresh _ _ h) rfl
  | txComplete p => exact next _ (k.sentFrame _ _ h) rfl
  | beaconTimer => exact next _ (k.beacon _ h) rfl
  | peerLossTimer st => exact next _ (k.peer _ _ h) rfl
  | slotDeadline n => exact next _ (k.deadline _ _ h) rfl
  | feedRecordComplete => exact next _ (k.record _ h) rfl
  | programReadyRise => exact next _ (k.ready _ h) rfl
  | programReadyFall => exact next _ (k.notReady _ h) rfl
  | endDrainTimer => exact next _ (k.drainTimer _ h) rfl
  | resendTimer => exact next _ (k.resend _ h) rfl
  | archiveRecordComplete => exact next _ (k.archived _ h) rfl
  | archiveReadyRise => exact next _ (k.archive _ h) rfl
  | archiveReadyFall => exact next _ (k.noArchive _ h) rfl
  | reportSent => exact next _ (k.reported _ h) rfl

/-- Every step keeps the law. -/
theorem step (k : Keeps P) (s t : State) (h : P s) (e : step s = .next t) : P t := by
  unfold Machine.step at e
  split at e
  · exact Host.Outcome.next.inj e ▸ k.idle s h
  · exact k.exec _ _ _ (k.queue _ _ h) e

end Keeps

end Sys2Proof.Machine
end

