-- ==== Sys2Proof/Laws/Ports.lean ====
section
/-! SUPPORT. What queueing and transmission leave of a port: all that it learnt of its link. -/

namespace Sys2Proof.Machine

-- One proof after the other: the whole package is compiled as one text, and needs few threads so.
set_option Elab.async false

/-- What a port learnt of its link is the same. -/
structure Port.Steady (x y : Port) : Prop where
  link : y.link = x.link
  carrier : y.carrier = x.carrier
  neighbour : y.neighbour = x.neighbour
  cause : y.cause = x.cause
  silence : y.silence = x.silence
  seen1 : y.seen1 = x.seen1
  seen2 : y.seen2 = x.seen2
  lane1 : y.lane1 = x.lane1
  lane2 : y.lane2 = x.lane2
  heldUntil : y.heldUntil = x.heldUntil

/-- What both ports learnt of their links is the same. -/
def State.Steady (s t : State) : Prop := ∀ p, (s.port p).Steady (t.port p)

theorem Port.Steady.refl (x : Port) : x.Steady x := ⟨rfl, rfl, rfl, rfl, rfl, rfl, rfl, rfl, rfl, rfl⟩

theorem Port.Steady.trans {x y z : Port} (h : x.Steady y) (k : y.Steady z) : x.Steady z :=
  ⟨k.link.trans h.link, k.carrier.trans h.carrier, k.neighbour.trans h.neighbour,
    k.cause.trans h.cause, k.silence.trans h.silence, k.seen1.trans h.seen1, k.seen2.trans h.seen2,
    k.lane1.trans h.lane1, k.lane2.trans h.lane2, k.heldUntil.trans h.heldUntil⟩

theorem State.Steady.refl (s : State) : s.Steady s := fun _ => .refl _

theorem State.Steady.trans {s t u : State} (h : s.Steady t) (k : t.Steady u) : s.Steady u :=
  fun p => (h p).trans (k p)

/-- An update of one port that leaves what it learnt leaves both ports so. -/
theorem State.onPort_steady (p : PortId) (f : Port → Port) (s : State)
    (h : ∀ x : Port, x.Steady (f x)) : s.Steady (s.onPort p f) := by
  intro q
  rw [State.onPort_at]
  split
  · rename_i e
    subst e
    exact h _
  · exact .refl _

/-- A port update of that kind with an operation after it. -/
theorem State.onPort_steady_then {p : PortId} {f : Port → Port} {s t : State}
    (k : (s.onPort p f).Steady t) (h : ∀ x : Port, x.Steady (f x)) : s.Steady t :=
  (State.onPort_steady p f s h).trans k

/-- A footprint without the ports leaves both. -/
theorem Foot.steady {ps : List Part} {s t : State} (h : Foot ps s t)
    (n : Part.ports ∉ ps := by decide) : s.Steady t := by
  intro p
  rw [h.port n p]
  exact .refl _

theorem State.countPort_steady (p : PortId) (f : PortCounts → PortCounts) (s : State) :
    s.Steady (s.countPort p f) :=
  State.onPort_steady p _ s fun _ => ⟨rfl, rfl, rfl, rfl, rfl, rfl, rfl, rfl, rfl, rfl⟩

theorem startLinkLocal_steady (p : PortId) (s : State) : s.Steady (startLinkLocal p s) := by
  unfold startLinkLocal
  split
  · exact State.onPort_steady _ _ _ fun _ => ⟨rfl, rfl, rfl, rfl, rfl, rfl, rfl, rfl, rfl, rfl⟩
  · exact State.onPort_steady _ _ _ fun _ => ⟨rfl, rfl, rfl, rfl, rfl, rfl, rfl, rfl, rfl, rfl⟩
  · exact .refl _

theorem offerHello_steady (p : PortId) (s : State) : s.Steady (offerHello p s) := by
  unfold offerHello
  dsimp only
  split
  · exact .refl _
  · split
    · exact State.countPort_steady _ _ _
    · exact State.onPort_steady_then (startLinkLocal_steady _ _) fun _ => ⟨rfl, rfl, rfl, rfl, rfl, rfl, rfl, rfl, rfl, rfl⟩

theorem offerHold_steady (p : PortId) (t : Nat) (s : State) : s.Steady (offerHold p t s) := by
  unfold offerHold
  split
  · split
    · exact State.countPort_steady _ _ _
    · exact State.onPort_steady_then (startLinkLocal_steady _ _) fun _ => ⟨rfl, rfl, rfl, rfl, rfl, rfl, rfl, rfl, rfl, rfl⟩
  · exact .refl _

theorem startCongestion_steady (p : PortId) (s : State) : s.Steady (startCongestion p s) :=
  State.onPort_steady_then (offerHold_steady _ _ _)
      fun _ => ⟨rfl, rfl, rfl, rfl, rfl, rfl, rfl, rfl, rfl, rfl⟩

theorem endCongestion_steady (p : PortId) (s : State) : s.Steady (endCongestion p s) :=
  State.onPort_steady_then (offerHold_steady _ _ _)
      fun _ => ⟨rfl, rfl, rfl, rfl, rfl, rfl, rfl, rfl, rfl, rfl⟩

theorem lane2Rose_steady (p : PortId) (s : State) : s.Steady (lane2Rose p s) := by
  unfold lane2Rose
  split
  · exact startCongestion_steady _ _
  · exact .refl _

theorem lane2Fell_steady (p : PortId) (s : State) : s.Steady (lane2Fell p s) := by
  unfold lane2Fell
  split
  · exact endCongestion_steady _ _
  · exact .refl _

theorem dropStale_steady (p : PortId) (s : State) : s.Steady (dropStale p s) :=
  State.onPort_steady _ _ _ fun _ => ⟨rfl, rfl, rfl, rfl, rfl, rfl, rfl, rfl, rfl, rfl⟩

/-- The arbiter leaves what the ports learnt of their links. -/
theorem kick_steady (p : PortId) (s : State) : s.Steady (kick p s) := by
  unfold kick
  dsimp only
  split
  · exact .refl _
  · split
    · exact startLinkLocal_steady _ _
    · exact State.onPort_steady _ _ _ fun _ => ⟨rfl, rfl, rfl, rfl, rfl, rfl, rfl, rfl, rfl, rfl⟩
    · exact State.onPort_steady_then (dropStale_steady _ _) fun _ => ⟨rfl, rfl, rfl, rfl, rfl, rfl, rfl, rfl, rfl, rfl⟩
    · split
      · exact .refl _
      · exact State.onPort_steady_then (lane2Fell_steady _ _) fun _ => ⟨rfl, rfl, rfl, rfl, rfl, rfl, rfl, rfl, rfl, rfl⟩
    · exact .refl _

theorem Port.join_steady (lane : Nat) (f : Bytes) (x : Port) : x.Steady (x.join lane f) := by
  unfold Port.join
  split <;> exact ⟨rfl, rfl, rfl, rfl, rfl, rfl, rfl, rfl, rfl, rfl⟩

theorem afterJoin_steady (p : PortId) (lane : Nat) (s : State) : s.Steady (afterJoin p lane s) := by
  unfold afterJoin
  split
  · exact .refl _
  · split
    · exact dropStale_steady _ _
    · exact .refl _
  · exact lane2Rose_steady _ _

/-- An offer to a lane leaves what the ports learnt of their links. -/
theorem offerFrame_steady (p : PortId) (lane : Nat) (f : Bytes) (s : State) :
    s.Steady (offerFrame p lane f s) := by
  unfold offerFrame
  split
  · exact .refl _
  · exact State.countPort_steady _ _ _
  · exact State.onPort_steady_then ((afterJoin_steady _ _ _).trans (kick_steady _ _))
      (Port.join_steady _ _)

theorem deliver_steady (k : RingKind) (own : Bool) (bs : Bytes) (s : State) :
    s.Steady (deliver k own bs s) := by
  have h := deliver_foot k own bs s
  cases k <;> cases own <;> exact h.steady (by decide)

/-- An origination leaves what the ports learnt of their links. -/
theorem originate_steady (k : RingKind) (body : Bytes) (s : State) :
    s.Steady (originate k body s) := by
  unfold originate
  split
  · exact (State.countDlu_foot _ _).steady
  · unfold originateFrame
    dsimp only
    refine .trans (.trans (.trans ?_ (offerFrame_steady _ _ _ _)) (offerFrame_steady _ _ _ _))
      (deliver_steady _ _ _ _)
    exact (State.onDlu_foot _ _).steady

theorem sendEntry_steady (b : KeepBody) (s : State) : s.Steady (sendEntry b s) :=
  (originate_steady .keep _ _).trans (advanceDrain_foot _).steady

theorem drainLoop_steady (n : Nat) (s : State) : s.Steady (drainLoop n s) := by
  induction n generalizing s with
  | zero => exact .refl _
  | succ n ih =>
    unfold drainLoop
    split
    · exact (sendEntry_steady _ _).trans (ih _)
    · exact .refl _

theorem drain_steady (s : State) : s.Steady (drain s) := drainLoop_steady _ _

theorem makeAir_steady (b : Batch) (g : Segment) (s : State) : s.Steady (makeAir b g s) := by
  unfold makeAir
  split
  · exact .trans (State.onSgc_foot _ _).steady (originate_steady _ _ _)
  · exact .refl _

theorem codeSegment_steady (s : State) : s.Steady (codeSegment s) := by
  unfold codeSegment
  split
  · exact .refl _
  · split
    · exact (completeBatch_foot _ _).steady
    · exact (((makeAir_steady _ _ _).trans (makeKeep_foot _ _).steady).trans (drain_steady _)).trans
        (continueBatch_foot _ _ _).steady

theorem codeSegments_steady (n : Nat) (s : State) : s.Steady (codeSegments n s) := by
  induction n generalizing s with
  | zero => exact .refl _
  | succ n ih => exact (codeSegment_steady s).trans (ih _)

/-- Finishing a batch leaves what the ports learnt of their links. -/
theorem finishBatch_steady (s : State) : s.Steady (finishBatch s) := by
  unfold finishBatch
  split
  · exact .refl _
  · exact codeSegments_steady _ _

/-- The tests at the end of an event leave what the ports learnt of their links. -/
theorem settle_steady (s : State) : s.Steady (settle s) :=
  ((drain_steady _).trans (reportFinished_foot _).steady).trans (testDone_foot _).steady

end Sys2Proof.Machine
end

