-- ==== Sys2Proof/Laws/Roster.lean ====
section
/-! SUPPORT. The kinds of the roster's entries: where each comes from, and how many that makes; and what an
abort leaves of a port. -/

namespace Sys2Proof.Machine

-- One proof after the other: the whole package is compiled as one text, and needs few threads so.
set_option Elab.async false

/-! ### The kinds of the entries (R90) -/

/-- Entries in order that all stand in a list, by a key that tells them apart, are no more than the list. -/
theorem length_le_of_keys (es : List RosterEntry) (keys : List Nat)
    (o : es.Pairwise fun a b => a.track < b.track) (h : ∀ e ∈ es, e.track ∈ keys) :
    es.length ≤ keys.length := by
  have nodup : (es.map (·.track)).Nodup :=
    (List.pairwise_map.2 o).imp fun lt => Nat.ne_of_lt lt
  have sub : es.map (·.track) ⊆ keys := fun k hk => by
    obtain ⟨e, he, rfl⟩ := List.mem_map.1 hk
    exact h e he
  simpa using nodup.length_le_of_subset sub

/-- There are at most 32 patched channels. -/
theorem State.patched_length (s : State) : s.patched.length ≤ 32 := by
  have := List.length_filterMap_le (fun ch => (s.patchOf ch).map fun e => (ch, e)) (List.range 32)
  rwa [List.length_range] at this

/-- The bounds of R90 follow from where the entries come from. -/
theorem KindLaw.of_sources (s : State) (o : s.rst.Ordered) (n : s.statics.length ≤ 64)
    (listed : ∀ e ∈ s.rst.entries, e.claim.isPin = true ∨ e.claim.isBar = true →
      ∃ x ∈ s.statics, staticEntry x = e)
    (patched : ∀ e ∈ s.rst.entries, e.claim.isLocal = true →
      ∃ p ∈ s.patched, p.2.track = e.track) : KindLaw s where
  listed := listed
  patched := patched
  statics := by
    refine Nat.le_trans (length_le_of_keys _ (s.statics.map fun x => (staticEntry x).track)
      (o.sublist List.filter_sublist) fun e he => ?_) (by simpa using n)
    obtain ⟨m, k⟩ := List.mem_filter.1 he
    obtain ⟨x, hx, rfl⟩ := listed e m (by simpa using k)
    exact List.mem_map.2 ⟨x, hx, rfl⟩
  locals := by
    refine Nat.le_trans (length_le_of_keys _ (s.patched.map fun p => p.2.track)
      (o.sublist List.filter_sublist) fun e he => ?_) (by simpa using s.patched_length)
    obtain ⟨m, k⟩ := List.mem_filter.1 he
    obtain ⟨p, hp, e⟩ := patched e m k
    exact List.mem_map.2 ⟨p, hp, e⟩

/-- An accepted AIR frame leaves the roster's entries. -/
theorem acceptAir_entries (o : Nat) (a : AirBody) (s : State) :
    (acceptAir o a s).rst.entries = s.rst.entries := by
  unfold acceptAir
  dsimp only
  split
  · rw [(takeArrival_foot _ _).rst (by decide)]
    rfl
  · rfl

/-- An AIR frame adds or changes a LEARNED entry alone: every other entry was there before (R95 to R98). -/
theorem rosterAir_kinds (o : Nat) (a : AirBody) (s : State) (e : RosterEntry)
    (h : e ∈ (rosterAir o a s).rst.entries) (k : e.claim.isLearned = false) : e ∈ s.rst.entries := by
  have learnt : e ∈ putEntry { track := a.track, claim := .learned o a.group a.index } s.rst.entries →
      e ∈ s.rst.entries := fun m => by
    rcases putEntry_mem _ _ _ m with rfl | m
    · cases k
    · exact m
  unfold rosterAir at h
  split at h
  · exact h
  split at h
  · exact h
  split at h
  · exact h
  · rw [acceptAir_entries] at h; exact learnt h
  · rw [acceptAir_entries] at h; exact learnt h
  · rw [acceptAir_entries] at h; exact learnt h
  · rwa [acceptAir_entries] at h

/-- A patched channel's LOCAL entry is the one entry that its making adds (R104, Table 6-4). -/
theorem makeLocal_kinds (p : PatchEntry) (s : State) (e : RosterEntry)
    (h : e ∈ (makeLocal p s).rst.entries) :
    e = { track := p.track, claim := .localTrack p.group } ∨ e ∈ s.rst.entries := by
  unfold makeLocal at h
  dsimp only at h
  split at h
  · split at h
    · exact .inr h
    · exact putEntry_mem _ _ _ h
  · exact .inr h
  · exact putEntry_mem _ _ _ h
  · exact .inr h
  · exact .inr h

/-! ### A port that goes to DOWN (R64) -/

/-- What an abort leaves: a HELLO completes, and any other frame in transmission is gone and counted. -/
theorem Port.abort_tx (x : Port) :
    (∀ f, x.abort.tx = some f → ∃ b, f = .hello b) ∧
    (∀ b, x.tx = some (.hello b) → x.abort = x) ∧ (x.tx = none → x.abort = x) ∧
    (∀ f, x.tx = some f → (∀ b, f ≠ .hello b) →
      x.abort = { x with tx := none, counts := { x.counts with txAbort := up x.counts.txAbort } }) := by
  obtain ⟨⟩ := x
  rename_i tx _ _ _
  rcases tx with _ | ⟨_ | _ | _⟩ <;> simp [Port.abort, txInDown, upIf]

end Sys2Proof.Machine
end

