-- ==== Sys2Proof/Laws/Spool.lean ====
section
/-! SUPPORT. The operations of the spool keep its law, and a drain ends barred by a condition of R152. -/

namespace Sys2Proof.Machine

-- One proof after the other: the whole package is compiled as one text, and needs few threads so.
set_option Elab.async false

/-- The entry at drain carries the sequence drain. -/
theorem Ksp.Law.atDrain_sequence {k : Ksp} (h : k.Law) {b : KeepBody} (e : k.atDrain = some b) :
    b.sequence = k.drain := by
  rw [h.numbered _ _ e, Ksp.drained, BitVec.ofNat_toNat, BitVec.setWidth_eq]
  bv_omega

/-- In a lawful spool with an undrained entry there is one at drain. -/
theorem Ksp.Law.atDrain_isSome {k : Ksp} (h : k.Law) (n : 0 < k.undrained) :
    ∃ b, k.atDrain = some b := by
  have := h.order
  have := h.held
  exact ⟨k.entries[k.drained]'(by omega), List.getElem?_eq_getElem _⟩

/-! ### Wrapping differences -/

theorem toNat_sub_succ (a b : Word) (h : 0 < (a - b).toNat) :
    (a - (b + 1)).toNat = (a - b).toNat - 1 := by
  have : a - (b + 1) = (a - b) - 1 := by bv_omega
  rw [this]
  bv_omega

theorem toNat_succ_sub (a b : Word) (h : (a - b).toNat < 2 ^ 32 - 1) :
    ((a + 1) - b).toNat = (a - b).toNat + 1 := by
  have : (a + 1) - b = (a - b) + 1 := by bv_omega
  rw [this]
  bv_omega

theorem toNat_sub_split (a b c : Word) (h : (b - c).toNat ≤ (a - c).toNat) :
    (a - b).toNat = (a - c).toNat - (b - c).toNat := by
  have : a - b = (a - c) - (b - c) := by bv_omega
  rw [this]
  bv_omega

theorem ofNat_toNat_add (f t : Word) (i : Nat) :
    f + BitVec.ofNat 32 ((t - f).toNat + i) = t + BitVec.ofNat 32 i := by
  rw [BitVec.ofNat_add, BitVec.ofNat_toNat, BitVec.setWidth_eq]
  bv_omega

/-! ### The operations -/

/-- Append keeps the law of a spool that is not full (R151). -/
theorem Ksp.Law.append {k : Ksp} (h : k.Law) (b : KeepBody) (n : k.full = false) :
    (k.append b).Law := by
  have hn : k.retained < spoolCapacity := by simpa [Ksp.full] using n
  have ho := h.order
  have h1 : ((k.write + 1) - k.free).toNat = (k.write - k.free).toNat + 1 :=
    toNat_succ_sub _ _ (by simp only [Ksp.retained, spoolCapacity] at hn; omega)
  have h2 : ((k.write + 1) - k.drain).toNat = (k.write - k.drain).toNat + 1 :=
    toNat_succ_sub _ _ (by
      simp only [Ksp.retained, Ksp.undrained, spoolCapacity] at hn ho; omega)
  have hh := h.held
  refine ⟨?_, ?_, ?_, ?_, h.timer⟩
  · simp only [Ksp.append, Ksp.drained, Ksp.undrained, Ksp.retained] at ho ⊢
    omega
  · simp only [Ksp.append, Ksp.retained] at hn ⊢
    omega
  · simp only [Ksp.append, Ksp.retained, List.length_append, List.length_singleton] at hh ⊢
    omega
  · intro i x hx
    simp only [Ksp.append, List.getElem?_append] at hx
    split at hx
    · exact h.numbered i x hx
    · rename_i hi
      have hi' : i = k.entries.length := by
        cases hj : i - k.entries.length with
        | zero => omega
        | succ j => rw [hj] at hx; simp at hx
      subst hi'
      simp only [Nat.sub_self, List.getElem?_cons_zero, Option.some.injEq] at hx
      subst hx
      simp only [Ksp.append, hh, Ksp.retained]
      rw [BitVec.ofNat_toNat, BitVec.setWidth_eq]
      bv_omega

theorem Ksp.Law.lose {k : Ksp} (h : k.Law) : k.lose.Law := ⟨h.order, h.room, h.held, h.numbered, h.timer⟩

/-- A KEEP record handed over keeps the law (R151). -/
theorem appendKeep_law (b : KeepBody) (s : State) (h : s.ksp.Law) : (appendKeep b s).ksp.Law := by
  unfold appendKeep
  split
  · exact h
  · split
    · dsimp only
      split <;> exact h.lose
    · rename_i n
      exact h.append b (by simpa using n)

/-- Drain moving past the entry it has sent keeps the law (R153, R156). -/
theorem advanceDrain_law (s : State) (h : s.ksp.Law) (n : 0 < s.ksp.undrained) :
    (advanceDrain s).ksp.Law := by
  have ho := h.order
  have hr := h.room
  have hs := toNat_sub_succ s.ksp.write s.ksp.drain n
  have hd : ((s.ksp.drain + 1) - s.ksp.free).toNat = (s.ksp.drain - s.ksp.free).toNat + 1 :=
    toNat_succ_sub _ _ (by
      simp only [Ksp.retained, Ksp.drained, spoolCapacity] at hr ho; omega)
  refine ⟨?_, h.room, h.held, h.numbered, ?_⟩
  · simp only [advanceDrain, State.onKsp_ksp, Ksp.drained, Ksp.undrained, Ksp.retained] at n ho ⊢
    omega
  · simp only [advanceDrain, State.onKsp_ksp]
    have hne : ¬ s.ksp.free = s.ksp.drain + 1 := by
      intro e
      rw [← e] at hd
      simp at hd
    have := h.timer
    split
    · exact ⟨fun e => by simp at e, fun e => absurd e hne⟩
    · rename_i hf
      exact ⟨fun e => absurd (this.1 e) hf, fun e => absurd e hne⟩

/-- Free moving to a target between it and drain keeps the law (R155, R156). -/
theorem moveFree_law (t : Word) (s : State) (h : s.ksp.Law)
    (n : (t - s.ksp.free).toNat ≤ s.ksp.drained) : (moveFree t s).ksp.Law := by
  have ho := h.order
  have hr := h.room
  have hh := h.held
  have hd := toNat_sub_split s.ksp.drain t s.ksp.free n
  have hw := toNat_sub_split s.ksp.write t s.ksp.free (by
    simp only [Ksp.retained, Ksp.drained] at ho n; omega)
  refine ⟨?_, ?_, ?_, ?_, ?_⟩
  · simp only [moveFree, State.onKsp_ksp, Ksp.drained, Ksp.undrained, Ksp.retained] at n ho ⊢
    omega
  · simp only [moveFree, State.onKsp_ksp, Ksp.retained] at hr ⊢
    omega
  · simp only [moveFree, State.onKsp_ksp, Ksp.retained, List.length_drop] at hh ⊢
    omega
  · intro i b hb
    simp only [moveFree, State.onKsp_ksp, List.getElem?_drop] at hb ⊢
    rw [h.numbered _ _ hb, ofNat_toNat_add]
  · simp only [moveFree, State.onKsp_ksp]
    split <;> simp_all

/-- Freeing keeps the law (R155). -/
theorem recomputeFree_law (s : State) (h : s.ksp.Law) : (recomputeFree s).ksp.Law := by
  unfold recomputeFree
  split
  · exact h
  · rename_i t ht
    split
    · rename_i hn
      split
      · exact ⟨h.order, h.room, h.held, h.numbered, h.timer⟩
      refine moveFree_law t s h ?_
      have ho := h.order
      have hr := h.room
      simp only [State.freeTarget, Option.map_eq_some_iff] at ht
      obtain ⟨k, -, rfl⟩ := ht
      unfold olderOf at hn ⊢
      split
      · rename_i hk
        rw [if_pos hk] at hn
        simp only [newer, Bool.and_eq_true, decide_eq_true_eq] at hn hk
        simp only [Ksp.retained, Ksp.drained, spoolCapacity] at hr ho ⊢
        have : s.ksp.drain - s.ksp.free = (s.ksp.drain - (k + 1)) + ((k + 1) - s.ksp.free) := by
          bv_omega
        have := congrArg BitVec.toNat this
        rw [BitVec.toNat_add] at this
        omega
      · exact Nat.le_refl _
    · exact h

theorem goBack_law {k : Ksp} (n : Time) (h : k.Law) : (k.goBack n).Law := by
  refine ⟨?_, h.room, h.held, h.numbered, ?_⟩
  · simp [Ksp.goBack, Ksp.drained, Ksp.undrained, Ksp.retained]
  · simp [Ksp.goBack]

theorem atArm_law (k : Ksp) : k.atArm.Law := by
  refine ⟨?_, by simp [Ksp.atArm, Ksp.retained], by simp [Ksp.atArm, Ksp.retained], ?_, ?_⟩
  · simp [Ksp.atArm, Ksp.retained, Ksp.drained, Ksp.undrained]
  · intro i b hb
    simp [Ksp.atArm] at hb
  · simp [Ksp.atArm]

/-! ### The drain -/

theorem tellOwnSpool_law (o : Nat) (i : Word) (s : State) (h : s.ksp.Law) :
    (tellOwnSpool o i s).ksp.Law := by
  unfold tellOwnSpool
  split
  · exact recomputeFree_law s h
  · exact h

theorem takeKeep_law (o : Nat) (i : Word) (b : KeepBody) (f : Word) (s : State) (h : s.ksp.Law) :
    (takeKeep o i b f s).ksp.Law := by
  unfold takeKeep
  split
  · exact h
  · dsimp only
    split
    · exact tellOwnSpool_law _ _ _ h
    · exact tellOwnSpool_law _ _ _ h
    all_goals exact h

/-- Freeing leaves the write sequence and drain. -/
theorem recomputeFree_drain (s : State) : (recomputeFree s).ksp.write = s.ksp.write ∧
    (recomputeFree s).ksp.drain = s.ksp.drain ∧ (recomputeFree s).ksp.lostRun = s.ksp.lostRun := by
  unfold recomputeFree
  split
  · exact ⟨rfl, rfl, rfl⟩
  · split
    · split <;> exact ⟨rfl, rfl, rfl⟩
    · exact ⟨rfl, rfl, rfl⟩

theorem tellOwnSpool_drain (o : Nat) (i : Word) (s : State) :
    (tellOwnSpool o i s).ksp.write = s.ksp.write ∧ (tellOwnSpool o i s).ksp.drain = s.ksp.drain ∧
      (tellOwnSpool o i s).ksp.lostRun = s.ksp.lostRun := by
  unfold tellOwnSpool
  split
  · exact recomputeFree_drain s
  · exact ⟨rfl, rfl, rfl⟩

theorem takeKeep_drain (o : Nat) (i : Word) (b : KeepBody) (f : Word) (s : State) :
    (takeKeep o i b f s).ksp.write = s.ksp.write ∧ (takeKeep o i b f s).ksp.drain = s.ksp.drain ∧
      (takeKeep o i b f s).ksp.lostRun = s.ksp.lostRun := by
  unfold takeKeep
  split
  · exact ⟨rfl, rfl, rfl⟩
  · dsimp only
    split
    · exact tellOwnSpool_drain _ _ _
    · exact tellOwnSpool_drain _ _ _
    all_goals exact ⟨rfl, rfl, rfl⟩

/-- A KEEP origination keeps the law, and leaves the write sequence and drain. -/
theorem originateKeep_ksp (body : Bytes) (s : State) :
    (s.ksp.Law → (originate .keep body s).ksp.Law) ∧
      (originate .keep body s).ksp.write = s.ksp.write ∧
      (originate .keep body s).ksp.drain = s.ksp.drain ∧
      (originate .keep body s).ksp.lostRun = s.ksp.lostRun := by
  unfold originate
  split
  · exact ⟨id, rfl, rfl, rfl⟩
  · unfold originateFrame
    dsimp only
    generalize hx : offerFrame .b RingKind.keep.lane _ _ = x
    have hk : x.ksp = s.ksp := by
      rw [← hx, (offerFrame_foot _ _ _ _).ksp (by decide), (offerFrame_foot _ _ _ _).ksp (by decide)]
      rfl
    unfold deliver
    split
    · have h := fun o i b f => takeKeep_drain o i b f (x.countDlu RingKind.keep.countDelivered)
      have g := fun o i b f => takeKeep_law o i b f (x.countDlu RingKind.keep.countDelivered)
      simp only [toBlock]
      rw [← hk]
      exact ⟨g _ _ _ _, h _ _ _ _⟩
    · rw [hk]
      exact ⟨id, rfl, rfl, rfl⟩

/-- A sent entry leaves the law and the write sequence, and one undrained entry fewer. -/
theorem sendEntry_ksp (b : KeepBody) (s : State) (h : s.ksp.Law) (n : 0 < s.ksp.undrained) :
    (sendEntry b s).ksp.Law ∧ (sendEntry b s).ksp.undrained = s.ksp.undrained - 1 := by
  obtain ⟨h1, h2, h3, -⟩ := originateKeep_ksp (keepBytes b s.ksp.free) s
  have hu : (originate .keep (keepBytes b s.ksp.free) s).ksp.undrained = s.ksp.undrained := by
    simp only [Ksp.undrained, h2, h3]
  refine ⟨advanceDrain_law _ (h1 h) (by rw [hu]; exact n), ?_⟩
  rw [← hu]
  exact toNat_sub_succ _ _ (by rw [← hu] at n; exact n)

theorem drainLoop_law (n : Nat) (s : State) (h : s.ksp.Law) (e : n ≤ s.ksp.undrained) :
    (drainLoop n s).ksp.Law := by
  induction n generalizing s with
  | zero => exact h
  | succ n ih =>
    unfold drainLoop
    split
    · obtain ⟨h1, h2⟩ := sendEntry_ksp _ s h (by omega)
      exact ih _ h1 (by omega)
    · exact h

/-- The drain keeps the law of the spool. -/
theorem drain_law (s : State) (h : s.ksp.Law) : (drain s).ksp.Law := drainLoop_law _ _ h (Nat.le_refl _)

/-- With nothing undrained the drain is barred. -/
theorem drainBlock_of_drained (s : State) (h : s.ksp.undrained = 0) : s.drainBlock ≠ none := by
  have hd : s.ksp.drain = s.ksp.write := by
    have : (s.ksp.write - s.ksp.drain).toNat = 0 := h
    bv_omega
  unfold State.drainBlock
  split
  · exact Option.some_ne_none _
  · split
    · exact Option.some_ne_none _
    · exact Option.some_ne_none _

theorem drainLoop_barred (n : Nat) (s : State) (h : s.ksp.Law) (e : s.ksp.undrained ≤ n) :
    (drainLoop n s).drainBlock ≠ none := by
  induction n generalizing s with
  | zero => exact drainBlock_of_drained s (by omega)
  | succ n ih =>
    by_cases hn : s.ksp.undrained = 0
    · have hb := drainBlock_of_drained s hn
      unfold drainLoop
      split
      · rename_i e _
        exact absurd e hb
      · exact hb
    · unfold drainLoop
      split
      · obtain ⟨h1, h2⟩ := sendEntry_ksp _ s h (by omega)
        exact ih _ h1 (by omega)
      · rename_i hx
        intro hb
        obtain ⟨b, hbb⟩ := h.atDrain_isSome (by omega)
        exact hx b hb hbb

/-- A drain of a lawful spool ends barred by a condition of R152. -/
theorem drain_barred (s : State) (h : s.ksp.Law) : (drain s).drainBlock ≠ none :=
  drainLoop_barred _ _ h (Nat.le_refl _)

theorem drainLoop_ksp (n : Nat) (s : State) : (drainLoop n s).ksp.write = s.ksp.write ∧
    (drainLoop n s).ksp.lostRun = s.ksp.lostRun := by
  induction n generalizing s with
  | zero => exact ⟨rfl, rfl⟩
  | succ n ih =>
    unfold drainLoop
    split
    · obtain ⟨-, h2, -, h4⟩ := originateKeep_ksp (keepBytes _ s.ksp.free) s
      obtain ⟨h5, h6⟩ := ih (sendEntry _ s)
      exact ⟨h5.trans h2, h6.trans h4⟩
    · exact ⟨rfl, rfl⟩

/-- The tests at the end of an event keep the law of the spool, the write sequence and the lost run. -/
theorem settle_ksp (s : State) : (s.ksp.Law → (settle s).ksp.Law) ∧
    (settle s).ksp.write = s.ksp.write ∧ (settle s).ksp.lostRun = s.ksp.lostRun := by
  have h : (settle s).ksp = (drain s).ksp := by
    unfold settle
    rw [(testDone_foot _).ksp (by decide), (reportFinished_foot _).ksp (by decide)]
  rw [h]
  exact ⟨drain_law s, drainLoop_ksp _ _⟩

end Sys2Proof.Machine
end

