-- ==== Sys2Proof/Tests/Slice0.lean ====
section
/-! SUPPORT. Small checks of the model on fixed values, and for every statement with hypotheses a concrete
state and operands that meet them all. -/

namespace Sys2Proof.Tests

open Sys2Proof Sys2Proof.Machine

-- The checks are kernel evaluations: one after the other they need few threads.
set_option Elab.async false

/-! ### Well-formed commands: each check with a command it refuses -/

/-- A number of bits of one level. -/
def zeros (n : Nat) : List Bool := List.replicate n false

theorem test_wf_line : (Instr.lossOfFraming { line := 3, runs := [zeros 16] }).wf = true ∧
    (Instr.lossOfFraming { line := 3, runs := [zeros 50, zeros 16] }).wf = true ∧
    (Instr.lossOfFraming { line := 4, runs := [zeros 16] }).wf = false ∧
    (Instr.lossOfFraming { line := 3, runs := [zeros 15] }).wf = false ∧
    (Instr.lossOfFraming { line := 3, runs := [] }).wf = false := by
  decide +kernel

theorem test_wf_frame_bits : (Instr.sampleFrameComplete 0 [zeros 216]).wf = true ∧
    (Instr.sampleFrameComplete 0 [zeros 50, zeros 216]).wf = true ∧
    (Instr.sampleFrameComplete 0 [zeros 100, zeros 115]).wf = false ∧
    (Instr.sampleFrameComplete 4 [zeros 216]).wf = false := by
  decide +kernel

theorem test_wf_station : (Instr.peerLossTimer 1).wf = true ∧ (Instr.peerLossTimer 16).wf = true ∧
    (Instr.peerLossTimer 0).wf = false ∧ (Instr.peerLossTimer 17).wf = false := by
  decide

theorem test_wf_frame : (Instr.rxFrameComplete .a [1]).wf = true ∧
    (Instr.rxFrameComplete .a []).wf = false := by
  decide

/-! ### A configuration and the states of the tests -/

/-- Station 1: channel 0 patched to track 5 in group 0 with its KEEP record; both outlet roles. -/
def cfg : Configuration where
  hall := 7
  rate := .r48
  budget := 100000
  ceiling := 7
  age := 5
  station := 1
  attn := 0x7FF
  lead := 10
  drainEnd := 1
  patch := some { track := 5, group := 0, keep := true } :: List.replicate 31 none
  highMark := 16
  lowMark := 8
  holdTime := 100
  guard := true
  limits := List.replicate 16 1
  statics := [.pin 9 2 0]
  cueInit := List.replicate 16 .dark ++ [.off]
  airRole := true
  latency := 10
  conceal := 1
  cutMode := .quiet
  cutRef := true
  cutEpoch := true
  cutDup := true
  cutOp := true
  keepRole := true
  resend := 100

/-- The same without the outlet roles and the cut triggers. -/
def cfgPlain : Configuration :=
  { cfg with airRole := false, keepRole := false, cutRef := false, cutEpoch := false, cutDup := false
             cutOp := false }

/-- A cue table of untouched items. -/
def items0 : List CueItem :=
  List.replicate 16 { value := .dark, number := 0, origin := 0 } ++
    [{ value := .off, number := 0, origin := 0 }]

/-- CONFIGURED with the reference LOCKED at house count 100. -/
def sConf : State where
  tlu := { station := .configured, ref := .locked, run := 3, lastMark := some 100
           lossTimer := some 15000000, houseCount := some 100 }
  lku := { digest := some 77, helloAt := some 1000000 }
  pcu := { cues := some items0 }
  csu := { silent := false, config := some cfg, pendingAttn := State.reset.csu.pendingAttn }

/-- ARMED with incarnation 100, no epoch. -/
def sArmed : State := { sConf with
  tlu := { sConf.tlu with station := .armed, incarnation := some 100 }
  lku := { sConf.lku with enabled := true }
  dlu := { nextSeq := 1 }
  pcu := { sConf.pcu with beaconAt := some 50000000 }
  csu := { sConf.csu with locked := true } }

/-- RUNNING at index 10 under base 90. -/
def sRun : State := { sArmed with
  tlu := { sArmed.tlu with
    station := .running, epoch := some { base := 90, source := 1 }, curIndex := some 10, high := some 10 } }

/-- ENDING with L = 12 and the drain timer running. -/
def sEnd : State := { sRun with
  tlu := { sRun.tlu with station := .ending, last := some 12, endTimer := .runningUntil 1000000000 } }

/-- A MUTED station in RUNNING. -/
def sMuted : State := { sRun with
  dlu := { sRun.dlu with muted := some { port := .a, incarnation := 1, sequence := 1 } } }

/-- A neighbour of id 2 with a matching digest and both lanes enabled. -/
def nb : Neighbour where
  station := 2
  letter := .b
  state := .running
  digest := 77
  enable1 := true
  enable2 := true
  seen1 := true
  seen2 := true
  takenAt := 0

/-- A port UP to that neighbour with both lanes OPEN. -/
def upPort : Port where
  link := .up
  carrier := true
  neighbour := some nb
  silence := some 4000000
  seen1 := true
  seen2 := true
  lane1 := .opened
  lane2 := .opened

/-- RUNNING with port A UP. -/
def sUp : State := { sRun with lku := { sRun.lku with portA := upPort } }

/-- What holds of the next state of a command; false where there is none. -/
def after (c : Instr) (s : State) (p : State → Bool) : Bool :=
  match exec c s with
  | .next t => p t
  | .fault _ => false
  | .refused _ => false

/-- A lane 0 frame of station 2. -/
def startFrame : Bytes := ringBytes .start { origin := 2, incarnation := 5, sequence := 0 } (put32 100)

/-! ### Words written out from the tables -/

/-- The check value of the CRC (Table 11-1). -/
theorem test_crc : crc32 [0x31, 0x32, 0x33, 0x34, 0x35, 0x36, 0x37, 0x38, 0x39] = 0xCBF43926#32 := by
  decide +kernel
/-- A HOLD of 1,000 µs from station 3, byte by byte (Table 11-4). -/
theorem test_hold_bytes :
    holdBytes 3 1000 = [0x02, 0x03, 0x03, 0xE8, 0x0C, 0xF7, 0x90, 0x47] := by
  decide +kernel

/-- A START of station 2, incarnation 5, sequence 0, base 100, byte by byte (Table 11-5). -/
theorem test_start_bytes : startFrame =
    [0x03, 0x02, 0x00, 0x00, 0x00, 0x00, 0x00, 0x05, 0x00, 0x00, 0x00, 0x00, 0x00, 0x16,
     0x00, 0x00, 0x00, 0x64, 0x8D, 0x89, 0xE9, 0xC9] := by
  decide +kernel

/-! ### The machine and reset -/

/-- Hypotheses of `StepRunsFrontCommand`: a command in front, and an empty queue. -/
theorem test_witness_step : ({ sRun with pending := [.sampleTake] } : State).pending =
    Instr.sampleTake :: [] ∧ sRun.pending = [] := by
  decide

theorem test_power_on : after .powerOnReset sRun (fun t => t.tlu.station == .unconfigured &&
    t.csu.config.isNone && t.csu.pendingAttn == List.replicate 10 none ++ [some .powerOn]) = true := by
  decide +kernel

theorem test_console_reset : after .consoleReset sRun (fun t =>
    t.csu.pendingAttn == List.replicate 10 none ++ [some .console]) = true := by
  decide +kernel

/-! ### Reports -/

/-- Hypothesis of `ShowReports` and of the console commands. -/
theorem test_witness_takesLines : State.reset.csu.takesLines = true ∧ sRun.csu.takesLines = true := by
  decide

/-- A WATCH that runs, with no reply under way. -/
def sWatch (due : Bool) : State := { sRun with
  csu := { sRun.csu with watch := some { item := .ref, repeatAt := some 250000000, due := due } } }

/-- The same with a reply under way. -/
def sWatchBusy (due : Bool) : State := { sWatch due with
  csu := { (sWatch due).csu with tx := [.reply .ok 4] } }

/-- Hypotheses of `WatchRuns`, clause by clause. -/
theorem test_witness_watch :
    (sWatch false).csu.watch = some { item := .ref, repeatAt := some 250000000, due := false } ∧
    (sWatch false).csu.replying = false ∧ (sWatchBusy false).csu.replying = true ∧
    (sWatchBusy true).csu.watch = some { item := .ref, repeatAt := some 250000000, due := true } ∧
    (sWatchBusy true).csu.replying = true ∧ (sWatch false).csu.load = .idle ∧
    (sWatch false).csu.holding = none ∧
    ({ sWatch false with csu := { (sWatch false).csu with holding := some 1 } } : State).csu.holding =
      some 1 := by
  decide

theorem test_watch_ends : after (.characterComplete 0x41) (sWatchBusy false) (fun t =>
    t.csu.watch.isNone && t.csu.tx == [.reply .ok 4, .reply .ok 4] && t.csu.line == {}) = true := by
  decide +kernel

theorem test_watch_starts : after (.watch (some .ref)) sRun (fun t =>
    (t.csu.watch.map (·.repeatAt)) == some (some 250000000)) = true := by
  decide +kernel

/-! ### Console commands -/

/-- Hypotheses of `CommandsRefused` on the timeline, clause by clause, at the ends of the wrapping order. -/
theorem test_witness_timeline_refused :
    sArmed.armedOnward = true ∧ sRun.tlu.station ≠ .configured ∧ sRun.tlu.station ≠ .done ∧
    State.reset.tlu.ref ≠ .locked ∧ sConf.tlu.station = .configured ∧
    newer 100 100 = false ∧ newer (100 + 0x80000000#32) 100 = false ∧
    newer (100 + 0x7FFFFFFF#32) 100 = true ∧
    sMuted.muted = true ∧ sRun.muted = false ∧ sRun.tlu.station ≠ .armed ∧
    sArmed.tlu.station = .armed ∧ sArmed.tlu.epoch = none ∧
    ({ sArmed with tlu := { sArmed.tlu with ref := .lost } } : State).tlu.ref ≠ .locked ∧
    sArmed.tlu.station ≠ .running := by
  decide

/-- Hypotheses of `CommandsRefused` on the station: the items and masks at the ends of their ranges. -/
theorem test_witness_station_refused :
    sMuted.muted = true ∧ sConf.armedOnward = false ∧ sRun.armedOnward = true ∧
    cueCommandValue 17 .on = none ∧ cueCommandValue 16 .dark = none ∧
    cueCommandValue 16 .on = some .on ∧ cueCommandValue 15 .off = none ∧
    cueCommandValue 15 .on = some .on ∧
    State.reset.tlu.station = .unconfigured ∧ State.reset.csu.config = none ∧
    cfgPlain.cutOp = false ∧ (0x7FF < 0x800) ∧ (0xFFFF < 0x10000) ∧
    cfg.cutRef = true ∧ ({ sRun with tlu := { sRun.tlu with voidRun := true } } : State).tlu.voidRun = true ∧
    cfg.cutDup = true ∧ sMuted.dlu.muted.isSome = true := by
  decide

/-- Hypotheses of `ArmTaken`: a first ARM, and one with a newer count than the incarnation. -/
theorem test_witness_arm : sConf.csu.takesLines = true ∧ sConf.tlu.station = .configured ∧
    sConf.tlu.ref = .locked ∧ sConf.tlu.houseCount = some 100 ∧
    (∀ i, sConf.tlu.incarnation = some i → newer 100 i = true) ∧ newer 100 99 = true :=
  ⟨by decide, by decide, by decide, by decide, fun _ h => (by cases h), by decide⟩

/-- CONFIGURED with port A UP to an ARMED neighbour that has not seen the own enable, or has. -/
def sConfUp (seen : Bool) : State := { sConf with lku := { sConf.lku with
  portA := { upPort with neighbour := some { nb with seen1 := seen, seen2 := seen }
                         lane1 := .closed, lane2 := .closed } } }

/-- Hypotheses of `ArmTaken` on the lanes: a port UP, idle and sending, one DOWN, and lanes enabled already. -/
theorem test_witness_arm_lanes : (sConfUp true).lku.enabled = false ∧ sRun.lku.enabled = true ∧
    ((sConfUp true).port .a).link = .up ∧ ((sConfUp true).port .b).link ≠ .up ∧
    ((sConfUp true).port .a).neighbour = some nb ∧ ((sConfUp true).port .a).lane1 = .closed ∧
    upPort.lane1 ≠ .closed ∧ ((sConfUp true).port .a).refreshAt = none ∧
    ((sConfUp true).port .b).refreshAt = none ∧ ((sConfUp true).port .a).tx = none ∧
    ((sConfUp true).port .a).linkQueue = [] := by
  decide

theorem test_arm_lanes : (∀ seen : Bool, after .arm (sConfUp seen) (fun t =>
    t.lku.portA.lane1 == (if seen then .opened else .pending) &&
    t.lku.portA.lane2 == (if seen then .opened else .pending) && t.lku.portA.tx.isSome &&
    t.lku.portB.lane1 == .closed) = true) := by
  decide +kernel

theorem test_arm : after .arm sConf (fun t => t.tlu.station == .armed &&
    t.tlu.incarnation == some 100 && t.lku.enabled && t.dlu.nextSeq == 1 &&
    t.rst.entries == [{ track := 9, claim := .pin 2 0 }]) = true := by
  decide +kernel

/-- A cue table with group 0 ON and a freeze value. -/
def itemsOn (freeze : CueValue) : List CueItem :=
  { value := .on, number := 1, origin := 1 } :: (items0.drop 1).take 15 ++
    [{ value := freeze, number := 1, origin := 1 }]

/-- CONFIGURED with group 0 ON and its one channel's track 5 in the static list. -/
def sClash (x : StaticEntry) : State := { sConf with
  pcu := { sConf.pcu with cues := some (itemsOn .off) }
  csu := { sConf.csu with config := some { cfg with statics := [x] } } }

/-- Hypotheses of `ArmTaken` on the roster: no clash, a PIN and a BAR. -/
theorem test_witness_fill : sConf.statics.length ≤ 64 ∧
    (sConf.statics.map fun x => (staticEntry x).track).Nodup ∧
    (sConf.patched.map fun p => p.2.track).Nodup ∧ (sClash (.bar 5)).csu.takesLines = true ∧
    (sClash (.bar 5)).csu.attnRaised.length = 11 ∧ (sClash (.bar 5)).csu.pendingAttn.length = 11 ∧
    (sClash (.pin 5 2 0)).statics.length ≤ 64 := by
  decide +kernel

theorem test_arm_clash :
    after .arm (sClash (.bar 5)) (fun t => t.rst.counts.claimBarred == 1 &&
      t.csu.pendingAttn.getD 6 none == some (.claim .barred 5 1)) = true ∧
    after .arm (sClash (.pin 5 2 0)) (fun t => t.rst.counts.claimDouble == 1 &&
      t.csu.pendingAttn.getD 6 none == some (.claim .doubleClaim 5 2)) = true := by
  decide +kernel

/-- Hypotheses of `GoTaken`. -/
theorem test_witness_go : sArmed.csu.takesLines = true ∧ sArmed.csu.config = some cfg ∧
    1 ≤ cfg.station ∧ cfg.station ≤ 16 ∧ 10 ≤ cfg.lead ∧ cfg.lead ≤ 500 ∧
    sArmed.dlu.muted = none ∧ sArmed.tlu.station = .armed ∧
    sArmed.tlu.epoch = none ∧ sArmed.tlu.ref = .locked ∧ sArmed.tlu.houseCount = some 100 ∧
    sArmed.tlu.incarnation = some 100 := by
  decide

theorem test_go : after .go sArmed (fun t => t.tlu.epoch == some { base := 110, source := 1 } &&
    t.dlu.nextSeq == 2 && t.tlu.counts.startIgnored == 1) = true := by
  decide +kernel

/-- Hypotheses of `EndTaken`. -/
theorem test_witness_end : sRun.csu.takesLines = true ∧ sRun.csu.config = some cfg ∧
    sRun.dlu.muted = none ∧ sRun.tlu.station = .running ∧
    sRun.tlu.epoch = some { base := 90, source := 1 } ∧ sRun.tlu.curIndex = some 10 ∧
    sRun.tlu.incarnation = some 100 ∧
    (10 : Index).toInt + 2 < 2 ^ 31 ∧ (0x7FFFFFFD : Index).toInt + 2 < 2 ^ 31 ∧
    sRun.tlu.codedIndex ≠ some (10 + 2) := by
  decide

theorem test_end : after .endPerformance sRun (fun t => t.tlu.station == .ending &&
    t.tlu.last == some 12 && t.tlu.endTimer == .runningUntil 1000000000) = true := by
  decide +kernel

/-- Hypotheses of `CueCommandTaken`, for a group and for the freeze. -/
theorem test_witness_cue : sRun.dlu.muted = none ∧ sRun.tlu.incarnation = some 100 ∧ sRun.armedOnward = true ∧
    cueCommandValue 0 .on = some .on ∧ cueCommandValue 16 .on = some .on ∧
    sRun.pcu.cues = some items0 ∧ items0[0]? = some { value := .dark, number := 0, origin := 0 } ∧
    items0[16]? = some { value := .off, number := 0, origin := 0 } ∧
    newer (sRun.pcu.clock + 1) 0 = true := by
  decide

theorem test_cue : after (.cue 0 .on) sRun (fun t => t.pcu.clock == 1 &&
    t.pcu.item 0 == some { value := .on, number := 1, origin := 1 } &&
    t.rst.entries == [{ track := 5, claim := .localTrack 0 }]) = true := by
  decide +kernel

theorem test_cue_sent : after (.cue 16 .on) sUp (fun t => t.lku.portA.tx ==
    some (.ring 0 (ringBytes .cue { origin := 1, incarnation := 100, sequence := 1 }
      (cueBytes { item := 16, code := 1, number := 1 })))) = true := by
  decide +kernel

/-- A CUT station whose reference holds. -/
def sCut : State := { sRun with aou := { sRun.aou with cut := some .operator } }

/-- Hypotheses of `CutAndUncutTaken`, in CLEAR and in CUT, and under a FLOAT cut. -/
theorem test_witness_cut : sRun.csu.takesLines = true ∧ sRun.unconfigured = false ∧
    sRun.csu.config = some cfg ∧ cfg.cutOp = true ∧ sRun.aou.cut = none ∧
    sCut.aou.cut = some .operator ∧ ({ cfg with cutMode := .float } : Configuration).cutMode = .float ∧
    sCut.aou.cut.isSome = true ∧ sCut.tlu.ref = .locked ∧ sCut.tlu.voidRun = false ∧
    sCut.dlu.muted = none := by
  decide

/-- A slot that is CLOSED. -/
def closedAt (n : Index) : Slot where
  index := n
  state := .closed .deadline
  expected := []

/-- A slot record of an index. -/
def recordAt (n : Index) : SlotRecord where
  station := 1
  incarnation := 100
  index := n
  cut := false
  cause := .deadline
  expected := 0
  arrived := 0
  entries := []

/-- A station under a cut mode with two records in its buffers and a CLOSED slot. -/
def sCutMode (m : CutMode) : State := { sRun with
  aou := { sRun.aou with
    window := [closedAt 10], openMark := some 10, driven := true, hasRun := true
    feed := [{ number := 0, record := recordAt 8, sending := true },
             { number := 1, record := recordAt 9, sending := false }] }
  csu := { sRun.csu with config := some { cfg with cutMode := m } } }

theorem test_cut_modes :
    after .cut (sCutMode .stop) (fun t => t.aou.feed.map (·.record.index) == [8] &&
      t.aou.counts.recDiscarded == 1 && t.aou.counts.slotCut == 1 && t.aou.driven) = true ∧
    after .cut (sCutMode .quiet) (fun t => t.aou.feed.map (·.record.index) == [8, 9] &&
      t.aou.window == [closedAt 10]) = true ∧
    after .cut (sCutMode .float) (fun t => t.aou.feed.isEmpty && !t.aou.driven &&
      t.aou.counts.recTruncated == 1 && t.aou.counts.slotCut == 1) = true := by
  decide +kernel

theorem test_cut : after .cut sRun (fun t => t.aou.cut == some .operator &&
    t.aou.counts.cutEntered == 1) = true := by
  decide +kernel

theorem test_uncut : after .uncut sCut (fun t => t.aou.cut.isNone) = true := by
  decide +kernel

/-- Every flag of every line set, at the ends of the mask. -/
def sFlags : State := { sRun with cfr := { sRun.cfr with
  lines := List.replicate 4 { framing := true, parity := true, overrun := true, underrun := true } } }

/-- Hypotheses of `ClearCaptureTaken`: the lowest and the highest bit of the mask, and beyond it. -/
theorem test_witness_clear_capture : sFlags.csu.takesLines = true ∧ (0xFFFF ≤ 0xFFFF) ∧
    (0xFFFF < 0x10000) ∧ 0 < sFlags.cfr.lines.length ∧ 3 < sFlags.cfr.lines.length ∧
    (1).testBit (4 * 0 + CaptureFlag.framing.number) = true ∧
    (0x8000).testBit (4 * 3 + CaptureFlag.underrun.number) = true ∧
    (sFlags.captureLine 3).flag .underrun = true ∧
    (0x7FFF).testBit (4 * 3 + CaptureFlag.underrun.number) = false := by
  decide

theorem test_clear_capture : after (.clearCapture 0x8001) sFlags (fun t =>
    captureMask t.cfr.lines == 0x7FFE) = true := by
  decide +kernel

/-- Hypotheses of `PlainCommandsTaken`. -/
theorem test_witness_plain : sConf.csu.takesLines = true ∧ sConf.armedOnward = false ∧
    (0x7FF ≤ 0x7FF) ∧ sConf.csu.pendingAttn.length = 11 := by
  decide

theorem test_clear_attn : after (.clearAttn 0x400) sConf (fun t =>
    t.csu.pendingAttn == List.replicate 11 none) = true := by
  decide +kernel

theorem test_clear_counts : after .clearCounts sRun (fun t =>
    t.csu.attnRaised == List.replicate 11 0 && t.csu.counts == {}) = true := by
  decide +kernel

theorem test_load : after .load sConf (fun t => t.csu.load == .announced) = true := by
  decide +kernel

theorem test_reset : after .reset sRun (fun t => t.csu.resetPending) = true := by
  decide +kernel

/-! ### The console line -/

/-- A full line of 80 characters. -/
def sFullLine : State := { sRun with csu := { sRun.csu with line := { chars := List.replicate 80 0x41 } } }

/-- A line that waits while a character is held. -/
def sHeld : State := { sRun with csu := { sRun.csu with waiting := some { chars := [0x20] }, holding := some 0x41 } }

/-- A line that waits with the holding character free. -/
def sWaiting : State := { sHeld with csu := { sHeld.csu with holding := none } }

/-- A reply of which `n` characters are not yet sent. -/
def sSending (n : Nat) : State := { sRun with csu := { sRun.csu with tx := [.reply .ok n] } }

/-- Hypotheses of `CharactersTaken`, at the ends of the character ranges. -/
theorem test_witness_characters : sRun.csu.load = .idle ∧ sRun.csu.watch = none ∧
    sRun.csu.waiting = none ∧ sRun.csu.holding = none ∧ sRun.csu.silent = false ∧
    (0x20 ≤ (0x20 : Byte).toNat ∧ (0x20 : Byte).toNat ≤ 0x7E) ∧ (0x7E : Byte).toNat ≤ 0x7E ∧
    sRun.csu.line.chars.length < 80 ∧ 80 ≤ sFullLine.csu.line.chars.length ∧
    sFullLine.csu.line.chars ≠ [] ∧ sRun.csu.line.chars = [] ∧
    (0x1F : Byte).toNat < 0x20 ∧ 0x7F < (0x80 : Byte).toNat ∧
    (sSending 65535).csu.silent = false ∧ (sSending 65535).csu.fill + 1 ≤ 65536 ∧
    65536 < (sSending 65536).csu.fill + 1 ∧ 65536 < (sSending 65540).csu.fill ∧
    sHeld.csu.waiting.isSome = true ∧ sHeld.csu.holding.isSome = true ∧
    sWaiting.csu.waiting.isSome = true ∧ sWaiting.csu.holding = none := by
  decide +kernel

/-- R169 and R172: in an overfull transmit buffer a character with an echo waits and the next one is lost, while
LF, which has none, is taken. -/
theorem test_echo_room :
    after (.characterComplete 0x41) (sSending 65535) (fun t => t.csu.line.chars == [0x41]) = true ∧
    after (.characterComplete 0x41) (sSending 65536) (fun t => t.csu.holding == some 0x41) = true ∧
    after (.characterComplete 0x0A) (sSending 65540) (fun t =>
      t.csu.holding.isNone && t.csu.counts.conOverrun == 0) = true := by
  decide +kernel

theorem test_character : after (.characterComplete 0x41) sRun (fun t =>
    t.csu.line.chars == [0x41] && t.csu.tx == [.echo 0x41]) = true := by
  decide +kernel

theorem test_character_taken : after .characterTaken
    { sRun with csu := { sRun.csu with holding := some 0x0D } }
    (fun t => t.csu.waiting == some {} && t.csu.holding.isNone) = true := by
  decide +kernel

/-- A station with a complete line. -/
def withLine (l : CommandLine) : State := { sRun with csu := { sRun.csu with waiting := some l } }

/-- The characters of "CUE 0 ON", of "HELP" and of two spaces. -/
def cueLine : Bytes := [0x43, 0x55, 0x45, 0x20, 0x30, 0x20, 0x4F, 0x4E]

/-- Hypotheses of `LinesAndBreaksTaken`, way by way. -/
theorem test_witness_line : (withLine { chars := cueLine }).csu.takesLines = true ∧
    (withLine { chars := cueLine }).csu.waiting = some { chars := cueLine } ∧
    ({ chars := [], overrun := true } : CommandLine).overrun = true ∧
    ({ chars := [], tooLong := true } : CommandLine).tooLong = true ∧
    (∀ b ∈ ([0x20, 0x20] : Bytes), b = 0x20) ∧
    (∃ b ∈ ([0x48, 0x45, 0x4C, 0x50] : Bytes), b ≠ 0x20) ∧
    spell (lineWords [0x48, 0x45, 0x4C, 0x50]) = none ∧
    spell (lineWords cueLine) = some { command := .cue 0 .on, wordsGood := true } ∧
    (spell (lineWords [0x47, 0x4F, 0x20, 0x31])).map (·.wordsGood) = some false := by
  decide +kernel

theorem test_line_taken : after .commandLineTaken (withLine { chars := cueLine }) (fun t =>
    t.pcu.clock == 1 && t.csu.waiting.isNone && t.csu.counts.cmdTaken == 1) = true := by
  decide +kernel

/-- A LOAD in its binary phase, with the block's bytes so far. -/
def sBinary (bs : Bytes) : State := { sConf with
  csu := { sConf.csu with load := .binary bs 2000000000 } }

/-- A LOAD announced. -/
def sAnnounced (h : Option Byte) : State := { sConf with
  csu := { sConf.csu with load := .announced, holding := h } }

/-- Hypotheses of `LinesAndBreaksTaken` on a break and of `LoadRuns`, with the most bytes before the last. -/
theorem test_witness_load_bytes : sRun.csu.waiting = none ∧ sRun.csu.load = .idle ∧
    sRun.csu.watch = none ∧ (sWatch false).csu.watch.isSome = true ∧
    (sAnnounced none).csu.load = .announced ∧ (sAnnounced none).csu.load ≠ .idle ∧
    (sAnnounced none).csu.holding = none ∧ (sAnnounced (some 1)).csu.holding = some 1 ∧
    (sBinary [1]).csu.load = .binary [1] 2000000000 ∧ (sBinary [1]).csu.holding = none ∧
    (List.replicate 1024 (0 : Byte)).length + 1 < 1026 := by
  decide +kernel

theorem test_break : after .breakTaken sRun (fun t => t.csu.counts.conBreak == 1 &&
    t.csu.tx == [.reply (.refused .brk) 6]) = true := by
  decide +kernel

/-- A reply of which two characters are not yet sent stays in front of what a break is answered. -/
theorem test_break_completes : after .breakTaken
    { withLine { chars := [0x48] } with
      csu := { (withLine { chars := [0x48] }).csu with tx := [.reply .ok 2] } }
    (fun t => t.csu.tx ==
      [.reply .ok 2, .reply (.refused .cmd) 6, .reply (.refused .brk) 6]) = true := by
  decide +kernel

/-- Nothing is sent from a reset until a command line is taken. -/
theorem test_silent : after (.characterComplete 0x41) State.reset (fun t =>
      t.csu.line.chars == [0x41] && t.csu.tx.isEmpty) = true ∧
    after .breakTaken State.reset (fun t => t.csu.tx.isEmpty && t.csu.counts.conBreak == 1) = true ∧
    after .showRef State.reset (fun t => !t.csu.silent && t.csu.replying) = true := by
  decide +kernel

theorem test_load_overrun : after (.characterComplete 2) (sAnnounced (some 1)) (fun t =>
    t.csu.load == .idle && t.csu.tx == [.reply (.refused .ovr) 6] &&
      t.csu.counts.conOverrun == 1 && t.csu.counts.loadFailed == 1) = true := by
  decide +kernel

theorem test_binary_start : after .binaryPhaseStart (sAnnounced none) (fun t =>
    t.csu.load == .binary [] 2000000000) = true := by
  decide +kernel

theorem test_load_timeout : after .loadIdleTimeout (sBinary [1]) (fun t =>
    t.csu.load == .idle && t.csu.counts.loadFailed == 1) = true := by
  decide +kernel

/-- A valid block but for its check word: station 1, every field at an end of its range, nothing patched
(Table 11-14). -/
def blockBody : Bytes :=
  put32 7 ++ put8 1 ++ put32 100000 ++ put8 7 ++ put8 5 ++ put8 1 ++ put16 0x7FF ++ put16 10 ++
    put16 600 ++ List.replicate 128 0 ++ put8 16 ++ put8 8 ++ put16 100 ++ put8 1 ++
    List.replicate 16 32 ++ put8 0 ++ List.replicate 320 0 ++ List.replicate 17 0 ++ put8 1 ++
    put8 80 ++ put8 8 ++ put8 3 ++ put8 1 ++ put8 1 ++ put8 1 ++ put8 1 ++ put8 1 ++ put16 5000 ++
    List.replicate 508 0

/-- The block with its check word. -/
def block : Bytes := blockBody ++ put16 (65536 - wordSum blockBody)

/-- The block with one more in its check word. -/
def badBlock : Bytes := blockBody ++ put16 (65535 - wordSum blockBody)

/-- Whether a block is loaded, and with what station id. -/
def loadedStation : LoadResult → Option Nat
  | .failed _ => none
  | .loaded c _ => some c.station

theorem test_block : block.length = 1026 ∧ loadedStation (checkBlock block) = some 1 ∧
    checkBlock badBlock = .failed (.refused .sum) := by
  decide +kernel

/-- Hypotheses of `LoadRuns` on the last byte and of `LoadedConfigurationInRange`: a block that fails, one that passes,
in UNCONFIGURED and outside it. -/
theorem test_witness_load :
    (sBinary (block.take 1025)).csu.load = .binary (block.take 1025) 2000000000 ∧
    (sBinary (block.take 1025)).csu.holding = none ∧ (block.take 1025).length + 1 = 1026 ∧
    checkBlock (badBlock.take 1025 ++ [badBlock.getD 1025 0]) = .failed (.refused .sum) ∧
    (loadedStation (checkBlock (block.take 1025 ++ [block.getD 1025 0]))).isSome = true ∧
    State.reset.tlu.station = .unconfigured ∧ sConf.tlu.station ≠ .unconfigured ∧
    (∀ p : PortId, (State.reset.port p).tx = none ∧ (State.reset.port p).linkQueue = []) ∧
    State.reset.pcu.cues = none ∧ sConf.pcu.cues = some items0 ∧ items0.length = 17 :=
  ⟨by decide +kernel, by decide +kernel, by decide +kernel, by decide +kernel, by decide +kernel,
    by decide, by decide, fun p => by cases p <;> decide, by decide, by decide, by decide⟩

/-! ### The house reference, boundaries and the ending -/

/-- CONFIGURED with another reference state and run. -/
def sRef (r : RefState) (n : Nat) : State := { sConf with
  tlu := { sConf.tlu with ref := r, run := n } }

/-- Hypotheses of `ReferenceMoves` at a mark: each reference state, the runs at both sides of 3, a mark that continues
the run and two that do not. -/
theorem test_witness_mark : State.reset.tlu.station = .unconfigured ∧
    sConf.tlu.station ≠ .unconfigured ∧ (sRef .noRef 0).tlu.ref = .noRef ∧
    (sRef .lost 0).tlu.ref = .lost ∧ (sRef .acquiring 2).tlu.ref = .acquiring ∧
    3 ≤ (sRef .acquiring 2).tlu.run + 1 ∧ (sRef .acquiring 1).tlu.run + 1 < 3 ∧
    sConf.tlu.ref = .locked ∧ sConf.rate.samples = 480 ∧
    sConf.tlu.lastMark.map (· + 1) = some 101 ∧ sConf.tlu.lastMark.map (· + 1) ≠ some 102 := by
  decide

theorem test_mark : after (.markTaken 101 480) (sRef .acquiring 2) (fun t =>
    t.tlu.ref == .locked && t.tlu.run == 3 && t.tlu.houseCount == some 101) = true := by
  decide +kernel

/-- A station under the epoch of a base. -/
def sBase (st : StationState) (base : Word) : State := { sRun with
  tlu := { sRun.tlu with station := st, epoch := some { base := base, source := 1 } } }

/-- Hypotheses of `BoundaryIndex`: indices −1 and 0 in ARMED, 11 above H and 10 not above it. -/
theorem test_witness_boundary : (sBase .armed 102).tlu.ref = .locked ∧
    (sBase .armed 102).tlu.lastMark.map (· + 1) = some 101 ∧
    ((101 : Word) - 102 : Index).toInt < 0 ∧ 0 ≤ ((101 : Word) - 101 : Index).toInt ∧
    (sBase .running 90).tlu.high = some 10 ∧
    (10 : Index).toInt < ((101 : Word) - 90 : Index).toInt ∧
    ((101 : Word) - 91 : Index).toInt ≤ (10 : Index).toInt ∧
    (sBase .ending 91).tlu.station = .ending ∧ (sBase .done 90).tlu.station = .done ∧
    (sBase .running 91).tlu.voidNoted = false ∧
    ({ sRun with tlu := { sRun.tlu with voidNoted := true } } : State).tlu.voidNoted = true := by
  decide

theorem test_void : after (.markTaken 101 480) (sBase .running 91) (fun t => t.tlu.voidRun &&
    t.tlu.voidNoted && t.tlu.curIndex == some 10 && t.csu.attnRaised.getD 1 0 == 1 &&
      t.cfr.period == some { index := none, accs := [{ channel := 0 }] }) = true := by
  decide +kernel

theorem test_jump : after (.markTaken 105 480) sRun (fun t => t.tlu.ref == .acquiring &&
    t.tlu.counts.refJump == 1 && t.aou.cut == some .refJump && t.csu.attnRaised.getD 1 0 == 1) = true := by
  decide +kernel

theorem test_boundary : after (.markTaken 101 480) (sBase .armed 101) (fun t =>
    t.tlu.station == .running && t.tlu.high == some 0 && t.aou.openMark == some 0) = true := by
  decide +kernel

/-- Hypotheses of `ReferenceMoves` at the expiry, and of its attention and cut clauses. -/
theorem test_witness_lost : State.reset.tlu.lossTimer = none ∧
    (sRef .acquiring 1).tlu.lossTimer = some 15000000 ∧ (sRef .acquiring 1).tlu.ref = .acquiring ∧
    sRun.tlu.lossTimer = some 15000000 ∧ sRun.tlu.ref = .locked ∧
    sRun.csu.pendingAttn.length = 11 ∧ sRun.csu.attnRaised.length = 11 ∧
    sRun.csu.config = some cfg ∧ cfg.cutRef = true ∧
    sRun.aou.cut = none ∧ sCut.aou.cut = some .operator := by
  decide

theorem test_lost : after .referenceLossTimer sRun (fun t => t.tlu.ref == .lost &&
    t.tlu.counts.refLoss == 1 && t.aou.cut == some .refLoss && t.now == 15000000) = true := by
  decide +kernel

/-- ENDING without the AIR outlet role. -/
def sEndPlain : State := { sEnd with csu := { sEnd.csu with config := some cfgPlain } }

/-- Hypotheses of `DrainTimerExpires`. -/
theorem test_witness_drain : sEnd.tlu.station = .ending ∧
    sEnd.tlu.endTimer = .runningUntil 1000000000 ∧ sEndPlain.airRole = false ∧
    sEnd.airRole = true ∧ sEnd.aou.finished = false ∧ sEnd.outletPassed = false := by
  decide

theorem test_drain : after .endDrainTimer sEndPlain (fun t => t.tlu.station == .done &&
    t.tlu.endTimer == .stopped) = true := by
  decide +kernel

/-- ARMED under an epoch of source 3, with no boundary presented under it yet. -/
def sAdopted (base : Word) : State := { sArmed with
  tlu := { sArmed.tlu with epoch := some { base := base, source := 3 } } }

/-- Hypotheses of `StartsTaken`: the epoch unknown, with a dropped base and without; indices −1 and 0 at both
sides of the start, before the first boundary and after it; and two crossing STARTs. -/
theorem test_witness_starts : sArmed.tlu.station = .armed ∧ sArmed.tlu.epoch = none ∧
    ({ sArmed with tlu := { sArmed.tlu with droppedBase := some 5 } } : State).tlu.droppedBase =
      some 5 ∧
    (sAdopted 101).tlu.curIndex = none ∧ ((100 : Word) - 101 : Index).toInt < 0 ∧
    0 ≤ ((100 : Word) - 100 : Index).toInt ∧ (sAdopted 100).tlu.houseCount = some 100 ∧
    sRun.tlu.station = .running ∧ sEnd.tlu.station = .ending ∧ sConf.tlu.station = .configured ∧
    (2 < 3) ∧ (3 ≤ 3) ∧
    sArmed.tlu.droppedBase ≠ some 110 ∧ sArmed.tlu.droppedBase ≠ some 101 ∧ (1 < 16) ∧
    sArmed.tlu.houseCount = some 100 ∧ ((100 : Word) - 110).toInt < 0 := by
  decide

/-- A late join whose index is already 0 or more (R9): another base is a conflict, the same one is not. -/
theorem test_late_join :
    (startTaken 99 2 (sAdopted 100)).tlu.epoch = some { base := 100, source := 3 } ∧
    (startTaken 99 2 (sAdopted 100)).tlu.counts.epochConflict = 1 ∧
    startTaken 100 2 (sAdopted 100) = sAdopted 100 ∧
    (startTaken 99 2 (sAdopted 101)).tlu.epoch = some { base := 99, source := 2 } := by
  decide +kernel

/-- Hypotheses of `EndFrameTaken`, row by row. -/
theorem test_witness_end_frame : sRun.tlu.epoch = some { base := 90, source := 1 } ∧
    sRun.tlu.station = .running ∧ sRun.csu.config = some cfg ∧ sRun.tlu.curIndex = some 10 ∧
    sEnd.tlu.station = .ending ∧ sEnd.tlu.curIndex = some 10 ∧ sEnd.tlu.last = some 12 ∧
    (sAdopted 101).tlu.station = .armed ∧ sArmed.tlu.epoch = none ∧ (91 : Word) ≠ 90 ∧
    sConf.tlu.station = .configured := by
  decide

theorem test_end_frame : (endTaken 90 9 sRun).tlu.last = some 10 ∧
    (endTaken 90 11 sEnd).tlu.last = some 11 ∧ (endTaken 90 20 sEnd).tlu.last = some 12 ∧
    (endTaken 90 11 { sEnd with tlu := { sEnd.tlu with curIndex := some 14 } }).tlu.last = some 14 ∧
    (endTaken 101 9 (sAdopted 101)).tlu.droppedBase = some 101 ∧
    (endTaken 91 9 sRun).tlu.counts.endIgnored = 1 := by
  decide +kernel

/-- A station past its last index, with an empty window. -/
def sPassed : State := { sEnd with
  tlu := { sEnd.tlu with high := some 13 }
  csu := { sEnd.csu with config := some { cfg with drainEnd := 600 } } }

/-- Hypotheses of `EndOfEventTests`: a station that does not perform, a lawful spool, and an ENDING that
stays with the outlet passed. -/
theorem test_witness_settle : sConf.performing = false ∧ sEnd.ksp.Law ∧
    (settle sPassed).tlu.station = .ending ∧ (settle sPassed).airRole = true ∧
    (settle sPassed).outletPassed = true :=
  ⟨by decide, ⟨by decide, by decide, by decide, fun i _ h => absurd (h.symm.trans (List.getElem?_nil : ([] : List KeepBody)[i]? = none)) (by intro e; cases e),
    by decide⟩, by decide +kernel, by decide +kernel, by decide +kernel⟩

/-! ### Capture lines -/

/-- A frame of eight slots of good parity, and one of bad parity. -/
def goodFrame : List LineSlot := List.replicate 8 0
def badFrame : List LineSlot := List.replicate 8 1

/-- Line 0 LOCKED with `n` frames waiting, line 1 HUNTING, lines 2 and 3 OFF, and an open accumulation. -/
def sLines (n : Nat) (f : List LineSlot) : State := { sRun with cfr := { sRun.cfr with
  lines := [{ state := .locked, buffer := List.replicate n f }, { state := .hunting }, ({} : CaptureLine), ({} : CaptureLine)]
  period := some { index := some 10, accs := [{ channel := 0 }, { channel := 8 }, { channel := 16 }] } } }

/-- Hypotheses of `SampleFramesTaken` and `SampleTakeTaken`: each line state, and 0, 1 and 2 frames, with the
tables of attention whole. -/
theorem test_witness_lines :
    (sLines 1 goodFrame).cfr.lines[0]? = some { state := .locked, buffer := [goodFrame] } ∧
    (sLines 1 goodFrame).cfr.lines[1]? = some { state := .hunting } ∧
    (sLines 1 goodFrame).cfr.lines[3]? = some ({} : CaptureLine) ∧
    ((sLines 1 goodFrame).captureLine 0).buffer.length < 2 ∧
    2 ≤ ((sLines 2 goodFrame).captureLine 0).buffer.length ∧
    State.reset.unconfigured = true ∧ (sLines 1 goodFrame).unconfigured = false ∧
    (sLines 1 goodFrame).cfr.lines.length = 4 ∧ ((sLines 0 goodFrame).captureLine 0).buffer = [] ∧
    ((sLines 1 badFrame).captureLine 0).buffer = badFrame :: [] ∧ badFrame[0 % 8]? = some 1 ∧
    parityGood 1 = false ∧ parityGood 0 = true ∧ sRun.cfr.period = none ∧
    (sLines 1 badFrame).csu.pendingAttn.length = 11 ∧ (sLines 1 badFrame).csu.attnRaised.length = 11 := by
  decide +kernel

/-- A sample frame as bits: the sync word E591 and eight slots of one level. -/
def frameBits (b : Bool) : List Bool :=
  [true, true, true, false, false, true, false, true, true, false, false, true, false, false, false,
    true] ++ List.replicate 200 b

/-- Hypotheses of `SampleFramesTaken` on the bits: searches short of both frames and with both; a frame under
way, a whole one, and 16 bits that are not the pattern. -/
theorem test_witness_bits : (search (zeros 3 ++ frameBits false)).length < 432 ∧
    (search (zeros 3 ++ frameBits false ++ frameBits true)).length = 432 ∧
    (frameBits false).length = 216 ∧ (frameBits false).take 16 = syncWord ∧
    (zeros 15).length < 216 ∧ (zeros 200).length = 200 ∧ 16 ≤ (zeros 16).length ∧
    (zeros 16).take 16 ≠ syncWord ∧ (search (zeros 16)).length < 432 ∧
    ((frameBits true).take 50).length < 216 ∧ ((frameBits true).take 50).take 16 = syncWord := by
  decide +kernel

/-- A HUNTING line passes over bits that are no sync word and locks with the second frame (R19). -/
theorem test_lock : after (.sampleFrameComplete 1 [zeros 3 ++ frameBits false ++ frameBits true])
    (sLines 2 goodFrame) (fun t => (t.captureLine 1).state == .locked &&
      (t.captureLine 1).buffer == [List.replicate 8 0x1FFFFFF] && (t.captureLine 1).held == []) = true := by
  decide +kernel

/-- One sync word alone does not lock a line; its position is kept (R19). -/
theorem test_candidate : after (.sampleFrameComplete 1 [zeros 3 ++ frameBits false])
    (sLines 2 goodFrame) (fun t => (t.captureLine 1).state == .hunting &&
      (t.captureLine 1).held == frameBits false) = true := by
  decide +kernel

theorem test_frame : after (.sampleFrameComplete 0 [frameBits false]) (sLines 1 badFrame) (fun t =>
    (t.captureLine 0).buffer == [badFrame, goodFrame]) = true := by
  decide +kernel

/-- The search resumes at the first of the 16 bits that are not the pattern (R20). -/
theorem test_framing : after (.lossOfFraming { line := 0, runs := [false :: (frameBits true).take 15] })
    (sLines 2 goodFrame) (fun t => (t.captureLine 0).state == .hunting &&
      (t.captureLine 0).framing && (t.captureLine 0).buffer == [] &&
        (t.captureLine 0).held == (frameBits true).take 15) = true := by
  decide +kernel

/-- A stop of the bit clock inside a frame: a LOCKED line compares the first 16 bits that arrive when it
returns, so bits of a slot lose framing, and a whole frame is received (R20). -/
theorem test_clock_stop_locked :
    after (.lossOfFraming { line := 0, runs := [(frameBits true).take 50, zeros 16] }) (sLines 2 goodFrame)
      (fun t => (t.captureLine 0).state == .hunting && (t.captureLine 0).framing &&
        (t.captureLine 0).framingCount == 1 && (t.captureLine 0).buffer == []) = true ∧
    after (.sampleFrameComplete 0 [(frameBits true).take 50, frameBits false]) (sLines 1 badFrame)
      (fun t => (t.captureLine 0).state == .locked && !(t.captureLine 0).framing &&
        (t.captureLine 0).buffer == [badFrame, goodFrame]) = true := by
  decide +kernel

/-- A HUNTING line whose bit clock stops keeps its search position (R19). -/
theorem test_clock_stop_hunting : after (.sampleFrameComplete 1
      [frameBits false ++ (frameBits true).take 90, (frameBits true).drop 90]) (sLines 2 goodFrame)
    (fun t => (t.captureLine 1).state == .locked &&
      (t.captureLine 1).buffer == [List.replicate 8 0x1FFFFFF]) = true := by
  decide +kernel

theorem test_take : after .sampleTake (sLines 1 badFrame) (fun t =>
    (t.captureLine 0).parityCount == 8 &&
      (t.cfr.period.map fun p => p.accs.map (·.damage)) == some [1, 1, 0] &&
      t.csu.pendingAttn.getD 8 none == some (.capture 0 .parity) &&
      t.csu.attnRaised.getD 8 0 == 1) = true := by
  decide +kernel

/-! ### The coder -/

/-- A batch of two segments: channel 0 keeps, channel 1 does not. -/
def twoSegments : List Segment :=
  [{ channel := 0, track := 5, group := 0, keep := true, index := 10
     samples := List.replicate 480 0, damage := 0 },
   { channel := 1, track := 6, group := 1, keep := false, index := 10, samples := [], damage := 0 }]

/-- A station that codes segments, its groups DARK. -/
def sBatch (xs : List Segment) : State := { sRun with sgc := { sRun.sgc with
  batch := some { index := 10, grade := 0, groups := List.replicate 16 .dark, segments := xs } } }

/-- A spool that is full. -/
def sFull : State := { sBatch twoSegments with
  ksp := { write := 262144, resendAt := none } }

/-- Hypotheses of `SegmentCodedTaken`: a batch with and without a rest, room and no room. -/
theorem test_witness_segment : (List.replicate 480 (0 : Sample)).length = SampleRate.r48.samples ∧
    sRun.sgc.batch = none ∧
    ((sBatch twoSegments).sgc.batch.map (·.segments)) = some twoSegments ∧
    ((sBatch (twoSegments.drop 1)).sgc.batch.map fun b => b.segments.length) = some 1 ∧
    (twoSegments.map (·.keep)) = [true, false] ∧ sFull.armedOnward = true ∧
    sFull.ksp.full = true ∧ (sBatch twoSegments).ksp.full = false ∧ sFull.ksp.lostRun = 0 := by
  decide +kernel

theorem test_segment : after .segmentCoded (sBatch (twoSegments.drop 1)) (fun t =>
    t.sgc.batch.isNone && t.tlu.codedIndex == some 10) = true := by
  decide +kernel

/-- A station that codes a damaged segment of a group that is ON, with port A busy. -/
def sAir (xs : List Segment) : State := { sRun with
  lku := { sRun.lku with portA := { upPort with tx := some (.ring 0 []) } }
  sgc := { sRun.sgc with
    batch := some { index := 10, grade := 7, groups := List.replicate 16 .on, segments := xs } } }

/-- The same while MUTED. -/
def sAirMuted (xs : List Segment) : State := { sAir xs with dlu := sMuted.dlu }

/-- A segment at the ends of the ranges. -/
def lastSegment : Segment where
  channel := 31
  track := 511
  group := 15
  keep := false
  index := 10
  samples := []
  damage := 2

/-- Hypotheses of the last part of `SegmentCodedTaken`: a DARK and an ON group, MUTED and not, with and without
the outlet role, at the ends of the ranges. -/
theorem test_witness_segment_frame :
    ((sAir [lastSegment]).sgc.batch.map fun b => (b.segments, b.grade)) = some ([lastSegment], 7) ∧
    (sAir [lastSegment]).csu.config = some cfg ∧ (sAir [lastSegment]).tlu.incarnation = some 100 ∧
    1 ≤ cfg.station ∧ cfg.station ≤ 16 ∧ lastSegment.track ≤ 511 ∧ lastSegment.group ≤ 15 ∧
    ((List.replicate 16 CueValue.on).getD 15 .dark).onAir = true ∧
    ((List.replicate 16 CueValue.dark).getD 15 .dark).onAir = false ∧
    (sAir [lastSegment]).dlu.muted = none ∧ (sAirMuted [lastSegment]).dlu.muted.isSome = true ∧
    cfg.airRole = true ∧ cfgPlain.airRole = false := by
  decide +kernel

theorem test_segment_frame : after .segmentCoded (sAir [lastSegment]) (fun t =>
      t.dlu.nextSeq == 2 && t.lku.portA.queue1.length == 1 && t.dlu.counts.deliveredAir == 1 &&
      t.aou.counts.arrAhead == 1 && t.dlu.counts.muteDeclined == 0) = true ∧
    after .segmentCoded (sAirMuted [lastSegment]) (fun t =>
      t.dlu.nextSeq == sMuted.dlu.nextSeq && t.lku.portA.queue1.isEmpty &&
      t.dlu.counts.muteDeclined == 1 && t.sgc.counts.airMade == 1) = true := by
  decide +kernel

theorem test_segment_entry : after .segmentCoded (sBatch twoSegments) (fun t =>
    (t.ksp.entries.map fun e => (e.sequence, e.track, e.group, e.index, e.damage, e.lossBefore)) ==
      [(0, 5, 0, 10, 0, 0)] && t.ksp.write == 1 && t.sgc.counts.keepMade == 1) = true := by
  decide +kernel

/-- RUNNING with a period whose one accumulation is of channel 0. -/
def sPeriod (i : Option Index) : State := { sRun with cfr := { sRun.cfr with
  period := some { index := i, accs := [{ channel := 0, samples := [1, 2], damage := 3 }] } } }

/-- The same at a station with no patched channel. -/
def sUnpatched : State := { sPeriod (some 10) with
  csu := { sRun.csu with config := some { cfg with patch := List.replicate 32 none } } }

/-- Hypotheses of `SegmentsFormed`: periods with an index and without one, one that gives no segment, each
station state, and L and H at both sides. -/
theorem test_witness_formed : sRun.sgc.batch = none ∧ sRun.tlu.station ≠ .unconfigured ∧
    sConf.tlu.station = .configured ∧ sConf.performing = false ∧ sConf.cfr.period = none ∧
    sRun.tlu.station ≠ .configured ∧
    ((sPeriod (some 10)).cfr.period.map (·.index)) = some (some 10) ∧
    ((sPeriod none).cfr.period.map (·.index)) = some none ∧ sUnpatched.patchOf 0 = none ∧
    (sRun.patchOf 0).isSome = true ∧ sRun.performing = true ∧
    ((101 : Word) - 91 : Index).toInt ≤ (10 : Index).toInt ∧ sEnd.tlu.last = some 12 ∧
    (settle sEnd).tlu.station = .ending ∧ (12 : Index).toInt < (13 : Index).toInt := by
  decide +kernel

theorem test_formed : after (.markTaken 101 480) (sPeriod (some 10)) (fun t =>
      (t.sgc.batch.map fun b => (b.index, b.segments.map fun g => (g.channel, g.track, g.damage))) ==
        some (10, [(0, 5, 3)]) &&
      (t.cfr.channels.map (·.damage)).head? == some 3 &&
      t.cfr.period == some { index := some 11, accs := [{ channel := 0 }] }) = true ∧
    after (.markTaken 101 480) sUnpatched (fun t =>
      t.sgc.batch.isNone && t.tlu.codedIndex == some 10) = true ∧
    after (.markTaken 101 480) (sPeriod none) (fun t =>
      t.sgc.batch.isNone && t.tlu.codedIndex.isNone) = true := by
  decide +kernel

/-- A station at a grade with a step-up count. -/
def sGrade (g n : Nat) : State := { sRun with sgc := { sRun.sgc with grade := g, stepUp := n } }

/-- Hypotheses of `GradeUpdated`: grades below, at and above the target 7, and counts 48 and 49. -/
theorem test_witness_grade : sRun.csu.config = some cfg ∧ sRun.tlu.station = .running ∧
    sRun.tlu.ref = .locked ∧ sRun.tlu.lastMark.map (· + 1) = some 101 ∧
    sRun.tlu.epoch = some { base := 90, source := 1 } ∧ sRun.tlu.high = some 10 ∧
    (10 : Index).toInt < ((101 : Word) - 90 : Index).toInt ∧
    targetGrade (cfg.budget / max 1 sRun.airCount) cfg.ceiling false = 7 ∧
    (6 < 7) ∧ (7 < 8) ∧ (48 + 1 < 50) ∧ (50 ≤ 49 + 1) ∧ (7 ≤ 7) ∧ sEnd.tlu.station = .ending ∧
    sEnd.tlu.high = some 10 ∧ (sBase .armed 101).tlu.station = .armed ∧
    0 ≤ ((101 : Word) - 101 : Index).toInt := by
  decide

theorem test_grade : after (.markTaken 101 480) (sGrade 3 49) (fun t => t.sgc.grade == 4 &&
    t.sgc.stepUp == 0 && t.sgc.lastTarget == some 7) = true := by
  decide +kernel

/-! ### Ring ports -/

/-- The station with port A in a link state. -/
def sPort (x : Port) : State := { sRun with lku := { sRun.lku with portA := x } }

/-- Hypotheses of `HelloScheduleAndCarrier`: each way of the link-local queue. -/
theorem test_witness_hello_schedule : State.reset.lku.helloAt = none ∧
    sRun.lku.helloAt = some 1000000 ∧
    LinkFrame.hello ∈ [LinkFrame.hello] ∧ LinkFrame.hello ∉ [LinkFrame.hold 1 0, .hold 1 0] ∧
    2 ≤ [LinkFrame.hold 1 0, .hold 1 0].length ∧ [LinkFrame.hold 1 0].length < 2 ∧
    (sPort { upPort with tx := some (.ring 0 []) }).lku.portA.tx ≠ none ∧
    (sPort upPort).lku.portA.linkQueue = [] ∧ (sPort upPort).lku.portA.tx = none := by
  decide

theorem test_hello_timer : after .helloTimer sUp (fun t => t.lku.helloAt == some 2000000 &&
    t.lku.portA.tx == some (.hello (helloBytes sUp .a))) = true := by
  decide +kernel

theorem test_carrier : after (.carrierAppear .b) sRun (fun t => t.lku.portB.link == .listen) = true := by
  decide +kernel

/-- A BARRED port with a frame in transmission from its time in UP, and a HELLO that waits. -/
def barredPort (f : TxFrame) : Port where
  link := .barred
  carrier := true
  neighbour := some nb
  cause := { digest := true, dupid := false }
  silence := some 4000000
  linkQueue := [.hello]
  tx := some f

/-- Hypotheses of `PortGoesDown`: a port DOWN, UP, and BARRED with each kind of frame in transmission. -/
theorem test_witness_down : (sRun.port .a).link = .down ∧ (sUp.port .a).link ≠ .down ∧
    (sUp.port .a).link = .up ∧ (sRun.port .a).silence = none ∧
    (sUp.port .a).silence = some 4000000 ∧
    (barredPort (.ring 0 [])).link = .barred ∧ (barredPort (.ring 0 [])).silence = some 4000000 ∧
    (barredPort (.ring 0 [])).tx = some (.ring 0 []) ∧ (barredPort (.hold 1 [])).tx = some (.hold 1 []) ∧
    (barredPort (.hello [])).tx = some (.hello []) ∧ upPort.tx = none ∧
    ∀ f ∈ (barredPort (.ring 0 [])).linkQueue, f = .hello := by
  decide

theorem test_barred_down :
    after (.silenceExpiry .a) (sPort (barredPort (.ring 0 []))) (fun t =>
      t.lku.portA.counts.txAbort == 1 && t.lku.portA.counts.linkLost == 0 &&
      t.lku.portA.linkQueue.isEmpty && t.lku.portA.link == .listen && (match t.lku.portA.tx with
        | some (.hello _) => true
        | _ => false)) = true ∧
    after (.carrierLoss .a) (sPort (barredPort (.hello [7]))) (fun t =>
      t.lku.portA.counts.txAbort == 0 && t.lku.portA.tx == some (.hello [7]) &&
      t.lku.portA.linkQueue == [.hello]) = true := by
  decide +kernel

theorem test_carrier_loss : after (.carrierLoss .a) sUp (fun t => t.lku.portA.link == .down &&
    t.lku.portA.counts.linkLost == 1 && t.csu.attnRaised.getD 7 0 == 1) = true := by
  decide +kernel

theorem test_hold_flushed : after (.carrierLoss .a) (sPort { upPort with linkQueue := [.hold 1 100, .hello] })
    (fun t => t.lku.portA.counts.flushLL == 1 && t.lku.portA.linkQueue.all (fun f => f == .hello)) =
    true := by
  decide +kernel

theorem test_silence : after (.silenceExpiry .a) sUp (fun t => t.lku.portA.link == .listen) = true := by
  decide +kernel

/-- The HELLO of a station of another id, with the digest 77, sent on its port B. -/
def helloFrom (id : Nat) (digest : Word) : Bytes :=
  withCrc (put8 1 ++ put8 id ++ put8 0x42 ++ put8 4 ++ put32 digest ++ put8 3 ++ put8 3)

/-- Hypotheses of `HelloTaken`: a valid HELLO of another id, of the own id and of another digest, in LISTEN,
BARRED and UP, from the same and from another neighbour. -/
theorem test_witness_hello : sUp.unconfigured = false ∧ (helloFrom 2 77).length ≤ 3072 ∧
    crcGood (helloFrom 2 77) = true ∧ byteAt (helloFrom 2 77) 0 = 1 ∧
    parseHello 0 (helloFrom 2 77) = some nb ∧ sUp.lku.digest = some nb.digest ∧
    nb.station ≠ sUp.ownId ∧ (parseHello 0 (helloFrom 1 77)).map (·.station) = some sUp.ownId ∧
    (parseHello 0 (helloFrom 2 78)).map (·.digest) ≠ some 77 ∧
    (parseHello 0 (helloFrom 16 77)).isSome = true ∧ parseHello 0 (helloFrom 17 77) = none ∧
    (sUp.port .a).neighbour.map (·.station) = some nb.station ∧
    (sPort { link := .listen, carrier := true }).lku.portA.link = .listen ∧
    (sPort { link := .barred, cause := { digest := true } }).lku.portA.link = .barred ∧
    (upPort.link = .up → upPort.cause = {}) ∧
    (parseHello 0 (helloFrom 1 78)).map (fun h => (h.station, h.digest)) = some (1, 78) := by
  decide +kernel

/-- A HELLO of the own id and of another digest takes a port from UP to BARRED by both causes. -/
theorem test_barred_twice : after (.rxFrameComplete .a (helloFrom 1 78)) sUp (fun t =>
    t.lku.portA.link == .barred && t.lku.portA.counts.barredDigest == 1 &&
      t.lku.portA.counts.barredDupid == 1 && t.lku.portA.counts.linkLost == 1 &&
      t.csu.attnRaised.getD 7 0 == 2 && t.csu.attnRaised.getD 0 0 == 1) = true ∧
    after (.rxFrameComplete .a (helloFrom 1 78))
      (sPort { upPort with link := .barred, cause := { digest := true } }) (fun t =>
        t.lku.portA.counts.barredDigest == 0 && t.lku.portA.counts.barredDupid == 1) = true := by
  decide +kernel

theorem test_hello : after (.rxFrameComplete .a (helloFrom 2 77))
    (sPort { link := .listen, carrier := true }) (fun t => t.lku.portA.link == .up &&
      t.lku.portA.lane1 == .opened) = true := by
  decide +kernel

/-- A frame of the six kinds' header, with its length field and body chosen. -/
def ringFrame (kind origin lane len : Nat) (body : Bytes) : Bytes :=
  withCrc (put8 kind ++ put8 origin ++ put8 lane ++ put8 0 ++ put32 5 ++ put32 0 ++ put16 len ++ body)

/-- Hypotheses of `ReceiverDiscards`, clause by clause. -/
theorem test_witness_discards : sRun.unconfigured = false ∧ (sUp.port .a).link ≠ .down ∧
    (3072 < (List.replicate 3073 (0 : Byte)).length) ∧ crcGood [0] = false ∧
    crcGood (helloFrom 17 77) = true ∧ parseHello 0 (helloFrom 17 77) = none ∧
    crcGood (withCrc [2]) = true ∧ (withCrc [2]).length ≠ 8 ∧ (holdBytes 2 100).length = 8 ∧
    crcGood (holdBytes 2 100) = true ∧
    (sUp.port .a).neighbour.map (·.station) ≠ some (byteAt (holdBytes 3 100) 1) ∧
    ringKindOf (byteAt (ringFrame 9 2 0 18 []) 0) = none ∧
    wordAt16 (ringFrame 9 2 0 18 []) 12 = (ringFrame 9 2 0 18 []).length ∧
    wordAt16 (ringFrame 9 2 0 19 []) 12 ≠ (ringFrame 9 2 0 19 []).length ∧
    ringKindOf 3 = some .start ∧ byteAt (ringFrame 3 2 1 22 (put32 1)) 2 ≠ RingKind.start.lane ∧
    byteAt (ringFrame 7 2 1 22 (put32 1)) 2 = RingKind.air.lane ∧
    ({} : Port).lane1 = .closed ∧ (sUp.port .a).lane1 ≠ .closed ∧
    lengthAllowed .r48 .start (ringFrame 3 2 0 23 (put32 1)) = false ∧
    lengthAllowed .r48 .start (ringFrame 3 0 0 22 (put32 1)) = true ∧
    byteAt (ringFrame 3 0 0 22 (put32 1)) 1 = 0 ∧ 16 < byteAt (ringFrame 3 17 0 22 (put32 1)) 1 := by
  decide +kernel

theorem test_discards : after (.rxFrameComplete .a [0]) sUp (fun t =>
    t.lku.portA.counts.rxCrc == 1) = true := by
  decide +kernel

/-- Port A held, with a KEEP frame waiting. -/
def heldPort : Port := { upPort with heldUntil := some 5000, queue2 := [[8]] }

/-- Hypotheses of `HoldObeyedAndRefreshed`. -/
theorem test_witness_hold : (sUp.port .a).link = .up ∧ (holdBytes 2 65535).length = 8 ∧
    crcGood (holdBytes 2 65535) = true ∧ byteAt (holdBytes 2 65535) 0 = 2 ∧
    (sUp.port .a).neighbour.map (·.station) = some (byteAt (holdBytes 2 65535) 1) ∧
    wordAt16 (holdBytes 2 65535) 2 ≠ 0 ∧ wordAt16 (holdBytes 2 0) 2 = 0 ∧
    (sUp.port .a).heldUntil = none ∧ heldPort.heldUntil = some 5000 ∧ heldPort.tx = none ∧
    heldPort.linkQueue = [] ∧ heldPort.queue0 = [] ∧ heldPort.queue1 = [] ∧
    heldPort.queue2 = [8] :: [] ∧ (sUp.port .a).refreshAt = none ∧
    ({ upPort with refreshAt := some 50000 } : Port).refreshAt = some 50000 ∧
    (sUp.port (other .b)).link = .up ∧ (sUp.port (other .a)).link ≠ .up := by
  decide +kernel

theorem test_hold : after (.rxFrameComplete .a (holdBytes 2 65535)) sUp (fun t =>
    t.lku.portA.heldUntil == some 10000000) = true := by
  decide +kernel

theorem test_hold_expiry : after (.holdTimerExpiry .a) (sPort heldPort) (fun t =>
    t.lku.portA.heldUntil.isNone && t.lku.portA.tx == some (.ring 2 [8])) = true := by
  decide +kernel

theorem test_refresh : after (.holdRefreshTimer .b)
    { sUp with lku := { sUp.lku with portB := { upPort with refreshAt := some 50000 } } }
    (fun t => t.lku.portA.tx == some (.hold 100 (holdBytes 1 100)) &&
      t.lku.portB.refreshAt == some 100000) = true := by
  decide +kernel

/-- Port A with a number of KEEP frames waiting behind one in transmission, and port B UP. -/
def sKeepQueue (n : Nat) (refresh : Option Time) : State := { sUp with lku := { sUp.lku with
  portA := { upPort with
    tx := some (.ring 2 [8]), queue2 := List.replicate n [8], refreshAt := refresh }
  portB := upPort } }

/-- Hypotheses of `CongestionStartsAndEnds`: both sides of the marks 16 and 8, congested and not. -/
theorem test_witness_congestion : ((sKeepQueue 15 none).port .a).offer 2 = .queued ∧
    ((sKeepQueue 15 none).port .a).tx ≠ none ∧ (sKeepQueue 15 none).highMark = 16 ∧
    (16 ≤ 15 + 1) ∧ (14 + 1 < 16) ∧ (sKeepQueue 8 (some 5)).lowMark = 8 ∧
    ((sKeepQueue 8 (some 5)).port .a).queue2 = [8] :: List.replicate 7 [8] ∧
    (List.replicate 7 ([8] : Bytes)).length < 8 ∧ 8 ≤ (List.replicate 8 ([8] : Bytes)).length ∧
    ((sKeepQueue 8 (some 5)).port .a).refreshAt.isSome = true ∧
    ((sKeepQueue 8 none).port .a).refreshAt = none ∧
    ((sKeepQueue 8 none).port .a).linkQueue = [] ∧ ((sKeepQueue 8 none).port .a).queue0 = [] ∧
    ((sKeepQueue 8 none).port .a).queue1 = [] ∧ ((sKeepQueue 8 none).port .a).heldUntil = none ∧
    ((sKeepQueue 8 none).port .a).lane2 = .opened ∧ LaneState.pending ≠ .opened ∧
    ((sKeepQueue 8 none).port .a).link = .up ∧ ((sKeepQueue 8 none).port .b).link = .up ∧
    ((sKeepQueue 8 none).port .b).tx = none ∧ ((sKeepQueue 8 none).port .b).linkQueue = [] := by
  decide +kernel

theorem test_congestion :
    (let t := offerFrame .a 2 [9] (sKeepQueue 15 none)
     (t.port .a).refreshAt = some 50000 ∧ (t.port .b).tx = some (.hold 100 (holdBytes 1 100))) ∧
    after (.txComplete .a) (sKeepQueue 8 (some 5)) (fun t => t.lku.portA.refreshAt.isNone &&
      t.lku.portB.tx == some (.hold 0 (holdBytes 1 0))) = true ∧
    after (.carrierLoss .a) (sKeepQueue 15 (some 5)) (fun t => t.lku.portA.refreshAt.isNone &&
      t.lku.portB.tx == some (.hold 0 (holdBytes 1 0))) = true := by
  decide +kernel

/-- A transmitter that sends, with a frame in each lane queue. -/
def busyPort (f : TxFrame) : Port := { upPort with
  tx := some f, queue0 := [[3]], queue1 := [List.replicate 20 7], queue2 := [[8]] }

/-- Hypotheses of `TransmissionOrder`: each queue first in turn. -/
theorem test_witness_tx : (sUp.port .a).tx = none ∧ (busyPort (.hold 0 [])).tx = some (.hold 0 []) ∧
    ({ busyPort (.hold 0 []) with linkQueue := [.hello] } : Port).linkQueue = .hello :: [] ∧
    ({ busyPort (.hold 0 []) with linkQueue := [.hold 1 0] } : Port).linkQueue = .hold 1 0 :: [] ∧
    (busyPort (.hold 0 [])).linkQueue = [] ∧ (busyPort (.hold 0 [])).queue0 = [3] :: [] ∧
    (busyPort (.hold 0 [])).queue1 = List.replicate 20 7 :: [] ∧ heldPort.queue0 = [] ∧
    heldPort.queue1 = [] ∧ heldPort.heldUntil.isSome = true ∧
    (busyPort (.hold 0 [])).heldUntil = none ∧ (busyPort (.hold 0 [])).queue2 = [8] :: [] ∧
    sConf.performing = false ∧ upPort.queue2 = [] ∧ upPort.lane1 = .opened ∧ upPort.queue1 = [] ∧
    upPort.tx = none ∧ upPort.linkQueue = [] ∧ upPort.queue0 = [] := by
  decide +kernel

/-- The start of an AIR frame with an index. -/
def airAt (n : Index) : Bytes := [7, 2, 1] ++ List.replicate 11 0 ++ put32 n

/-- At index 10 an AIR frame of index 1 is stale as it joins, and one of index 2 is sent; without an epoch
none is stale. -/
theorem test_stale : sUp.staleFrame (airAt 1) = true ∧ sUp.staleFrame (airAt 2) = false ∧
    sArmed.staleFrame (airAt 1) = false ∧
    (let t := offerFrame .a 1 (airAt 1) sUp
     t.lku.portA.tx = none ∧ t.lku.portA.queue1 = [] ∧ t.lku.portA.counts.airStale = 1) ∧
    (offerFrame .a 1 (airAt 2) sUp).lku.portA.tx = some (.ring 1 (airAt 2)) ∧
    (offerFrame .a 1 (airAt 1) (sPort (busyPort (.hello [])))).lku.portA.queue1.length = 2 := by
  decide +kernel

theorem test_tx : after (.txComplete .a) (sPort (busyPort (.hold 0 []))) (fun t =>
    t.lku.portA.tx == some (.ring 0 [3]) && t.lku.portA.counts.releaseSent == 1) = true := by
  decide +kernel

/-! ### The Delivery Unit -/

/-- A filter entry whose top and lowest place are marked, its top before the wrap. -/
def filterTop : FilterEntry := { incarnation := 5, top := 0xFFFFFFFF, seen := 1 }

/-- Hypotheses of `WindowAdvances`, at both ends of the wrapping order and of the window. -/
theorem test_witness_window : newer 0 filterTop.top = true ∧ newer 0x7FFFFFFE filterTop.top = true ∧
    newer 0x7FFFFFFF filterTop.top = false ∧ 64 ≤ ((63 : Word) - filterTop.top).toNat ∧
    ((62 : Word) - filterTop.top).toNat < 64 ∧ newer 64 0 = true ∧ 64 ≤ ((64 : Word) - 0).toNat := by
  decide

theorem test_window : filterSequence filterTop 1 =
    .accepted { incarnation := 5, top := 1, seen := 5 } := by
  decide

/-- A station UP on both ports, with a filter entry for station 2. -/
def sFilter (e : Option FilterEntry) : State := { sUp with
  lku := { sUp.lku with portB := upPort }
  dlu := { sUp.dlu with filter := setStation sUp.dlu.filter 2 e } }

/-- Hypotheses of `FirstCopyRelayedAndDelivered`: each decision, at the ends of the window. -/
theorem test_witness_first_copy : sUp.unconfigured = false ∧ startFrame.length ≤ 3072 ∧
    crcGood startFrame = true ∧ (sUp.port .a).link = .up ∧
    ringKindOf (byteAt startFrame 0) = some .start ∧ byteAt startFrame 2 = RingKind.start.lane ∧
    (sUp.port .a).lane1 ≠ .closed ∧ (sUp.port .a).lane2 ≠ .closed ∧
    wordAt16 startFrame 12 = startFrame.length ∧
    lengthAllowed sUp.rate .start startFrame = true ∧ byteAt startFrame 1 = 2 ∧
    byteAt startFrame 1 ≠ sUp.ownId ∧
    filterFrame none (ringHeader startFrame) = .accepted { incarnation := 5, top := 0, seen := 1 } ∧
    filterFrame (some { incarnation := 4, top := 9, seen := 1 }) (ringHeader startFrame) =
      .newIncarnation { incarnation := 5, top := 0, seen := 1 } ∧
    filterFrame (some { incarnation := 5, top := 0, seen := 1 }) (ringHeader startFrame) =
      .duplicate ∧
    filterFrame (some { incarnation := 5, top := 64, seen := 1 }) (ringHeader startFrame) = .stale ∧
    newer 5 5 = false ∧ newer 5 6 = false ∧ newer 5 4 = true ∧
    (filterTop.top - 0xFFFFFFFF).toNat < 64 ∧ filterTop.seen.getLsbD 0 = true ∧
    (filterTop.top - 0xFFFFFFC0).toNat < 64 ∧ filterTop.seen.getLsbD 63 = false ∧
    64 ≤ (filterTop.top - 0xFFFFFFBF).toNat := by
  decide +kernel

/-- Hypotheses of `FirstCopyRelayedAndDelivered` on a newer sequence and on offers, at each edge. -/
theorem test_witness_offers : newer (0 : Word) filterTop.top = true ∧ newer (0x7FFFFFFE : Word) filterTop.top = true ∧
    (0 : Word) - filterTop.top = 1 ∧
    ({ upPort with queue1 := List.replicate 63 [] } : Port).offer 1 = .queued ∧
    ({ upPort with queue1 := List.replicate 64 [] } : Port).offer 1 = .full ∧
    ({ upPort with queue2 := List.replicate 127 [] } : Port).offer 2 = .queued ∧
    ({ upPort with queue2 := List.replicate 128 [] } : Port).offer 2 = .full ∧
    ({ upPort with lane2 := .pending } : Port).offer 2 = .notOpen ∧ (sUp.port .b).offer 0 = .notOpen ∧
    upPort.refreshAt = none ∧ upPort.heldUntil = none ∧ heldPort.heldUntil.isSome = true ∧
    2 ≤ sUp.highMark := by
  decide +kernel

theorem test_advances : filterFrame (some filterTop) { origin := 2, incarnation := 5, sequence := 0 } =
    .accepted { incarnation := 5, top := 0, seen := 3 } := by
  decide +kernel

theorem test_first_copy : after (.rxFrameComplete .a startFrame) (sFilter none) (fun t =>
    t.dlu.counts.relayed == 1 && t.dlu.counts.deliveredStart == 1 &&
      t.lku.portB.tx == some (.ring 0 startFrame)) = true := by
  decide +kernel

theorem test_duplicate : after (.rxFrameComplete .a startFrame)
    (sFilter (some { incarnation := 5, top := 0, seen := 1 }))
    (fun t => t.dlu.counts.filterDup == 1 && t.lku.portB.tx.isNone) = true := by
  decide +kernel

/-- A START of the own id 1, of an incarnation and a sequence. -/
def ownFrame (inc n : Word) : Bytes :=
  ringBytes .start { origin := 1, incarnation := inc, sequence := n } (put32 100)

/-- The station that is CUT by its operator. -/
def sUpCut : State := { sUp with aou := { sUp.aou with cut := some .operator } }

/-- Hypotheses of `OwnOriginJudged`: full circle, stale, the three ways to a duplicate id, and its attention and
cut clauses. -/
theorem test_witness_own_origin : crcGood (ownFrame 100 0) = true ∧
    (ownFrame 100 0).length ≤ 3072 ∧ ringKindOf (byteAt (ownFrame 100 0) 0) = some .start ∧
    byteAt (ownFrame 100 0) 2 = RingKind.start.lane ∧
    wordAt16 (ownFrame 100 0) 12 = (ownFrame 100 0).length ∧
    lengthAllowed sUp.rate .start (ownFrame 100 0) = true ∧
    byteAt (ownFrame 100 0) 1 = sUp.ownId ∧ sUp.tlu.incarnation = some 100 ∧
    wordAt32 (ownFrame 100 0) 4 = 100 ∧ newer sUp.dlu.nextSeq (wordAt32 (ownFrame 100 0) 8) = true ∧
    newer sUp.dlu.nextSeq (wordAt32 (ownFrame 100 1) 8) = false ∧ newer 99 100 = false ∧
    newer 101 100 = true ∧ sConf.tlu.incarnation = none ∧ sUp.dlu.muted = none ∧
    sMuted.dlu.muted.isSome = true ∧ sUp.csu.config = some cfg ∧ cfg.cutDup = true ∧
    sUp.aou.cut = none ∧ cfgPlain.cutDup = false ∧
    sUp.csu.pendingAttn.length = 11 ∧ sUp.csu.attnRaised.length = 11 ∧
    sUpCut.aou.cut.isSome = true ∧ sUpCut.dlu.muted = none ∧ sUpCut.csu.config = some cfg := by
  decide +kernel

theorem test_own_return : after (.rxFrameComplete .a (ownFrame 100 0)) sUp (fun t =>
    t.dlu.counts.ownReturn == 1 && t.dlu.muted.isNone) = true := by
  decide +kernel

theorem test_duplicate_id : after (.rxFrameComplete .a (ownFrame 100 1)) sUp (fun t =>
    t.dlu.muted == some { port := .a, incarnation := 100, sequence := 1 } &&
      t.aou.cut == some (.dupid .a 100 1)) = true := by
  decide +kernel

/-- R141: a CUT station counts the trigger, keeps its cause and raises DUPID alone. -/
theorem test_duplicate_id_cut : after (.rxFrameComplete .a (ownFrame 100 1)) sUpCut (fun t =>
    t.aou.cut == some .operator && t.aou.counts.cutTrigger == up sUp.aou.counts.cutTrigger &&
      t.csu.attnRaised.getD 0 0 == up (sUp.csu.attnRaised.getD 0 0) &&
      t.csu.attnRaised.getD 3 0 == sUp.csu.attnRaised.getD 3 0) = true := by
  decide +kernel

/-- Hypotheses of `MutedLasts`. -/
theorem test_witness_muted : sMuted.dlu.muted.isSome = true ∧
    Instr.showState ≠ .powerOnReset ∧ Instr.showState ≠ .consoleReset ∧ Instr.showState ≠ .arm ∧
    Instr.showState ≠ .commandLineTaken ∧ Instr.showState ≠ .breakTaken ∧
    (∃ t, exec .showState sMuted = .next t) :=
  ⟨by decide, by decide, by decide, by decide, by decide, by decide, ⟨_, rfl⟩⟩

/-! ### Cues and peers -/

/-- A peer entry, last refreshed at local time 0. -/
def peer2 : Peer where
  incarnation := 5
  state := .running
  airRole := false
  keepRole := false
  base := some 90
  index := some 10
  grade := 3
  cut := false
  refFlag := true
  mutedPeer := false
  keptList := []
  lastBeacon := 0

/-- A LEARNED entry of station 2, last refreshed at an index. -/
def learned2 (n : Index) : RosterEntry := { track := 8, claim := .learned 2 0 n }

/-- The station with a peer and a LEARNED entry of it. -/
def sPeer : State := { sConf with
  pcu := { sConf.pcu with peers := setStation sConf.pcu.peers 2 (some peer2) }
  rst := { sConf.rst with entries := [learned2 0] } }

/-- Hypotheses of `BeaconAndPeerTimers`: port A UP, UP and sending, and DOWN; a peer and none. -/
theorem test_witness_beacon : sConf.pcu.beaconAt = none ∧ sUp.pcu.beaconAt = some 50000000 ∧
    sMuted.dlu.muted.isSome = true ∧ sUp.dlu.muted = none ∧ (sUp.port .a).link = .up ∧
    (sUp.port .b).link ≠ .up ∧ (sUp.port .a).linkQueue = [] ∧ (sUp.port .a).queue0 = [] ∧
    (sUp.port .a).tx = none ∧ (sPort (busyPort (.hold 0 []))).lku.portA.tx ≠ none ∧
    (sPort (busyPort (.hold 0 []))).lku.portA.queue0.length < 32 ∧
    atStation sUp.pcu.peers 2 = none ∧ atStation sPeer.pcu.peers 2 = some peer2 ∧
    peer2.keepRole = false ∧ ({ peer2 with keepRole := true } : Peer).keepRole = true ∧
    sUp.csu.config = some cfg ∧ sUp.pcu.cues = some items0 ∧ items0.length = 17 ∧
    sUp.tlu.epoch.isSome = true ∧ sArmed.tlu.epoch = none ∧ sArmed.tlu.station = .armed ∧
    sEnd.tlu.station = .ending ∧ cfg.keepRole = true ∧ cfgPlain.keepRole = false := by
  decide

/-- The fields of a BEACON: in RUNNING with a held place, and in ARMED without an epoch. -/
theorem test_beacon_body :
    (let b := ({ sCut with kou := { sCut.kou with
        take := setStation sCut.kou.take 2 (some { incarnation := 5, nextTake := 7, lastSent := 6 }) } } :
          State).beaconBody
     b.stateCode = 4 ∧ b.base = some 90 ∧ b.index = some 10 ∧ b.cut = true ∧ b.refFlag = false ∧
       b.keptCount = 1 ∧ b.kept = [{ origin := 2, incarnation := 5, kept := 6 }] ∧ b.items.length = 17) ∧
    sArmed.beaconBody.stateCode = 3 ∧ sArmed.beaconBody.base = none ∧ sArmed.beaconBody.index = none := by
  decide +kernel

theorem test_beacon : after .beaconTimer sUp (fun t => t.now == 50000000 && t.dlu.nextSeq == 2 &&
    t.lku.portA.tx.isSome && t.pcu.beaconAt == some 100000000) = true := by
  decide +kernel

theorem test_peer_loss : after (.peerLossTimer 2) sPeer (fun t => t.now == 200000000 &&
    (atStation t.pcu.peers 2).isNone && t.rst.entries.isEmpty &&
      t.rst.counts.rosterFlushed == 1 && t.csu.attnRaised.getD 9 0 == 1) = true := by
  decide +kernel

/-- A BEACON of a station state, under a base, with an untouched cue table. -/
def beaconOf (code : Nat) (base : Option Word) : BeaconBody where
  stateCode := code
  airRole := false
  keepRole := false
  cut := false
  refFlag := false
  mutedPeer := false
  grade := 3
  base := base
  index := none
  keptPresent := false
  keptCount := 0
  items := List.replicate 17 { code := 0, origin := 0, number := 0 }
  kept := []

/-- The station with station 2 in its peer table and its conflict record. -/
def sRecorded : State := { sRun with
  tlu := { sRun.tlu with conflicts := [{ station := 2, incarnation := 5 }] }
  pcu := { sRun.pcu with peers := setStation sRun.pcu.peers 2 (some peer2) } }

/-- Hypotheses of `BeaconTaken`: valid and not, the three rows of the peer table and an older incarnation, and
the rows of the epoch. -/
theorem test_witness_beacon_taken : (beaconOf 4 (some 90)).valid = some .running ∧
    (beaconOf 4 none).valid = none ∧ (beaconOf 3 none).valid = some .armed ∧
    (beaconOf 2 none).valid = none ∧ (beaconOf 7 none).valid = none ∧
    atStation sRun.pcu.peers 2 = none ∧ atStation sRecorded.pcu.peers 2 = some peer2 ∧
    newer 6 peer2.incarnation = true ∧ newer 4 peer2.incarnation = false ∧
    cueOfCode 15 2 = some .on ∧ cueOfCode 16 1 = some .on ∧ sArmed.tlu.epoch = none ∧
    sArmed.tlu.droppedBase ≠ some 90 ∧ StationState.ending ≠ .running ∧
    sRun.tlu.epoch = some { base := 90, source := 1 } ∧ (91 : Word) ≠ 90 ∧
    ((sRecorded.tlu.conflicts.find? fun c => c.station == 2).map (·.incarnation)) = some 5 ∧
    sConf.tlu.station = .configured ∧ sRun.csu.config = some cfg ∧ cfg.cutEpoch = true := by
  decide +kernel

theorem test_beacon_taken :
    (let t := beaconTaken { origin := 2, incarnation := 5, sequence := 0 } (beaconOf 4 (some 91)) sRun
     t.tlu.counts.epochConflict = 1 ∧ t.tlu.conflicts = [{ station := 2, incarnation := 5 }] ∧
       t.aou.cut = some (.epoch 91 2) ∧ t.pcu.counts.peerNew = 1 ∧ t.pcu.counts.beaconTaken = 1) ∧
    (beaconTaken { origin := 2, incarnation := 5, sequence := 0 } (beaconOf 4 (some 91))
      sRecorded).tlu.counts.epochConflict = 0 ∧
    (beaconTaken { origin := 2, incarnation := 5, sequence := 0 } (beaconOf 4 (some 95))
      sArmed).tlu.epoch = some { base := 95, source := 2 } ∧
    (beaconTaken { origin := 2, incarnation := 5, sequence := 0 } (beaconOf 2 none)
      sRun).pcu.counts.beaconBad = 1 := by
  decide +kernel

/-- Hypotheses of `CuesApplied`. -/
theorem test_witness_cues : sRun.pcu.cues = some items0 ∧
    items0[0]? = some { value := .dark, number := 0, origin := 0 } ∧
    items0[16]? = some { value := .off, number := 0, origin := 0 } ∧
    cueOfCode 17 0 = none ∧ (0 < 16) ∧ (15 < 16) ∧ sRun.armedOnward = true ∧
    cueOfCode 0 2 = some .on ∧ cueOfCode 16 1 = some .on ∧ sConf.armedOnward = false ∧
    pairGreater 1 2 0 0 = true ∧ pairGreater 1 3 0 0 = true ∧ pairGreater 1 2 1 2 = false ∧
    ((1 : Word), 2) ≠ ((1 : Word), 3) ∧ ((1 : Word) - 1).toNat ≠ 2 ^ 31 ∧
    sRun.pcu.item 0 = some { value := .dark, number := 0, origin := 0 } := by
  decide

/-- A CUE of station 2 that sets item 0 ON with number 5. -/
def cueFrame : Bytes := ringBytes .cue { origin := 2, incarnation := 5, sequence := 0 }
  (cueBytes { item := 0, code := 2, number := 5 })

theorem test_cue_counted : (deliver .cue false cueFrame sUp).pcu.counts.cueApplied = 1 ∧
    (deliver .cue false cueFrame (deliver .cue false cueFrame sUp)).pcu.counts.cueStale = 1 := by
  decide +kernel

theorem test_cue_frame : after (.rxFrameComplete .a cueFrame) sUp (fun t =>
    t.pcu.clock == 5 && t.pcu.item 0 == some { value := .on, number := 5, origin := 2 }) = true := by
  decide +kernel

/-! ### The roster -/

/-- The station with group 0 ON and a roster. -/
def sRoster (freeze : CueValue) (es : List RosterEntry) : State := { sRun with
  pcu := { sRun.pcu with cues := some (itemsOn freeze) }
  rst := { sRun.rst with entries := es } }

/-- The AIR body of a track in group 0 at index 10. -/
def airOf (track : Nat) : AirBody :=
  { track := track, group := 0, index := 10
    load := { grade := 0, damage := false, payload := List.replicate 120 0 } }

/-- A roster of 320 entries of tracks 0 to 319. -/
def fullRoster : List RosterEntry := (List.range 320).map fun k => { track := k, claim := .bar }

/-- Hypotheses of `RosterJudgesAir`: each entry kind, and each side of each limit. -/
theorem test_witness_air : sRun.armedOnward = true ∧ (sRun.cueValue 0).onAir = false ∧
    ((sRoster .off []).cueValue 0).onAir = true ∧ (sRoster .on []).cueValue 16 = .on ∧
    (sRoster .off []).cueValue 16 ≠ .on ∧ findClaim 8 ([] : List RosterEntry) = none ∧
    (sRoster .off []).claimLimit 2 = 1 ∧
    learnedCount 2 (sRoster .off [learned2 0]).rst.entries = 1 ∧
    ¬ ((sRoster .off []).claimLimit 2 ≤ learnedCount 2 (sRoster .off []).rst.entries) ∧
    fullRoster.length = 320 ∧ findClaim 400 fullRoster = none ∧
    findClaim 8 [learned2 0] = some (.learned 2 0 0) ∧ (2 ≠ 3) ∧
    (sRoster .off []).guardOn = true ∧ (sRoster .off []).airRole = true ∧ sEndPlain.airRole = false ∧
    findClaim 5 [{ track := 5, claim := .localTrack 0 }] = some (.localTrack 0) ∧
    findClaim 9 [{ track := 9, claim := .pin 2 0 }] = some (.pin 2 0) ∧
    findClaim 9 [{ track := 9, claim := .bar }] = some .bar := by
  decide +kernel

theorem test_air_delivered : sConf.armedOnward = false ∧
    (deliver .air false (ringBytes .air { origin := 2, incarnation := 5, sequence := 0 }
      (airBytes (airOf 8))) (sRoster .off [])).rst.entries = [learned2 10] := by
  decide +kernel

theorem test_learned : (rosterAir 2 (airOf 8) (sRoster .off [])).rst.entries = [learned2 10] := by
  decide +kernel

/-- Hypotheses of `GroupCueMakesLocals`: each entry of track 5, which channel 0 patches in group 0, and a
roster with room and without. -/
theorem test_witness_locals : sRun.armedOnward = true ∧ sConf.armedOnward = false ∧ (16 ≤ 16) ∧
    (sRun.patched.map fun p => (p.1, p.2.track, p.2.group)) = [(0, 5, 0)] ∧
    findClaim 5 ([] : List RosterEntry) = none ∧ findClaim 400 fullRoster = none ∧
    320 ≤ fullRoster.length ∧ [learned2 0].length + 1 ≤ 320 ∧
    findClaim 5 [{ track := 5, claim := .learned 2 0 0 }] = some (.learned 2 0 0) ∧
    findClaim 5 [{ track := 5, claim := .pin 2 0 }] = some (.pin 2 0) ∧
    findClaim 5 [{ track := 5, claim := .bar }] = some .bar ∧
    sRun.pcu.applies { item := 0, value := .on, number := 1, origin := 1 } = true := by
  decide +kernel

theorem test_locals :
    (rosterCue 0 .primed (sRoster .off [{ track := 5, claim := .learned 2 0 0 }])).rst.entries =
      [{ track := 5, claim := .localTrack 0 }] ∧
    (rosterCue 0 .on (sRoster .off [{ track := 5, claim := .bar }])).rst.counts.claimBarred = 1 ∧
    rosterCue 16 .on (sRoster .off []) = sRoster .off [] := by
  decide +kernel

/-- Hypotheses of `RosterAges`, at both sides of an age of 5; a void boundary, a mark that is no boundary, and
one that makes the reference LOCKED. -/
theorem test_witness_ages : sRun.csu.config = some cfg ∧ sRun.armedOnward = true ∧
    sRun.tlu.ref = .locked ∧ sRun.tlu.lastMark.map (· + 1) = some 101 ∧
    sRun.tlu.epoch = some { base := 90, source := 1 } ∧ sRun.tlu.station = .running ∧
    sRun.tlu.high = some 10 ∧ (10 : Index).toInt < ((101 : Word) - 90 : Index).toInt ∧
    (sRef .acquiring 2).tlu.ref = .acquiring ∧ 3 ≤ (sRef .acquiring 2).tlu.run + 1 ∧
    sRun.rate.samples = 480 ∧ sRun.tlu.lastMark.map (· + 1) ≠ some 102 ∧ sArmed.tlu.epoch = none := by
  decide

theorem test_ages : after (.markTaken 101 480) (sRoster .off [learned2 5]) (fun t =>
      t.rst.entries.isEmpty && t.rst.counts.rosterAged == 1) = true ∧
    after (.markTaken 101 480) (sRoster .off [learned2 6]) (fun t =>
      t.rst.entries == [learned2 6]) = true := by
  decide +kernel

/-! ### The Air Outlet -/

/-- A payload of grade 0. -/
def load0 : AirPayload := { grade := 0, damage := false, payload := List.replicate 120 0 }

/-- A segment of track 8 of an origin at an index. -/
def arrivalOf (track origin : Nat) (n : Index) : Arrival :=
  { track := track, origin := origin, index := n, load := load0 }

/-- An OPEN slot that expects tracks 8 and 9 of station 2; track 9 has arrived. -/
def slot (n : Index) : Slot where
  index := n
  state := .opened 5000000
  expected := [{ track := 8, origin := 2 }, { track := 9, origin := 2, arrived := some load0 }]

/-- The station with a window whose open mark is 11. -/
def sWindow (ts : List Slot) : State := { sRun with
  tlu := { sRun.tlu with curIndex := some 11, high := some 11 }
  aou := { sRun.aou with window := ts, openMark := some 11, driven := true, hasRun := true } }

/-- A slot CLOSED at its deadline. -/
def closedSlot (n : Index) : Slot := { slot n with state := .closed .deadline }

/-- Hypotheses of `ArrivalsAndResolution`, clause by clause, with indices at both sides of the mark and
miss runs at both sides of the conceal limit of 1. -/
theorem test_witness_arrivals : sRun.aou.openMark = none ∧
    (sWindow [slot 11]).aou.openMark = some 11 ∧ (11 : Index).toInt < (12 : Index).toInt ∧
    (arrivalOf 8 2 11).index.toInt ≤ (11 : Index).toInt ∧
    (sWindow [slot 11]).aou.slotOf 10 = none ∧ (sWindow [slot 11]).aou.slotOf 11 = some (slot 11) ∧
    (closedSlot 11).state = .closed .deadline ∧ (slot 11).state = .opened 5000000 ∧
    (∀ e ∈ (slot 11).expected, e.track ≠ 7) ∧
    (slot 11).expected.find? (fun e => e.track == 8) = some { track := 8, origin := 2 } ∧
    (slot 11).expected.find? (fun e => e.track == 9) =
      some { track := 9, origin := 2, arrived := some load0 } ∧
    (sWindow [slot 11]).aou.classify (arrivalOf 8 2 12) = .ahead ∧
    { track := 8, origin := 2, arrived := some load0 } ∈
      ((slot 11).store (arrivalOf 8 2 11)).expected ∧
    (∃ c : ConcealPlace, c.last = some load0 ∧ min 255 (c.missRun + 1) ≤ 1) ∧
    (∃ c : ConcealPlace, c.last = some load0 ∧ 1 < min 255 (c.missRun + 1)) ∧
    ({} : ConcealPlace).last = none ∧
    (sWindow [slot 11]).aou.classify (arrivalOf 8 2 11) = .stored ∧
    (sWindow [slot 10, slot 11]).aou.classify (arrivalOf 8 2 11) = .stored ∧
    (sWindow [slot 11]).aou.cut = none ∧ (sWindow [slot 11]).aou.feed.length < 2 ∧
    ((slot 11).expected.map fun e => e.track).Nodup ∧
    (List.replicate 512 ({} : ConcealPlace)).length = 512 :=
  ⟨by decide, by decide, by decide, by decide, by decide, by decide, by decide, by decide, by decide,
    by decide, by decide, by decide, by decide, ⟨{ last := some load0, missRun := 0 }, by decide⟩,
    ⟨{ last := some load0, missRun := 1 }, by decide⟩, by decide, by decide, by decide, by decide,
    by decide, by decide, List.length_replicate⟩

/-- RUNNING with a number of slots, of which the oldest is OPEN or CLOSED, and the buffers full. -/
def sSlots (oldest : Slot) (n : Nat) : State := { sRun with
  aou := { sRun.aou with
    window := oldest :: (List.range n).map fun k => slot (BitVec.ofNat 32 k)
    openMark := some 10, hasRun := true
    feed := [{ number := 0, record := recordAt 8, sending := true },
             { number := 1, record := recordAt 9, sending := false }] } }

/-- Hypotheses of `SlotOpens`: each state, both sides of L, and windows of 11 and 12 slots. -/
theorem test_witness_slot : sRun.sgc.batch = none ∧ cfg.airRole = true ∧ cfgPlain.airRole = false ∧
    sRun.tlu.station = .running ∧ sEnd.tlu.last = some 12 ∧ sEnd.tlu.high = some 10 ∧
    (10 : Index).toInt < ((101 : Word) - 90 : Index).toInt ∧
    ((101 : Word) - 90 : Index).toInt ≤ (12 : Index).toInt ∧
    (12 : Index).toInt < ((101 : Word) - 88 : Index).toInt ∧
    (sBase .armed 101).tlu.station = .armed ∧ (sBase .armed 102).tlu.station = .armed ∧
    sRun.aou.window = [] ∧ (sSlots (slot 0) 10).aou.window.length < 12 ∧
    (sSlots (slot 0) 11).aou.window.length = 12 ∧ (slot 0).state = .opened 5000000 ∧
    (closedSlot 0).state = .closed .deadline ∧ 2 ≤ (sSlots (slot 0) 11).aou.feed.length ∧
    (sSlots (slot 0) 11).aou.cut = none := by
  decide +kernel

theorem test_slot_opens :
    after (.markTaken 101 480) (sRoster .off [learned2 10]) (fun t => t.aou.window ==
      [{ index := 11, state := .opened 20000000, expected := [{ track := 8, origin := 2 }] }]) = true ∧
    after (.markTaken 101 480) (sSlots (slot 0) 11) (fun t => t.aou.counts.slotRefused == 1 &&
      t.aou.openMark == some 11 && t.aou.window.length == 12) = true ∧
    after (.markTaken 101 480) (sSlots (closedSlot 0) 11) (fun t => t.aou.counts.feedOverrun == 1 &&
      t.csu.pendingAttn.getD 5 none == some (.slotDropped 0)) = true := by
  decide +kernel

theorem test_store : ((slot 11).store (arrivalOf 8 2 11)).state = .closed .complete := by
  decide

/-- The station with a program feed record, SENDING or WAITING. -/
def sFeed (sending : Bool) : State := { sWindow [] with
  aou := { (sWindow []).aou with feed := [{ number := 0, record := recordAt 9, sending := sending }] } }

/-- A CUT station under a mode, with one OPEN slot. -/
def sCutSlot (m : CutMode) : State := { sWindow [slot 11] with
  aou := { (sWindow [slot 11]).aou with cut := some .operator }
  csu := { sRun.csu with config := some { cfg with cutMode := m } } }

/-- Hypotheses of `ProgramFeedEvents`. -/
theorem test_witness_feed : (sWindow [slot 11]).aou.deadlineOf 10 = none ∧
    (sWindow [slot 11]).aou.deadlineOf 11 = some 5000000 ∧
    (sWindow [slot 10, slot 11]).aou.window = slot 10 :: [slot 11] ∧
    (slot 10).state = .opened 5000000 ∧ (slot 10).index ≠ 11 ∧
    (sWindow [slot 10, slot 11]).aou.deadlineOf 11 = some 5000000 ∧
    (sWindow [slot 11]).aou.window = [slot 11] ∧ (sWindow [slot 11]).aou.cut = none ∧
    (sWindow [slot 11]).aou.feed.length < 2 ∧ sendingRecord (sFeed false).aou.feed = none ∧
    sendingRecord (sFeed true).aou.feed = some (recordAt 9) ∧ (sFeed true).aou.window = [] ∧
    (sSlots (slot 0) 2).aou.cut = none ∧ 2 ≤ (sSlots (slot 0) 2).aou.feed.length ∧
    (sCutSlot .quiet).aou.cut.isSome = true ∧ (sCutSlot .stop).aou.deadlineOf 11 = some 5000000 ∧
    (sCutSlot .float).csu.config = some { cfg with cutMode := .float } ∧
    sendingRecord (sSlots (closedSlot 0) 2).aou.feed = some (recordAt 8) ∧
    (dropSending (sSlots (closedSlot 0) 2).aou.feed).length < 2 := by
  decide

theorem test_deadline_cut :
    after (.slotDeadline 11) (sCutSlot .quiet) (fun t => t.aou.counts.entrySilent == 2 &&
      t.aou.feed.map (·.record.cut) == [true]) = true ∧
    after (.slotDeadline 11) (sCutSlot .stop) (fun t => t.aou.counts.slotCut == 1 &&
      t.aou.window.isEmpty && t.aou.feed.isEmpty) = true := by
  decide +kernel

theorem test_deadline : after (.slotDeadline 11) (sWindow [slot 11]) (fun t =>
    t.aou.window.isEmpty && t.aou.counts.slotDeadline == 1 && t.aou.counts.slotEmitted == 1 &&
      t.aou.counts.entryArrived == 1 && t.aou.counts.entrySilent == 1) = true := by
  decide +kernel

theorem test_record_complete : after .feedRecordComplete (sFeed true) (fun t =>
    t.aou.feed.isEmpty && t.aou.counts.recSent == 1) = true := by
  decide +kernel

theorem test_program_ready : after .programReadyRise (sFeed false) (fun t =>
    t.aou.ready && sendingRecord t.aou.feed == some (recordAt 9)) = true := by
  decide +kernel

theorem test_program_not_ready : after .programReadyFall (sFeed true) (fun t =>
    !t.aou.ready && sendingRecord t.aou.feed == some (recordAt 9)) = true := by
  decide +kernel

/-! ### The Keep Spool and the Keep Outlet -/

/-- A KEEP body of a sequence. -/
def keepOf (n : Word) : KeepBody :=
  { sequence := n, track := 5, group := 0, index := 10, damage := 0, lossBefore := 0
    payload := List.replicate 16 0 }

/-- A spool of two entries, the first drained, its resend timer running. -/
def spool2 : Ksp := { entries := [keepOf 0, keepOf 1], drain := 1, write := 2, resendAt := some 100000000 }

/-- A KEEP outlet that has kept up to a sequence of this station. -/
def keepPeer (kept : Word) : Peer :=
  { peer2 with keepRole := true, keptList := [{ origin := 1, incarnation := 100, kept := kept }] }

/-- A station without roles whose spool is counted by one outlet. -/
def sSpool (kept : Word) : State := { sRun with
  csu := { sRun.csu with config := some cfgPlain }
  pcu := { sRun.pcu with peers := setStation sRun.pcu.peers 2 (some (keepPeer kept)) }
  ksp := spool2 }

/-- The same at the instant of a go-back, with drain ahead of free again. -/
def sMet (kept : Word) : State := { sSpool kept with
  ksp := { spool2 with wentBack := some 0 } }

/-- The same with nothing drained, no peer, and port A in a state. -/
def sDrain (x : Port) : State := { sSpool 0 with
  lku := { sRun.lku with portA := x }
  pcu := sRun.pcu
  ksp := { entries := [keepOf 0, keepOf 1], write := 2 } }

/-- Hypotheses of `SpoolAppendsFreesAndGoesBack`: room for one more and none, and each target. -/
theorem test_witness_spool : sConf.armedOnward = false ∧ sRun.armedOnward = true ∧
    ({ spool2 with write := 262143 } : Ksp).retained < 262144 ∧ 262144 ≤ sFull.ksp.retained ∧
    sFull.ksp.lostRun = 0 ∧ sConf.countedOutlets = [] ∧
    oldestOf ((sSpool 0).countedOutlets.map (·.2)) = some 0 ∧ newer (1 : Word) (0 + 1) = false ∧
    newer (1 : Word) 0 = true ∧
    oldestOf ((sSpool 0xFFFFFFFF).countedOutlets.map (·.2)) = some 0xFFFFFFFF ∧
    newer (0xFFFFFFFF + 1 : Word) 0 = false ∧ sRun.ksp.resendAt = none ∧
    (sSpool 0).ksp.resendAt = some 100000000 ∧ (sSpool 0).ksp.wentBack ≠ some (sSpool 0).now ∧
    (sMet 0).ksp.wentBack = some (sMet 0).now ∧
    oldestOf ((sMet 0).countedOutlets.map (·.2)) = some 0 := by
  decide +kernel

/-- An update at the instant of a go-back, and behind it, does not move free; the next one does (R157). -/
theorem test_go_back_first : (recomputeFree (sMet 0)).ksp.free = 0 ∧
    (recomputeFree (recomputeFree (sMet 0))).ksp.free = 1 := by
  decide +kernel

/-- Hypotheses of `DrainSends`: a drain that may send with port A UP, one that may not, and one with no port
UP and an own outlet. -/
theorem test_witness_drain_sends : (sDrain upPort).drainBlock = none ∧
    (sDrain { upPort with heldUntil := some 5 }).drainBlock = some (.laneHeld .a) ∧
    (sDrain {}).drainBlock = some .noOutlet ∧ (sDrain upPort).dlu.muted = none ∧
    (sDrain upPort).csu.config = some cfgPlain ∧ (sDrain upPort).tlu.incarnation = some 100 ∧
    1 ≤ cfgPlain.station ∧ cfgPlain.station ≤ 16 ∧
    (sDrain upPort).ksp.entries[0]? = some (keepOf 0) := by
  decide +kernel

theorem test_drain_sends :
    (let t := drain (sDrain upPort)
     t.ksp.drain = 2 ∧ t.ksp.resendAt = some 100000000 ∧ t.dlu.nextSeq = 3 ∧
       t.ksp.counts.keepDrained = 2 ∧ (t.port .a).queue2.length = 1) := by
  decide +kernel

theorem test_resend : after .resendTimer (sSpool 0) (fun t => t.ksp.drain == 0 &&
    t.ksp.resendAt.isNone && t.ksp.counts.rewind == 1) = true := by
  decide +kernel

theorem test_freed : (recomputeFree (sSpool 0)).ksp.entries = [keepOf 1] := by
  decide +kernel

/-- A place of the take table. -/
def place7 : TakeEntry := { incarnation := 5, nextTake := 7, lastSent := 6 }

/-- A Keep Outlet whose archive line sends a record. -/
def sTake (r : ArchiveRecord) : State := { sConf with
  kou := { sConf.kou with
    take := setStation sConf.kou.take 2 (some place7)
    lines := [{ number := 0, record := r, sending := true }] } }

/-- Hypotheses of `KeepOutletTakesAndSends`: each row of the take table at the ends of its range, and
each way a record completes. -/
theorem test_witness_take : newer 6 place7.incarnation = true ∧ newer 4 place7.incarnation = false ∧
    newer place7.nextTake 6 = true ∧ newer 8 place7.nextTake = true ∧ newer 8 (7 : Word) = true ∧
    newer 7 (7 : Word) = false ∧ ((0x80000007 : Word) - place7.nextTake).toNat = 2 ^ 31 ∧
    sConf.kou.take.length = 16 ∧ (1 ≤ 16) ∧ (16 ≤ 16) ∧
    atStation (sTake (.data 2 5 (keepOf 7))).kou.take 2 = some place7 ∧
    (keepOf 8).sequence = 8 ∧ (keepOf 9).sequence ≠ 8 ∧
    sendingRecord sConf.kou.lines = none ∧
    sendingRecord (sTake (.data 2 5 (keepOf 7))).kou.lines = some (.data 2 5 (keepOf 7)) ∧
    sendingRecord (sTake (.join 2 5 7)).kou.lines = some (.join 2 5 7) ∧
    sConf.armedOnward = false ∧ sRun.armedOnward = true ∧ sRun.ownId = 1 ∧
    sRun.tlu.incarnation = some 100 ∧ judgeKeep none 100 0 0 64 = .start ∧
    newer (keepOf 7).sequence place7.lastSent = true ∧
    newer (keepOf 6).sequence place7.lastSent = false ∧ sConf.kou.queue = [] ∧
    sRun.keepRole = true ∧ sEndPlain.keepRole = false := by
  decide +kernel

/-- A KEEP frame of station 2 starts its place at an outlet, and does nothing without the role. -/
theorem test_keep_delivered :
    (let frame := ringBytes .keep { origin := 2, incarnation := 5, sequence := 0 } (keepBytes (keepOf 7) 7)
     (atStation (deliver .keep false frame sRun).kou.take 2).map (·.nextTake) = some 8 ∧
       deliver .keep false frame sEndPlain = sEndPlain) := by
  decide +kernel

theorem test_archive_complete : after .archiveRecordComplete (sTake (.data 2 5 (keepOf 7))) (fun t =>
    atStation t.kou.take 2 == some { place7 with lastSent := 7 } && t.kou.lines.isEmpty &&
      t.kou.counts.archSent == 1) = true := by
  decide +kernel

theorem test_archive_ready : after .archiveReadyRise
    { sConf with kou := { sConf.kou with queue := [.join 2 5 7] } }
    (fun t => t.kou.ready && sendingRecord t.kou.lines == some (.join 2 5 7)) = true := by
  decide +kernel

theorem test_archive_not_ready : after .archiveReadyFall (sTake (.join 2 5 7)) (fun t =>
    !t.kou.ready && sendingRecord t.kou.lines == some (.join 2 5 7)) = true := by
  decide +kernel

theorem test_report_sent : after .reportSent
    { sRun with csu := { sRun.csu with
        watch := some { item := .ref, repeatAt := none, due := true }, tx := [.reply .ok 4] } }
    (fun t => (t.csu.watch.map (·.repeatAt)) == some (some 250000000)) = true := by
  decide +kernel

theorem test_watch_repeat : after .watchRepeatTimer (sWatch false) (fun t =>
    t.now == 250000000 && t.csu.replying) = true := by
  decide +kernel

/-! ### Attention -/

/-- Hypotheses of `AttentionPin`: a class that is pending and one that is not, before a command. -/
theorem test_witness_attention : sRun.csu.pendingAttn.length = 11 ∧ sRun.csu.attnRaised.length = 11 ∧
    sRun.csu.pendingAttn.getD AttnClass.reset.rank none = some .powerOn ∧
    sRun.csu.pendingAttn.getD AttnClass.link.rank none = none ∧ sRun.csu.attnAsserted = true ∧
    ({ sRun.csu with enableMask := 0 } : Csu).attnAsserted = false ∧
    (∃ t, exec .sampleTake sRun = .next t) :=
  ⟨by decide, by decide, by decide, by decide, by decide, by decide, ⟨_, rfl⟩⟩

/-! ### Frames and laws -/

/-- Hypotheses of `FramesRoundTrip`, at the ends of the fields. -/
theorem test_witness_frames : 1 ≤ sUp.ownId ∧ sUp.ownId ≤ 16 ∧ sUp.unconfigured = false ∧
    (255 < 256) ∧ (65535 < 65536) ∧ (cueBytes { item := 0, code := 2, number := 5 }).length < 65000 ∧
    (airOf 511).track < 65536 ∧ (airOf 511).load.grade ≤ 7 ∧
    (airOf 511).load.payload.length = gradeSize (airOf 511).load.grade ∧
    (keepOf 0).track < 65536 ∧ (keepOf 0).damage < 65536 ∧ (keepOf 0).payload.length < 65000 ∧
    sRun.beaconBody.stateCode < 256 ∧ sRun.beaconBody.grade < 256 ∧
    sRun.beaconBody.items.length = 17 ∧
    (∀ i ∈ sRun.beaconBody.items, i.code < 256 ∧ i.origin < 256) ∧
    sRun.beaconBody.kept.length = sRun.beaconBody.keptCount ∧ sRun.beaconBody.keptCount ≤ 16 ∧
    (∀ e ∈ sRun.beaconBody.kept, e.origin < 256) := by
  decide +kernel

/-- A lawful spool that goes back: hypotheses of `SpoolLawKept`. -/
theorem test_witness_spool_law :
    (sSpool 0).ksp.Law ∧ ∃ t, step { sSpool 0 with pending := [.resendTimer] } = .next t :=
  ⟨⟨by decide, by decide, by decide,
    fun i b h => by
      match i, h with
      | 0, h => cases h; rfl
      | 1, h => cases h; rfl,
    by decide⟩, ⟨_, rfl⟩⟩

/-- Hypotheses of `BuffersFitKept`. -/
theorem test_witness_fits : Fits (sSpool 0) ∧ ∃ t, step (sSpool 0) = .next t :=
  ⟨⟨⟨by decide, by decide, by decide, by decide⟩, ⟨by decide, by decide, by decide, by decide⟩,
    ⟨by decide, fun l h => by
      rw [List.eq_of_mem_replicate (n := 4) h]; exact ⟨by decide, by decide⟩⟩,
    by decide, by decide, by decide, by decide, by decide +kernel, by decide, by decide, by decide,
    fun _ _ h => (by cases h), fun _ h => by cases h; decide⟩,
    ⟨_, rfl⟩⟩

/-- The lifecycle of the tests' stations: hypotheses of `LifecycleKept`. -/
theorem test_witness_lifecycle : Lifecycle (sRoster .off [learned2 5]) ∧ Lifecycle sConf ∧
    ∃ t, step (sRoster .off [learned2 5]) = .next t :=
  ⟨⟨by decide, by decide, by decide, by decide, by decide, by decide, by decide, by decide, by decide,
      by decide, by decide, by decide, by decide⟩,
    ⟨by decide, by decide, by decide, by decide, by decide, by decide, by decide, by decide, by decide,
      by decide, by decide, by decide, by decide⟩, ⟨_, rfl⟩⟩

/-- Hypotheses of `RosterLawKept`: a LEARNED entry at the claim limit of its origin. -/
theorem test_witness_roster_law : RosterLaw (sRoster .off [learned2 5]) ∧
    Lifecycle (sRoster .off [learned2 5]) ∧ ClaimLaw (sRoster .off [learned2 5]) ∧
    learnedCount 2 [learned2 5] = (sRoster .off [learned2 5]).claimLimit 2 ∧
    ∃ t, step (sRoster .off [learned2 5]) = .next t :=
  ⟨⟨List.pairwise_singleton _ _, by decide, by decide⟩, test_witness_lifecycle.1, fun st => by
      by_cases h : st = 2
      · subst h; decide
      · refine Nat.le_trans (Nat.le_of_eq ?_) (Nat.zero_le _)
        simp [sRoster, learnedCount, learned2, Claim.learnedFrom, Ne.symm h],
    by decide, ⟨_, rfl⟩⟩

/-- Hypotheses of `RosterLawKept` on the kinds: a LOCAL entry of the patch and a PIN of the static list. -/
theorem test_witness_kind_law :
    let s := sRoster .off [{ track := 5, claim := .localTrack 0 }, { track := 9, claim := .pin 2 0 }]
    RosterLaw s ∧ Lifecycle s ∧ KindLaw s ∧ s.rst.count Claim.isLocal = 1 ∧ ∃ t, step s = .next t :=
  ⟨⟨by unfold Rst.Ordered; decide, by decide, by decide⟩,
    ⟨by decide, by decide, by decide, by decide, by decide, by decide, by decide, by decide, by decide,
      by decide, by decide, by decide, by decide⟩,
    ⟨by decide, by decide, by decide, by decide⟩, by decide, ⟨_, rfl⟩⟩

/-- Hypotheses of `LinkLawKept`: port A UP, port B DOWN. -/
theorem test_witness_link_law : LinkLaw sUp ∧ ∃ t, step sUp = .next t :=
  ⟨⟨⟨by decide, by decide, fun _ _ h => (by cases h), fun _ => rfl, fun _ => rfl, by decide, by decide,
      by decide, by decide⟩,
    ⟨by decide, by decide, fun _ _ h => (by cases h), fun _ => rfl, fun _ => rfl, by decide, by decide,
      by decide, by decide⟩,
    by decide, by decide, by decide⟩, ⟨_, rfl⟩⟩

/-- Hypotheses of `WindowLawKept`: two slots, the newer at the open mark and at H. -/
theorem test_witness_window_law : WindowLaw (sWindow [slot 10, slot 11]) ∧
    ∃ t, step (sWindow [slot 10, slot 11]) = .next t :=
  ⟨⟨by decide, fun t h => ⟨11, rfl, by
      rcases List.mem_cons.mp h with h | h
      · subst h; decide
      · rw [List.mem_singleton.mp h]; decide⟩,
    by decide, fun _ m h => ⟨11, rfl, by cases h; decide⟩⟩, ⟨_, rfl⟩⟩

end Sys2Proof.Tests
end

section
/-! CLEAR CAPTURE (R24): an error on a capture line and the clearing of a mask, each said once by what it
makes of one line, and then O12, in which the two are taken in either order. -/

namespace Sys2Proof.Machine

/-! ### One capture line -/

@[simp] theorem CaptureLine.flag_withFlag (l : CaptureLine) (f : CaptureFlag) (v : Bool) :
    (l.withFlag f v).flag f = v := by
  cases f <;> rfl

/-- Two lines have the same four error counters. -/
structure CaptureLine.SameCounts (l l' : CaptureLine) : Prop where
  framing : l'.framingCount = l.framingCount
  parity : l'.parityCount = l.parityCount
  overrun : l'.overrunCount = l.overrunCount
  underrun : l'.underrunCount = l.underrunCount

theorem CaptureLine.SameCounts.trans {l l' l'' : CaptureLine} (h : l.SameCounts l')
    (k : l'.SameCounts l'') : l.SameCounts l'' :=
  ⟨k.framing.trans h.framing, k.parity.trans h.parity, k.overrun.trans h.overrun,
    k.underrun.trans h.underrun⟩

theorem CaptureLine.sameCounts_withFlag (l : CaptureLine) (f : CaptureFlag) (v : Bool) :
    l.SameCounts (l.withFlag f v) := by
  cases f <;> exact ⟨rfl, rfl, rfl, rfl⟩

theorem CaptureLine.sameCounts_clear (l : CaptureLine) (bits : Nat) : l.SameCounts (l.clear bits) :=
  ⟨rfl, rfl, rfl, rfl⟩

theorem CaptureLine.SameCounts.countError {l l' : CaptureLine} (h : l.SameCounts l')
    (f : CaptureFlag) : (l.countError f).SameCounts (l'.countError f) := by
  obtain ⟨hf, hp, ho, hu⟩ := h
  cases f
  case framing => exact ⟨congrArg up hf, hp, ho, hu⟩
  case parity => exact ⟨hf, congrArg up hp, ho, hu⟩
  case overrun => exact ⟨hf, hp, congrArg up ho, hu⟩
  case underrun => exact ⟨hf, hp, ho, congrArg up hu⟩

/-! ### An error on a line of the state (R23) -/

theorem State.getElem?_captureLine {s : State} {k : Nat} (h : k < s.cfr.lines.length) :
    s.cfr.lines[k]? = some (s.captureLine k) := by
  simp [State.captureLine, h]

theorem State.captureLine_congr {s t : State} (h : t.cfr = s.cfr) (k : Nat) :
    t.captureLine k = s.captureLine k := by
  rw [State.captureLine, State.captureLine, h]

theorem State.captureLine_onLine {s : State} {k : Nat} (h : k < s.cfr.lines.length)
    (g : CaptureLine → CaptureLine) : (s.onLine k g).captureLine k = g (s.captureLine k) := by
  simp [State.captureLine, State.onLine, modifyAt_getElem?, h]

/-- An error changes the lines alone, apart from the raise of CAPTURE when its flag was clear. -/
theorem lineError_cfr (k : Nat) (f : CaptureFlag) (s : State) :
    (lineError k f s).cfr = (s.onLine k fun l => (l.countError f).withFlag f true).cfr := by
  unfold lineError
  split <;> rfl

theorem lineError_captureLine {s : State} {k : Nat} (h : k < s.cfr.lines.length) (f : CaptureFlag) :
    (lineError k f s).captureLine k = ((s.captureLine k).countError f).withFlag f true :=
  (State.captureLine_congr (lineError_cfr k f s) k).trans (State.captureLine_onLine h _)

theorem lineError_lines_length (k : Nat) (f : CaptureFlag) (s : State) :
    (lineError k f s).cfr.lines.length = s.cfr.lines.length := by
  rw [lineError_cfr]
  exact modifyAt_length _ _ _

/-- An error sets its flag. -/
theorem lineError_flag {s : State} {k : Nat} (h : k < s.cfr.lines.length) (f : CaptureFlag) :
    ((lineError k f s).captureLine k).flag f = true := by
  rw [lineError_captureLine h, CaptureLine.flag_withFlag]

/-- An error shows in its own counter. -/
theorem lineError_counted {s : State} {k : Nat} (h : k < s.cfr.lines.length) (f : CaptureFlag) :
    ((s.captureLine k).countError f).SameCounts ((lineError k f s).captureLine k) := by
  rw [lineError_captureLine h]
  exact CaptureLine.sameCounts_withFlag _ _ _

theorem lineError_csu_of_set {s : State} {k : Nat} {f : CaptureFlag}
    (h : (s.captureLine k).flag f = true) : (lineError k f s).csu = s.csu := by
  simp [lineError, h, State.onLine]

theorem lineError_csu_of_clear {s : State} {k : Nat} {f : CaptureFlag}
    (h : (s.captureLine k).flag f = false) :
    (lineError k f s).csu = s.csu.raise .capture (.capture k f) := by
  simp [lineError, h, State.onLine]

/-- An error leaves the console as ready for a command as it was. -/
theorem lineError_takesLines (k : Nat) (f : CaptureFlag) (s : State) :
    (lineError k f s).csu.takesLines = s.csu.takesLines := by
  cases h : (s.captureLine k).flag f
  case false => rw [lineError_csu_of_clear h]; rfl
  case true => rw [lineError_csu_of_set h]

/-! ### A console command that is taken or refused (R170) -/

/-- A command row whose refusal does not apply runs its effect from the state that counts it. -/
theorem commandRow_of_taken {refusal : State → Option RefusalCode} (effect : State → State) {s : State}
    (h : s.csu.takesLines = true) (hr : refusal (repliesSent (speak s)) = none) :
    commandRow refusal effect s = effect s.taken := by
  simp only [commandRow, command, h, hr, if_true]
  rfl

/-- A command row whose refusal applies is answered with it and does nothing else. -/
theorem commandRow_of_refused {refusal : State → Option RefusalCode} (effect : State → State)
    {s : State} {c : RefusalCode} (h : s.csu.takesLines = true)
    (hr : refusal (repliesSent (speak s)) = some c) :
    commandRow refusal effect s = s.turnedDown c := by
  simp only [commandRow, command, h, hr, if_true]
  rfl

/-! ### The clear (R24) -/

/-- The state after a CLEAR CAPTURE that is taken. -/
def State.captureCleared (m : Nat) (s : State) : State :=
  ({ s.taken with cfr := { s.cfr with lines := clearFlags m s.cfr.lines } }).replied .ok

theorem exec_clearCapture (m : Nat) (s : State) : exec (.clearCapture m) s =
    .next (commandRow (refuseMask 0xFFFF m) (clearCaptureEffect m) s) := by
  rfl

theorem exec_clearCapture_of_le {s : State} {m : Nat} (h : s.csu.takesLines = true)
    (hm : m ≤ 0xFFFF) : exec (.clearCapture m) s = .next (s.captureCleared m) := by
  have notRefused : refuseMask 0xFFFF m (repliesSent (speak s)) = none := if_neg (Nat.not_lt.2 hm)
  rw [exec_clearCapture, commandRow_of_taken _ h notRefused]
  rfl

theorem exec_clearCapture_of_gt {s : State} {m : Nat} (h : s.csu.takesLines = true)
    (hm : 0xFFFF < m) : exec (.clearCapture m) s = .next (s.turnedDown .arg) := by
  have refused : refuseMask 0xFFFF m (repliesSent (speak s)) = some .arg := if_pos hm
  rw [exec_clearCapture, commandRow_of_refused _ h refused]

theorem State.captureCleared_lines_length (m : Nat) (s : State) :
    (s.captureCleared m).cfr.lines.length = s.cfr.lines.length :=
  clearFlags_length _ _

theorem State.captureCleared_captureLine {s : State} {k : Nat} (h : k < s.cfr.lines.length) (m : Nat) :
    (s.captureCleared m).captureLine k = (s.captureLine k).clear (m / 16 ^ k % 16) := by
  have line : (s.captureCleared m).cfr.lines[k]? =
      some ((s.captureLine k).clear (m / 16 ^ k % 16)) := by
    rw [← Option.map_some, ← State.getElem?_captureLine h]
    exact clearFlags_getElem? _ _ _
  rw [State.captureLine, List.getD_eq_getElem?_getD, line, Option.getD_some]

/-- Each flag named in the mask is clear after the clear, each other one as it was. -/
theorem State.captureCleared_flag {s : State} {k : Nat} (h : k < s.cfr.lines.length) (m : Nat)
    (f : CaptureFlag) : ((s.captureCleared m).captureLine k).flag f =
      ((s.captureLine k).flag f && !m.testBit (4 * k + f.number)) := by
  rw [State.captureCleared_captureLine h, CaptureLine.clear_flag]

theorem State.captureCleared_sameCounts {s : State} {k : Nat} (h : k < s.cfr.lines.length) (m : Nat) :
    (s.captureLine k).SameCounts ((s.captureCleared m).captureLine k) := by
  rw [State.captureCleared_captureLine h]
  exact CaptureLine.sameCounts_clear _ _

/-! ### An error and the clear, in either order -/

/-- An error before the clear keeps its count through it, and its flag unless the mask names it. -/
theorem captureCleared_lineError {s : State} {k : Nat} (h : k < s.cfr.lines.length) (m : Nat)
    (f : CaptureFlag) :
    (((lineError k f s).captureCleared m).captureLine k).flag f = !m.testBit (4 * k + f.number) ∧
    ((s.captureLine k).countError f).SameCounts
      (((lineError k f s).captureCleared m).captureLine k) := by
  have h' : k < (lineError k f s).cfr.lines.length := by rwa [lineError_lines_length]
  constructor
  · rw [State.captureCleared_flag h', lineError_flag h, Bool.true_and]
  · exact (lineError_counted h f).trans (State.captureCleared_sameCounts h' m)

/-- An error after the clear sets its flag again and is counted, whatever the mask. -/
theorem lineError_captureCleared {s : State} {k : Nat} (h : k < s.cfr.lines.length) (m : Nat)
    (f : CaptureFlag) :
    ((lineError k f (s.captureCleared m)).captureLine k).flag f = true ∧
    ((s.captureLine k).countError f).SameCounts
      ((lineError k f (s.captureCleared m)).captureLine k) := by
  have h' : k < (s.captureCleared m).cfr.lines.length := by rwa [State.captureCleared_lines_length]
  exact ⟨lineError_flag h' f,
    ((State.captureCleared_sameCounts h m).countError f).trans (lineError_counted h' f)⟩

/-- The lines of the clear, one by one: the flags of the mask are cleared and no other field changes. -/
theorem clearFlags_line {ls : List CaptureLine} {k : Nat} {l : CaptureLine} (h : ls[k]? = some l)
    (m : Nat) : ∃ l', (clearFlags m ls)[k]? = some l' ∧
      (∀ f : CaptureFlag, l'.flag f = (l.flag f && !m.testBit (4 * k + f.number))) ∧
      l' = { l with
        framing := l'.framing, parity := l'.parity, overrun := l'.overrun, underrun := l'.underrun } :=
  ⟨l.clear (m / 16 ^ k % 16), by rw [clearFlags_getElem?, h, Option.map_some], l.clear_flag m k, rfl⟩

/-- Settles O12: a taken clear is `State.captureCleared`, and an error before or after it acts on one line. -/
theorem clearCaptureTaken : Obligations.ClearCaptureTaken := by
  refine ⟨by decide, fun s m takes => ⟨fun hm => ?effect, exec_clearCapture_of_gt takes,
    fun hm k f hk => ?errors⟩⟩
  case effect =>
    exact ⟨clearFlags m s.cfr.lines, exec_clearCapture_of_le takes hm, clearFlags_length _ _,
      fun _ _ h => clearFlags_line h m⟩
  case errors =>
    have clearNow : exec (.clearCapture m) s = .next (s.captureCleared m) :=
      exec_clearCapture_of_le takes hm
    have clearAfter : exec (.clearCapture m) (lineError k f s) =
        .next ((lineError k f s).captureCleared m) :=
      exec_clearCapture_of_le (lineError_takesLines k f s ▸ takes) hm
    obtain ⟨flagBefore, countBefore⟩ := captureCleared_lineError hk m f
    obtain ⟨flagAfter, ⟨hf, hp, ho, hu⟩⟩ := lineError_captureCleared hk m f
    obtain ⟨bf, bp, bo, bu⟩ := countBefore
    refine ⟨fun inMask => ⟨fun isSet => ?before, ?after⟩, fun outside => ?outside⟩
    case before =>
      exact ⟨lineError_csu_of_set isSet, _, clearAfter, by rw [flagBefore, inMask]; rfl, bf, bp, bo, bu⟩
    case after =>
      have cleared : ((s.captureCleared m).captureLine k).flag f = false := by
        rw [State.captureCleared_flag hk, inMask, Bool.not_true, Bool.and_false]
      exact ⟨_, clearNow, flagAfter, ⟨hf, hp, ho, hu⟩, lineError_csu_of_clear cleared⟩
    case outside =>
      exact ⟨lineError_flag hk f, ⟨_, clearAfter, by rw [flagBefore, outside]; rfl, bf, bp, bo, bu⟩,
        _, clearNow, flagAfter⟩

end Sys2Proof.Machine
end

section
/-! The filter window (R70 to R72): which sequences are marked after it has advanced, said once as an
equivalence, and then O36, each clause of which is a reading of it. -/

namespace Sys2Proof.Machine

/-! ### The wrapping order (spec/00 section 5.2) -/

theorem newer_iff (a b : Word) :
    newer a b = true ↔ 1 ≤ (a - b).toNat ∧ (a - b).toNat < 2 ^ 31 := by
  simp [newer]

theorem newer_asymm {a b : Word} (h : newer a b = true) : newer b a = false := by
  rw [newer_iff] at h
  rw [Bool.eq_false_iff, ne_eq, newer_iff]
  bv_omega

/-- Distances add up along the wrapping order, as long as their sum does not wrap. -/
theorem toNat_sub_eq_add {a b c : Word} (h : (a - b).toNat + (b - c).toNat < 2 ^ 32) :
    (a - c).toNat = (a - b).toNat + (b - c).toNat := by
  bv_omega

/-- The rest of a distance, behind a word that stands on the way. -/
theorem toNat_sub_eq_sub {a b c : Word} (h : (a - b).toNat ≤ (a - c).toNat) :
    (b - c).toNat = (a - c).toNat - (a - b).toNat := by
  bv_omega

/-! ### The filter's decision (Table 5-3) -/

theorem filterSequence_of_newer {e : FilterEntry} {n : Word} (h : newer n e.top = true) :
    filterSequence e n = .accepted (e.advance n) :=
  if_pos h

theorem filterSequence_of_old {e : FilterEntry} {x : Word} (h : newer x e.top = false)
    (old : 64 ≤ (e.top - x).toNat) : filterSequence e x = .stale := by
  rw [filterSequence, h]
  exact if_neg (Nat.not_lt.2 old)

/-! ### The window after an advance (R72) -/

/-- A sequence is marked seen: it lies within the window of 64 below the top and its bit is set (R70). -/
def FilterEntry.Marked (e : FilterEntry) (x : Word) : Prop :=
  (e.top - x).toNat < 64 ∧ e.seen.getLsbD (e.top - x).toNat = true

@[simp] theorem FilterEntry.advance_top (e : FilterEntry) (n : Word) : (e.advance n).top = n := rfl

@[simp] theorem FilterEntry.advance_incarnation (e : FilterEntry) (n : Word) :
    (e.advance n).incarnation = e.incarnation := rfl

theorem FilterEntry.advance_seen_of_near {e : FilterEntry} {n : Word}
    (near : (n - e.top).toNat < 64) : (e.advance n).seen = e.seen <<< (n - e.top).toNat ||| 1#64 :=
  if_pos near

theorem FilterEntry.advance_seen_of_far {e : FilterEntry} {n : Word}
    (far : 64 ≤ (n - e.top).toNat) : (e.advance n).seen = 1#64 :=
  if_neg (Nat.not_lt.2 far)

/-- The seen map moves up by the advance, and the new top is marked. -/
theorem FilterEntry.advance_seen_getLsbD_iff (e : FilterEntry) (n : Word) {i : Nat} (hi : i < 64) :
    (e.advance n).seen.getLsbD i = true ↔
      i = 0 ∨ ((n - e.top).toNat ≤ i ∧ e.seen.getLsbD (i - (n - e.top).toNat) = true) := by
  have bitOfTop : (1#64).getLsbD i = decide (i = 0) := by simp [BitVec.getLsbD_one]
  obtain near | far := Nat.lt_or_ge (n - e.top).toNat 64
  · rw [advance_seen_of_near near, BitVec.getLsbD_or, BitVec.getLsbD_shiftLeft, bitOfTop]
    generalize (n - e.top).toNat = d
    simp [hi, or_comm]
  · have notReached : ¬ (n - e.top).toNat ≤ i := by omega
    rw [advance_seen_of_far far, bitOfTop, decide_eq_true_eq]
    exact (or_iff_left fun ⟨reached, _⟩ => notReached reached).symm

/-- A sequence marked before stands farther below the new top, by the advance. -/
theorem FilterEntry.Marked.toNat_sub {e : FilterEntry} {n x : Word} (m : e.Marked x)
    (h : newer n e.top = true) : (n - x).toNat = (n - e.top).toNat + (e.top - x).toNat := by
  obtain ⟨_, short⟩ := (newer_iff _ _).1 h
  obtain ⟨within, _⟩ := m
  exact toNat_sub_eq_add (by omega)

/-- After the advance the new top is marked, and each sequence marked before that is still in the window. -/
theorem FilterEntry.advance_marked_iff {e : FilterEntry} {n : Word} (h : newer n e.top = true)
    (x : Word) : (e.advance n).Marked x ↔ x = n ∨ (e.Marked x ∧ (n - x).toNat < 64) := by
  rw [Marked, advance_top]
  constructor
  case mp =>
    rintro ⟨within, bit⟩
    obtain isTop | ⟨reached, bit⟩ := (advance_seen_getLsbD_iff e n within).1 bit
    · exact .inl (by bv_omega)
    · have before := toNat_sub_eq_sub reached
      rw [← before] at bit
      exact .inr ⟨⟨by omega, bit⟩, within⟩
  case mpr =>
    rintro (rfl | ⟨m, within⟩)
    · have atTop : (x - x).toNat = 0 := by simp
      rw [atTop]
      exact ⟨by decide, (advance_seen_getLsbD_iff e x (by decide)).2 (.inl rfl)⟩
    · have reached : (n - e.top).toNat ≤ (n - x).toNat := m.toNat_sub h ▸ Nat.le_add_right _ _
      obtain ⟨_, bit⟩ := m
      rw [toNat_sub_eq_sub reached] at bit
      exact ⟨within, (advance_seen_getLsbD_iff e n within).2 (.inr ⟨reached, bit⟩)⟩

/-- A sequence newer than the top is not marked. -/
theorem FilterEntry.not_marked_of_newer {e : FilterEntry} {x : Word} (h : newer x e.top = true) :
    ¬ e.Marked x := by
  rintro ⟨within, _⟩
  rw [newer_iff] at h
  bv_omega

/-- The sequences between the old top and the new one are unseen. -/
theorem FilterEntry.advance_not_marked_between {e : FilterEntry} {n x : Word}
    (h : newer n e.top = true) (above : 1 ≤ (x - e.top).toNat)
    (below : (x - e.top).toNat < (n - e.top).toNat) : ¬ (e.advance n).Marked x := by
  obtain ⟨_, short⟩ := (newer_iff _ _).1 h
  rw [advance_marked_iff h]
  rintro (rfl | ⟨m, _⟩)
  · exact Nat.lt_irrefl _ below
  · exact not_marked_of_newer ((newer_iff _ _).2 ⟨above, Nat.lt_trans below short⟩) m

/-- An advance of 64 or more forgets every sequence but the new top. -/
theorem FilterEntry.advance_marked_of_far {e : FilterEntry} {n x : Word} (h : newer n e.top = true)
    (far : 64 ≤ (n - e.top).toNat) (m : (e.advance n).Marked x) : x = n := by
  obtain rfl | ⟨before, within⟩ := (advance_marked_iff h x).1 m
  · rfl
  · rw [before.toNat_sub h] at within
    omega

/-- Settles O36: each clause about the marked sequences is read off `FilterEntry.advance_marked_iff`. -/
theorem windowAdvances : Obligations.WindowAdvances := by
  intro e n h
  obtain ⟨positive, short⟩ := (newer_iff _ _).1 h
  have marks := FilterEntry.advance_marked_iff h
  refine ⟨positive, Nat.le_sub_one_of_lt short, e.advance n, filterSequence_of_newer h,
    e.advance_incarnation n, e.advance_top n, (marks n).2 (.inl rfl),
    ?kept, ?noneAdded, ?forgotten, ?between, ?far, ?stale⟩
  case kept => exact fun x m within => (marks x).2 (.inr ⟨m, within⟩)
  case noneAdded => exact fun x m => ((marks x).1 m).imp_right And.left
  case forgotten => exact fun x old m => Nat.not_lt.2 old m.1
  case between => exact fun x above below => FilterEntry.advance_not_marked_between h above below
  case far => exact fun far x m => FilterEntry.advance_marked_of_far h far m
  case stale => exact fun x older old => filterSequence_of_old (newer_asymm older) old

end Sys2Proof.Machine
end

section
/-! The aging of the roster (R102): which marks take a boundary, which index it is presented with, and what
the roster is after it; and then O45. -/

namespace Sys2Proof.Machine

/-! ### Marks that take a boundary (R1, Table 1-2) -/

/-- A mark takes a boundary: it continues the run, in LOCKED or where the run reaches the lock. -/
def State.MarksBoundary (s : State) (count : Word) (spacing : Nat) : Prop :=
  (s.tlu.ref = .locked ∨ (s.tlu.ref = .acquiring ∧ 3 ≤ s.tlu.run + 1)) ∧
    spacing = s.rate.samples ∧ s.tlu.lastMark.map (· + 1) = some count

theorem State.continuesRun_iff {s : State} {count : Word} {spacing : Nat} :
    s.continuesRun count spacing = true ↔
      spacing = s.rate.samples ∧ s.tlu.lastMark.map (· + 1) = some count := by
  simp [State.continuesRun]

theorem takeMark_of_boundary {s : State} {count : Word} {spacing : Nat}
    (h : s.MarksBoundary count spacing) : takeMark count spacing s =
      takeBoundary count (s.onTlu (Tlu.mark count s.lossDue .locked (s.tlu.run + 1))) := by
  obtain ⟨locks, run⟩ := h
  have continues := State.continuesRun_iff.2 run
  obtain locked | ⟨acquiring, enough⟩ := locks
  · simp [takeMark, locked, continues]
  · simp [takeMark, acquiring, continues, enough]

/-- A mark that takes no boundary leaves the roster. -/
theorem takeMark_rst_of_not_boundary {s : State} {count : Word} {spacing : Nat}
    (h : ¬ s.MarksBoundary count spacing) : (takeMark count spacing s).rst = s.rst := by
  unfold takeMark
  dsimp only
  split
  case h_1 => rfl
  case h_2 => rfl
  case h_3 acquiring =>
    split
    case isTrue continues =>
      have short : ¬ 3 ≤ s.tlu.run + 1 := fun enough =>
        h ⟨.inr ⟨acquiring, enough⟩, State.continuesRun_iff.1 continues⟩
      rw [if_neg short]
      rfl
    case isFalse => rfl
  case h_4 locked =>
    have broken : ¬ s.continuesRun count spacing = true := fun continues =>
      h ⟨.inl locked, State.continuesRun_iff.1 continues⟩
    rw [if_neg broken]
    exact (leaveLocked_foot _ _ _).rst (by decide)

/-! ### The index of a boundary (R3, R5) -/

theorem Tlu.isVoid_iff (t : Tlu) (n : Index) : t.isVoid n = true ↔
    (t.station = .running ∨ t.station = .ending) ∧ ∃ h, t.high = some h ∧ n.toInt ≤ h.toInt := by
  cases high : t.high <;> simp [Tlu.isVoid, indexLe, high]

theorem Tlu.presents_of_not_void {t : Tlu} {e : Epoch} {count : Word} (epoch : t.epoch = some e)
    (h : ¬ t.isVoid (count - e.base) = true) : t.presents count = some (count - e.base) := by
  simp [Tlu.presents, Tlu.indexAt, epoch, h]

theorem Tlu.presents_eq_none {t : Tlu} {count : Word}
    (h : ∀ e, t.epoch = some e → t.isVoid (count - e.base) = true) : t.presents count = none := by
  cases epoch : t.epoch with
  | none => simp [Tlu.presents, Tlu.indexAt, epoch]
  | some e => simp [Tlu.presents, Tlu.indexAt, epoch, h e epoch]

/-- The index last coded has no part in the index of a boundary. -/
theorem finishBatch_presents (count : Word) (s : State) :
    (finishBatch s).tlu.presents count = s.tlu.presents count := by
  obtain ⟨i, tlu⟩ := finishBatch_tlu s
  rw [tlu]
  rfl

/-! ### The aging (R102) -/

/-- The roster aged at an index. -/
def Rst.aged (n : Index) (age : Nat) (r : Rst) : Rst :=
  { r with
    entries := r.entries.filter fun e => !agedAt n age e.claim
    counts := { r.counts with
      rosterAged := upBy r.counts.rosterAged (r.entries.filter fun e => agedAt n age e.claim).length } }

theorem ageAt_some_rst (n : Index) (s : State) :
    (ageAt (some n) s).rst = if s.armedOnward then s.rst.aged n s.rosterAge else s.rst := by
  simp only [ageAt, ageRoster]
  split <;> rfl

theorem ageAt_rst_of_not_armed {s : State} (h : s.armedOnward = false) (p : Option Index) :
    (ageAt p s).rst = s.rst := by
  cases p with
  | none => rfl
  | some n => rw [ageAt_some_rst, h]; rfl

/-- The aging reads the roster, the configuration and whether the station is armed, and nothing else. -/
theorem ageAt_rst_congr {s t : State} (rst : t.rst = s.rst) (config : t.csu.config = s.csu.config)
    (armed : t.armedOnward = s.armedOnward) (p : Option Index) : (ageAt p t).rst = (ageAt p s).rst := by
  cases p with
  | none => exact rst
  | some n => rw [ageAt_some_rst, ageAt_some_rst, rst, armed, State.rosterAge, State.rosterAge, config]

/-! ### The roster after a boundary and after a mark -/

/-- A boundary keeps whether the station is ARMED or later: it can only turn ARMED into RUNNING (R9). -/
theorem armedOnward_atBoundary {s t : State} {count : Word} {i : Option Index}
    (h : t.tlu = { s.tlu.atBoundary count with codedIndex := i }) : t.armedOnward = s.armedOnward := by
  have station : t.tlu.station = if s.tlu.entersAt count then .running else s.tlu.station := by
    rw [h]; rfl
  unfold State.armedOnward
  rw [station]
  cases enters : s.tlu.entersAt count with
  | false => rfl
  | true =>
    have armed : s.tlu.station = .armed := by
      simp only [Tlu.entersAt, Bool.and_eq_true, beq_iff_eq] at enters
      exact enters.1
    rw [armed]
    rfl

/-- What a boundary does before the roster ages, in the order of log 10. -/
def beforeAging (count : Word) (s : State) : State :=
  let p := s.tlu.presents count
  openPeriod p (closePeriod p (gradeAt p ((finishBatch s).tlu.entersAt count)
    (tluBoundary count (finishBatch s))))

theorem beforeAging_foot (count : Word) (s : State) :
    Foot [.sgc, .ports, .dlu, .aou, .ksp, .kou, .attn, .tlu, .cfr] s (beforeAging count s) :=
  ((((finishBatch_foot _).grow.seq (tluBoundary_foot _ _).grow).seq (gradeAt_foot _ _ _).grow).seq
    (closePeriod_foot _ _).grow).seq (openPeriod_foot _ _).grow

/-- After the aging a boundary reaches the Air Outlet and the attentions it raises, and nothing else. -/
theorem takeBoundary_foot_aging (count : Word) (s : State) : Foot [.aou, .attn]
    (ageAt (s.tlu.presents count) (beforeAging count s)) (takeBoundary count s) := by
  unfold takeBoundary beforeAging
  dsimp only
  rw [finishBatch_presents]
  exact ((driverAt_foot _ _).grow.seq (slotAt_foot _ _ _)).seq (feedSettle_foot _).grow

theorem beforeAging_armedOnward (count : Word) (s : State) :
    (beforeAging count s).armedOnward = s.armedOnward := by
  obtain ⟨i, tlu⟩ := takeBoundary_tlu count s
  rw [(takeBoundary_foot_aging count s).tlu (by decide), (ageAt_foot _ _).tlu (by decide)] at tlu
  exact armedOnward_atBoundary tlu

/-- Of all that a boundary does, the aging alone reaches the roster. -/
theorem takeBoundary_rst (count : Word) (s : State) :
    (takeBoundary count s).rst = (ageAt (s.tlu.presents count) s).rst := by
  have before := beforeAging_foot count s
  rw [(takeBoundary_foot_aging count s).rst (by decide)]
  exact ageAt_rst_congr (before.rst (by decide)) (before.config (by decide))
    (beforeAging_armedOnward count s) _

theorem markTaken_rst_of_boundary {s : State} {count : Word} {spacing : Nat}
    (h : s.MarksBoundary count spacing) :
    (markTaken count spacing s).rst = (ageAt (s.tlu.presents count) s).rst := by
  unfold markTaken
  split
  case isTrue unconfigured =>
    have notArmed : s.armedOnward = false := by
      rw [State.armedOnward, eq_of_beq unconfigured]
    exact (ageAt_rst_of_not_armed notArmed _).symm
  case isFalse =>
    rw [(settle_foot _).rst (by decide), takeMark_of_boundary h, takeBoundary_rst]
    refine ageAt_rst_congr ?_ ?_ ?_ (s.tlu.presents count) <;> rfl

theorem markTaken_rst_of_not_boundary {s : State} {count : Word} {spacing : Nat}
    (h : ¬ s.MarksBoundary count spacing) : (markTaken count spacing s).rst = s.rst := by
  unfold markTaken
  split
  · rfl
  · rw [(settle_foot _).rst (by decide), takeMark_rst_of_not_boundary h]

/-! ### The counts of the origins (R96) -/

/-- The entries that a test leaves and those it removes are together all those of each origin. -/
theorem learnedCount_filter_add (st : Nat) (p : RosterEntry → Bool) (es : List RosterEntry) :
    learnedCount st (es.filter fun e => !p e) + learnedCount st (es.filter p) = learnedCount st es := by
  simp only [learnedCount, ← List.countP_eq_length_filter]
  rw [Nat.add_comm]
  exact (List.countP_eq_countP_filter_add es _ p).symm

/-- Settles O45: a mark changes the roster as `ageAt` does at a boundary, and not at all elsewhere. -/
theorem rosterAges : Obligations.RosterAges := by
  intro s count spacing boundary void
  have void_iff (n : Index) : s.tlu.isVoid n = true ↔ void n := s.tlu.isVoid_iff n
  refine ⟨markTaken count spacing s, rfl, ?ages, ?keeps⟩
  case ages =>
    intro c e config armed epoch atBoundary n notVoid stale
    have stale_eq : stale = fun x => agedAt n c.age x.claim := by
      funext x
      obtain ⟨track, claim⟩ := x
      cases claim <;> rfl
    have presented : s.tlu.presents count = some n :=
      Tlu.presents_of_not_void epoch (mt (void_iff n).1 notVoid)
    have age : s.rosterAge = c.age := by rw [State.rosterAge, config]; rfl
    have aged : (markTaken count spacing s).rst = s.rst.aged n c.age := by
      rw [markTaken_rst_of_boundary atBoundary, presented, ageAt_some_rst, armed, age]
      rfl
    rw [aged, stale_eq]
    exact ⟨rfl, rfl, fun st => learnedCount_filter_add st _ _⟩
  case keeps =>
    intro excluded
    by_cases atBoundary : s.MarksBoundary count spacing
    case neg => exact markTaken_rst_of_not_boundary atBoundary
    rw [markTaken_rst_of_boundary atBoundary]
    obtain noBoundary | notArmed | noIndex := excluded
    · exact absurd atBoundary noBoundary
    · exact ageAt_rst_of_not_armed notArmed _
    · rw [Tlu.presents_eq_none fun e epoch => (void_iff _).2 (noIndex e epoch)]
      rfl

end Sys2Proof.Machine
end

section
/-! Every step keeps the law of the spool (R150, R156): the operations that reach the spool keep it by
their own lemmas, and what reaches only other parts of the state leaves the spool as it was; then O55. -/

namespace Sys2Proof.Machine

/-- What does not reach the spool keeps its law. -/
theorem Foot.spoolLaw {ps : List Part} {s t : State} (f : Foot ps s t) (h : s.ksp.Law)
    (n : Part.ksp ∉ ps := by decide) : t.ksp.Law :=
  f.ksp n ▸ h

/-! ### The operations that reach the spool -/

theorem settle_spoolLaw (s : State) (h : s.ksp.Law) : (settle s).ksp.Law :=
  (settle_ksp s).1 h

theorem makeKeep_law (g : Segment) (s : State) (h : s.ksp.Law) : (makeKeep g s).ksp.Law := by
  unfold makeKeep
  split
  · exact appendKeep_law _ _ h
  · exact h

theorem codeSegment_law (s : State) (h : s.ksp.Law) : (codeSegment s).ksp.Law := by
  unfold codeSegment
  split
  · exact h
  · split
    · exact (completeBatch_foot _ _).spoolLaw h
    · exact (continueBatch_foot _ _ _).spoolLaw
        (drain_law _ (makeKeep_law _ _ ((makeAir_foot _ _ _).spoolLaw h)))

theorem codeSegments_law (n : Nat) (s : State) (h : s.ksp.Law) : (codeSegments n s).ksp.Law := by
  induction n generalizing s with
  | zero => exact h
  | succ n ih => exact ih _ (codeSegment_law s h)

theorem finishBatch_law (s : State) (h : s.ksp.Law) : (finishBatch s).ksp.Law := by
  unfold finishBatch
  split
  · exact h
  · exact codeSegments_law _ s h

/-- A boundary reaches the spool by the batch it finishes, and not otherwise. -/
theorem takeBoundary_spool (count : Word) (s : State) :
    (takeBoundary count s).ksp = (finishBatch s).ksp := by
  unfold takeBoundary
  dsimp only
  rw [(feedSettle_foot _).ksp (by decide), (slotAt_foot _ _ _).ksp (by decide),
    (driverAt_foot _ _).ksp (by decide), (ageAt_foot _ _).ksp (by decide),
    (openPeriod_foot _ _).ksp (by decide), (closePeriod_foot _ _).ksp (by decide),
    (gradeAt_foot _ _ _).ksp (by decide), (tluBoundary_foot _ _).ksp (by decide)]

theorem takeBoundary_law (count : Word) (s : State) (h : s.ksp.Law) :
    (takeBoundary count s).ksp.Law :=
  takeBoundary_spool count s ▸ finishBatch_law s h

theorem takeMark_law (count : Word) (spacing : Nat) (s : State) (h : s.ksp.Law) :
    (takeMark count spacing s).ksp.Law := by
  unfold takeMark
  dsimp only
  split
  · exact h
  · exact h
  · split
    · split
      · exact takeBoundary_law _ _ h
      · exact h
    · exact h
  · split
    · exact takeBoundary_law _ _ h
    · exact (leaveLocked_foot _ _ _).spoolLaw h

theorem markTaken_law (count : Word) (spacing : Nat) (s : State) (h : s.ksp.Law) :
    (markTaken count spacing s).ksp.Law := by
  unfold markTaken
  split
  · exact h
  · exact settle_spoolLaw _ (takeMark_law _ _ s h)

theorem lossTimerExpires_law (s : State) (h : s.ksp.Law) : (lossTimerExpires s).ksp.Law := by
  unfold lossTimerExpires
  split
  · exact h
  · exact settle_spoolLaw _ ((loseReference_foot _).spoolLaw h)

theorem beaconTaken_law (r : RingHeader) (b : BeaconBody) (s : State) (h : s.ksp.Law) :
    (beaconTaken r b s).ksp.Law := by
  unfold beaconTaken
  split
  · exact h
  · have judged := fun st => (handBase_foot b st r.origin r.incarnation _).spoolLaw
      ((mergeItems_foot 0 b.items _).spoolLaw
        ((peerTaken_foot r.origin (b.peer st r.incarnation s.now) s).spoolLaw h))
    dsimp only
    split
    · exact recomputeFree_law _ (judged _)
    · exact judged _

theorem deliver_law (k : RingKind) (own : Bool) (bs : Bytes) (s : State) (h : s.ksp.Law) :
    (deliver k own bs s).ksp.Law := by
  unfold deliver
  split
  case isFalse => exact h
  case isTrue =>
    unfold toBlock
    dsimp only
    cases k with
    | start => exact (startTaken_foot _ _ _).spoolLaw h
    | endFrame => exact (endTaken_foot _ _ _).spoolLaw h
    | cue => exact (cueTaken_foot _ _ _).spoolLaw h
    | beacon =>
      dsimp only
      split
      · exact h
      · exact beaconTaken_law _ _ _ h
    | air =>
      dsimp only
      split
      · exact (takeArrival_foot _ _).spoolLaw h
      · exact (rosterAir_foot _ _ _).spoolLaw h
    | keep => exact takeKeep_law _ _ _ _ _ h

theorem firstCopy_law (p : PortId) (k : RingKind) (bs : Bytes) (e : FilterEntry) (s : State)
    (h : s.ksp.Law) : (firstCopy p k bs e s).ksp.Law :=
  deliver_law _ _ _ _ ((relay_foot _ _ _ _).spoolLaw ((setFilter_foot _ _ _).spoolLaw h))

theorem otherOrigin_law (p : PortId) (k : RingKind) (bs : Bytes) (s : State) (h : s.ksp.Law) :
    (otherOrigin p k bs s).ksp.Law := by
  unfold otherOrigin
  split
  · exact firstCopy_law _ _ _ _ _ h
  · exact firstCopy_law _ _ _ _ _ h
  · exact h
  · exact h

theorem admission_law (p : PortId) (bs : Bytes) (s : State) (h : s.ksp.Law) :
    (admission p bs s).ksp.Law := by
  unfold admission
  split
  · exact h
  · exact h
  · exact h
  · split
    · exact (unknownKind_foot _ _).spoolLaw h
    · split
      · exact h
      · split
        · exact h
        · unfold admitted
          split
          · exact h
          · split
            · exact h
            · split
              · exact (ownOrigin_foot _ _ _).spoolLaw h
              · exact otherOrigin_law _ _ _ _ h

theorem receiveFrame_law (p : PortId) (bs : Bytes) (s : State) (h : s.ksp.Law) :
    (receiveFrame p bs s).ksp.Law := by
  unfold receiveFrame
  split
  · exact h
  · split
    · exact h
    · split
      · exact h
      · split
        · exact (receiveHello_foot _ _ _).spoolLaw h
        · split
          · exact (holdTaken_foot _ _ _).spoolLaw h
          · exact admission_law _ _ _ h

theorem peerTimerExpires_law (st : Nat) (s : State) (h : s.ksp.Law) :
    (peerTimerExpires st s).ksp.Law := by
  unfold peerTimerExpires losePeer
  split
  · exact h
  · dsimp only
    split
    · exact recomputeFree_law _ h
    · exact h

theorem resendExpires_law (s : State) (h : s.ksp.Law) : (resendExpires s).ksp.Law := by
  unfold resendExpires
  split
  · exact h
  · exact goBack_law _ h

theorem recordSent_law (r : ArchiveRecord) (s : State) (h : s.ksp.Law) :
    (recordSent r s).ksp.Law := by
  unfold recordSent
  split
  · exact h
  · split
    · exact h
    · split
      · exact tellOwnSpool_law _ _ _ h
      · exact h

theorem archiveRecordSent_law (s : State) (h : s.ksp.Law) : (archiveRecordSent s).ksp.Law := by
  unfold archiveRecordSent
  split
  · exact h
  · exact (archiveSettle_foot _).spoolLaw (recordSent_law _ _ h)

theorem armEffect_spoolLaw (s : State) : (armEffect s).ksp.Law := by
  unfold armEffect answerOk
  exact (sendReply_foot _ _).spoolLaw ((sendBeacon_foot _).spoolLaw
    ((enableLanes_foot _).spoolLaw ((fillRoster_foot _).spoolLaw (atArm_law s.ksp))))

theorem endEffect_spoolLaw (s : State) (h : s.ksp.Law) : (endEffect s).ksp.Law := by
  unfold endEffect answerOk
  exact (sendReply_foot _ _).spoolLaw (settle_spoolLaw _
    ((originate_foot .endFrame _ _).spoolLaw ((enterEnding_foot _ _).spoolLaw h)))

theorem cutEffect_spoolLaw (s : State) (h : s.ksp.Law) : (cutEffect s).ksp.Law := by
  unfold cutEffect answerOk
  exact (sendReply_foot _ _).spoolLaw (settle_spoolLaw _ ((cutTrigger_foot _ _ _).spoolLaw h))

theorem uncutEffect_spoolLaw (s : State) (h : s.ksp.Law) : (uncutEffect s).ksp.Law := by
  unfold uncutEffect answerOk
  refine (sendReply_foot _ _).spoolLaw ?_
  dsimp only
  split
  · exact settle_spoolLaw _ ((leaveCut_foot s).spoolLaw h)
  · exact h

/-- The effect of a console command keeps the law: ARM empties the spool, and END, CUT and UNCUT end with
the tests of the drain. -/
theorem effectOf_spoolLaw (c : Instr) (s : State) (h : s.ksp.Law) : (effectOf c s).ksp.Law := by
  cases c
  case arm => exact armEffect_spoolLaw s
  case go => exact (goEffect_foot s).spoolLaw h
  case endPerformance => exact endEffect_spoolLaw s h
  case cue item v => exact (cueEffect_foot item v s).spoolLaw h
  case cut => exact cutEffect_spoolLaw s h
  case uncut => exact uncutEffect_spoolLaw s h
  case watch item => exact (watchEffect_foot item s).spoolLaw h
  case clearCounts => exact ⟨h.order, h.room, h.held, h.numbered, h.timer⟩
  all_goals exact h

theorem keeps_spoolLaw : Keeps fun s => s.ksp.Law where
  queue _ _ h := h
  idle _ h := h
  reset c s _ := atArm_law {}
  spoken _ h := h
  sent _ h := h
  counted _ _ h := h
  refused _ _ h := h
  taken _ h := h
  effect c s _ _ h := effectOf_spoolLaw c s h
  character c s h := (completeCharacter_foot c s).spoolLaw h
  holding s h := (takeHolding_foot s).spoolLaw h
  unheld _ h := h
  breaks s h := (breakEffect_foot s).spoolLaw h
  binary s h := (beginBinary_foot s).spoolLaw h
  timeout s h := (loadTimeout_foot s).spoolLaw h
  repeats s h := (repeatWatch_foot s).spoolLaw h
  reported s h := (reportDone_foot s).spoolLaw h
  mark c n s h := markTaken_law c n s h
  loss s h := lossTimerExpires_law s h
  bits k b s h := (lineBits_foot k b s).spoolLaw h
  stop k s h := (clockStops_foot k s).spoolLaw h
  take s h := (takeAll_foot s).spoolLaw h
  coded s h := settle_spoolLaw _ (codeSegment_law s h)
  hello s h := (helloDue_foot s).spoolLaw h
  appear p s h := (carrierAppears_foot p s).spoolLaw h
  carrier p s h := settle_spoolLaw _ ((carrierLost_foot p s).spoolLaw h)
  silence p s h := settle_spoolLaw _ ((silenceExpires_foot p s).spoolLaw h)
  receive p bs s h := settle_spoolLaw _ (receiveFrame_law p bs s h)
  hold p s h := settle_spoolLaw _ ((holdExpires_foot p s).spoolLaw h)
  refresh p s h := (refreshExpires_foot p s).spoolLaw h
  sentFrame p s h := settle_spoolLaw _ ((frameSent_foot p s).spoolLaw h)
  beacon s h := (beaconDue_foot s).spoolLaw h
  peer st s h := settle_spoolLaw _ (peerTimerExpires_law st s h)
  deadline n s h := settle_spoolLaw _ ((deadlineExpires_foot n s).spoolLaw h)
  record s h := settle_spoolLaw _ ((feedRecordSent_foot s).spoolLaw h)
  ready s h := (programReady_foot s).spoolLaw h
  notReady _ h := h
  drainTimer s h := settle_spoolLaw _ ((drainTimerExpires_foot s).spoolLaw h)
  resend s h := settle_spoolLaw _ (resendExpires_law s h)
  archived s h := settle_spoolLaw _ (archiveRecordSent_law s h)
  archive s h := settle_spoolLaw _ ((archiveReady_foot s).spoolLaw h)
  noArchive _ h := h

/-- Settles O55: the spool law is kept by each event and each taken command (`keeps_spoolLaw`). -/
theorem spoolLawKept : Obligations.SpoolLawKept :=
  fun s t h e => keeps_spoolLaw.step s t h e

end Sys2Proof.Machine
end

section
/-! How a law of the state is shown to be kept by a command, and by every step: it is enough to look at the
single operations of each block. `BlockOps P` lists them, block by block; what combines them (a delivery,
an origination, the drain, the coding of a batch, a mark, a console line) is followed through here once, for
any law `P`; `CommandOps c P` adds what a command `c` may do to several blocks, and `Ops P` what any may. A law that does not read the blocks an operation changes keeps through it by its footprint. -/

namespace Sys2Proof.Machine

/-- A law that reads none of the parts of a list. -/
def Frames (ps : List Part) (P : State → Prop) : Prop := ∀ s t, Foot ps s t → P s → P t

theorem Frames.of {ps : List Part} {P : State → Prop} (f : Frames ps P) {s t : State} (g : Foot ps s t)
    (h : P s) : P t :=
  f s t g h

theorem Frames.mono {ps qs : List Part} {P : State → Prop} (f : Frames qs P)
    (h : ∀ x ∈ ps, x ∈ qs := by decide) : Frames ps P :=
  fun s t g => f s t (g.grow h)

/-- A ring sequence may be issued: the station is armed, has a batch to code or a BEACON to send. -/
def State.mayIssue (s : State) : Prop :=
  s.armedOnward = true ∨ s.sgc.batch.isSome = true ∨ s.pcu.beaconAt.isSome = true

theorem State.armedOnward_of_performing {s : State} (h : s.performing = true) :
    s.armedOnward = true := by
  simp only [State.performing, Bool.or_eq_true, beq_iff_eq] at h
  obtain running | ending := h
  · rw [State.armedOnward, running]
  · rw [State.armedOnward, ending]

theorem State.performing_of_drainBlock {s : State} (h : s.drainBlock = none) :
    s.performing = true := by
  refine Classical.byContradiction fun idle => ?_
  rw [State.drainBlock, Bool.eq_false_iff.2 idle] at h
  exact nomatch h

theorem Foot.mayIssue {ps : List Part} {s t : State} (f : Foot ps s t) (h : s.mayIssue)
    (a : Part.tlu ∉ ps := by decide) (b : Part.sgc ∉ ps := by decide)
    (c : Part.pcu ∉ ps := by decide) : t.mayIssue := by
  rw [State.mayIssue, State.armedOnward, f.tlu a, f.sgc b, f.pcu c]
  exact h

/-! ### The operations, block by block -/

/-- The law is kept by the ports. -/
structure PortOps (P : State → Prop) : Prop where
  countPort : ∀ p f s, P s → P (s.countPort p f)
  offer : ∀ p lane f s, P s → P (offerFrame p lane f s)
  helloTaken : ∀ p h s, P s → P (helloTaken p h s)
  holdTaken : ∀ p bs s, P s → P (holdTaken p bs s)
  helloDue : ∀ s, P s → P (helloDue s)
  appears : ∀ p s, P s → P (carrierAppears p s)
  lost : ∀ p s, P s → P (carrierLost p s)
  silent : ∀ p s, P s → P (silenceExpires p s)
  holdExpires : ∀ p s, P s → P (holdExpires p s)
  refresh : ∀ p s, P s → P (refreshExpires p s)
  sentFrame : ∀ p s, P s → P (frameSent p s)

theorem PortOps.of_frames {P : State → Prop} (f : Frames [.now, .ports, .link, .attn] P) :
    PortOps P where
  countPort _ _ _ := f _ _ (State.countPort_foot _ _ _).grow
  offer _ _ _ _ := f _ _ (offerFrame_foot _ _ _ _).grow
  helloTaken _ _ _ := f _ _ (helloTaken_foot _ _ _).grow
  holdTaken _ _ _ := f _ _ (holdTaken_foot _ _ _).grow
  helloDue _ := f _ _ (helloDue_foot _).grow
  appears _ _ := f _ _ (carrierAppears_foot _ _).grow
  lost _ _ := f _ _ (carrierLost_foot _ _).grow
  silent _ _ := f _ _ (silenceExpires_foot _ _).grow
  holdExpires _ _ := f _ _ (holdExpires_foot _ _).grow
  refresh _ _ := f _ _ (refreshExpires_foot _ _).grow
  sentFrame _ _ := f _ _ (frameSent_foot _ _).grow

/-- The law is kept by the Timeline Unit. `note` changes what only counts and reports. -/
structure TimelineOps (P : State → Prop) : Prop where
  note : ∀ s u, u = { s.tlu with
      counts := u.counts, voidNoted := u.voidNoted, codedIndex := u.codedIndex
      conflicts := u.conflicts } → P s → P { s with tlu := u }
  adopt : ∀ b o s, s.tlu.station = .armed → P s → P (adoptEpoch b o s)
  enterEnding : ∀ l s, s.tlu.station = .running → P s → P (enterEnding l s)
  endTaken : ∀ b l s, P s → P (endTaken b l s)
  marked : ∀ n d r k s, s.unconfigured = false → r = .acquiring ∨ r = .locked → P s →
    P (s.onTlu (Tlu.mark n d r k))
  lostRef : ∀ s, s.tlu.lossTimer.isSome = true → P s →
    P (s.onTlu fun t => { t with ref := .lost, lossTimer := none })
  drainTimer : ∀ s, P s → P (drainTimerExpires s)
  done : ∀ s c, s.tlu.station = .ending → P s → P (s.onTlu fun t =>
    { t with station := .done, endTimer := .stopped, voidRun := false, counts := c })

theorem TimelineOps.of_frames {P : State → Prop} (f : Frames [.now, .tlu] P) :
    TimelineOps P where
  note s u _ := f _ _ (State.onTlu_foot (fun _ => u) s).grow
  adopt _ _ _ _ := f _ _ (adoptEpoch_foot _ _ _).grow
  enterEnding _ _ _ := f _ _ (enterEnding_foot _ _).grow
  endTaken _ _ _ := f _ _ (endTaken_foot _ _ _).grow
  marked _ _ _ _ _ _ _ := f _ _ (State.onTlu_foot _ _).grow
  lostRef _ _ := f _ _ (State.onTlu_foot _ _).grow
  drainTimer _ := f _ _ (drainTimerExpires_foot _).grow
  done _ _ _ := f _ _ (State.onTlu_foot _ _).grow

/-- The law is kept by the Capture Front and the Segment Coder. -/
structure CaptureOps (P : State → Prop) : Prop where
  bits : ∀ k b s, P s → P (lineBits k b s)
  stop : ∀ k s, P s → P (clockStops k s)
  take : ∀ s, P s → P (takeAll s)
  discard : ∀ s, P s → P (discardPeriod s)
  clearFlags : ∀ m s, P s → P (s.onCfr fun c => { c with lines := clearFlags m c.lines })
  coder : ∀ s u, u.grade = s.sgc.grade → u.batch = none ∨ s.sgc.batch.isSome = true → P s →
    P { s with sgc := u }

theorem CaptureOps.of_frames {P : State → Prop} (f : Frames [.cfr, .attn, .sgc] P) :
    CaptureOps P where
  bits _ _ _ := f _ _ (lineBits_foot _ _ _).grow
  stop _ _ := f _ _ (clockStops_foot _ _).grow
  take _ := f _ _ (takeAll_foot _).grow
  discard _ := f _ _ (discardPeriod_foot _).grow
  clearFlags _ _ := f _ _ (State.onCfr_foot _ _).grow
  coder s u _ _ := f _ _ (State.onSgc_foot (fun _ => u) s).grow

/-- The law is kept by the Delivery Unit: a sequence is issued only where one may be, and neither it nor
MUTED changes while MUTED is set. -/
structure DeliveryOps (P : State → Prop) : Prop where
  delivery : ∀ s u, u.nextSeq = s.dlu.nextSeq ∨ (s.mayIssue ∧ s.muted = false) →
    u.muted = s.dlu.muted ∨ s.muted = false →
    u.filter.length = s.dlu.filter.length → P s → P { s with dlu := u }

theorem DeliveryOps.of_frames {P : State → Prop} (f : Frames [.dlu, .muted] P) : DeliveryOps P where
  delivery s u _ _ _ := f _ _ (State.onDlu_foot (fun _ => u) s).grow

/-- The law is kept by the Roster. -/
structure RosterOps (P : State → Prop) : Prop where
  air : ∀ o a s, P s → P (rosterAir o a s)
  cue : ∀ i v s, P s → P (rosterCue i v s)
  flush : ∀ st s, P s → P (flushPeer st s)

theorem RosterOps.of_frames {P : State → Prop} (f : Frames [.rst, .aou, .attn] P) : RosterOps P where
  air _ _ _ := f _ _ (rosterAir_foot _ _ _).grow
  cue _ _ _ := f _ _ (rosterCue_foot _ _ _).grow
  flush _ _ := f _ _ (flushPeer_foot _ _).grow

/-- The law is kept by the Peer and Cue Unit: its tables keep their sizes. -/
structure CueOps (P : State → Prop) : Prop where
  peers : ∀ s u, u.cues.map List.length = s.pcu.cues.map List.length →
    u.peers.length = s.pcu.peers.length → u.beaconAt.isSome = s.pcu.beaconAt.isSome → P s →
    P { s with pcu := u }

theorem CueOps.of_frames {P : State → Prop} (f : Frames [.pcu] P) : CueOps P where
  peers s u _ _ _ := f _ _ (State.onPcu_foot (fun _ => u) s).grow

/-- The law is kept by the Air Outlet. -/
structure OutletOps (P : State → Prop) : Prop where
  arrival : ∀ a s, P s → P (takeArrival a s)
  cut : ∀ f c s, P s → P (cutTrigger f c s)
  leaveCut : ∀ s, P s → P (leaveCut s)
  finished : ∀ s, P s → P (reportFinished s)
  deadline : ∀ n s, P s → P (deadlineExpires n s)
  record : ∀ s, P s → P (feedRecordSent s)
  ready : ∀ s, P s → P (programReady s)
  notReady : ∀ s, P s → P (programNotReady s)

theorem OutletOps.of_frames {P : State → Prop} (f : Frames [.now, .aou, .attn] P) : OutletOps P where
  arrival _ _ := f _ _ (takeArrival_foot _ _).grow
  cut _ _ _ := f _ _ (cutTrigger_foot _ _ _).grow
  leaveCut _ := f _ _ (leaveCut_foot _).grow
  finished _ := f _ _ (reportFinished_foot _).grow
  deadline _ _ := f _ _ (deadlineExpires_foot _ _).grow
  record _ := f _ _ (feedRecordSent_foot _).grow
  ready _ := f _ _ (programReady_foot _).grow
  notReady _ := f _ _ (programNotReady_foot _).grow

/-- The law is kept by the Keep Spool and the Keep Outlet. -/
structure KeepOps (P : State → Prop) : Prop where
  append : ∀ b s, P s → P (appendKeep b s)
  recompute : ∀ s, P s → P (recomputeFree s)
  advance : ∀ s, s.performing = true → P s → P (advanceDrain s)
  resend : ∀ s, P s → P (resendExpires s)
  takeKeep : ∀ o i b f s, P s → P (takeKeep o i b f s)
  archived : ∀ s, P s → P (archiveRecordSent s)
  archive : ∀ s, P s → P (archiveReady s)
  noArchive : ∀ s, P s → P (archiveNotReady s)

theorem KeepOps.of_frames {P : State → Prop} (f : Frames [.now, .ksp, .kou, .attn] P) : KeepOps P where
  append _ _ := f _ _ (appendKeep_foot _ _).grow
  recompute _ := f _ _ (recomputeFree_foot _).grow
  advance _ _ := f _ _ (advanceDrain_foot _).grow
  resend _ := f _ _ (resendExpires_foot _).grow
  takeKeep _ _ _ _ _ := f _ _ (takeKeep_foot _ _ _ _ _).grow
  archived _ := f _ _ (archiveRecordSent_foot _).grow
  archive _ := f _ _ (archiveReady_foot _).grow
  noArchive _ := f _ _ (archiveNotReady_foot _).grow

/-- The law is kept by the console line; `console` changes neither the configuration nor the LOAD. -/
structure ConsoleOps (P : State → Prop) : Prop where
  console : ∀ s u, u = { s.csu with
      holding := u.holding, line := u.line, waiting := u.waiting, tx := u.tx, watch := u.watch
      resetPending := u.resetPending, silent := u.silent, counts := u.counts } →
    (s.csu.line.chars.length ≤ 80 → u.line.chars.length ≤ 80) → P s → P { s with csu := u }
  loading : ∀ s l, l ≠ .idle → s.csu.load ≠ .idle ∨ s.armedOnward = false →
    ((∀ b t, s.csu.load = .binary b t → b.length < 1026) → ∀ b t, l = .binary b t → b.length < 1026) →
    P s → P (s.onCsu fun u => { u with load := l })
  loadEnds : ∀ s, P s → P (s.onCsu fun u => { u with load := .idle })
  raised : ∀ c x s, P s → P (raiseAttn c x s)

theorem ConsoleOps.of_frames {P : State → Prop} (f : Frames [.console, .attn] P) : ConsoleOps P where
  console s u _ _ := f _ _ (State.onCsu_foot (fun _ => u) s)
  loading _ _ _ _ _ := f _ _ (State.onCsu_foot _ _)
  loadEnds _ := f _ _ (State.onCsu_foot _ _)
  raised _ _ _ := f _ _ (raiseAttn_foot _ _ _).grow

/-- What a boundary does once a batch in flight has been finished. -/
def boundaryFrom (count : Word) (s : State) : State :=
  let presented := s.tlu.presents count
  feedSettle (slotAt presented s.expectedSet (driverAt (s.tlu.entersAt count) (ageAt presented
    (openPeriod presented (closePeriod presented (gradeAt presented (s.tlu.entersAt count)
      (tluBoundary count s)))))))

theorem takeBoundary_eq (count : Word) (s : State) :
    takeBoundary count s = boundaryFrom count (finishBatch s) := rfl

/-- The law is kept by each operation of each block, and by the passing of time. -/
structure BlockOps (P : State → Prop) : Prop extends PortOps P, TimelineOps P, CaptureOps P,
    DeliveryOps P, RosterOps P, CueOps P, OutletOps P, KeepOps P, ConsoleOps P where
  reach : ∀ t s, P s → P (s.reach t)
  boundary : ∀ n s, P s → P (boundaryFrom n s)

namespace BlockOps

variable {P : State → Prop}

/-! ### Deliveries and originations -/

theorem countDlu (o : BlockOps P) (f : DluCounts → DluCounts) (s : State) (h : P s) :
    P (s.countDlu f) :=
  o.delivery s { s.dlu with counts := f s.dlu.counts } (.inl rfl) (.inl rfl) rfl h

/-- A change of the counters of the Peer and Cue Unit. -/
theorem countPcu (o : BlockOps P) (f : Pcu → Pcu) (s : State)
    (q : ∀ u, f u = { u with counts := (f u).counts }) (h : P s) : P (s.onPcu f) :=
  o.peers s (f s.pcu) (by rw [q]) (by rw [q]) (by rw [q]) h

/-- A change of the counters of the Timeline Unit. -/
theorem countTlu (o : BlockOps P) (f : Tlu → Tlu) (s : State)
    (q : ∀ t, f t = { t with counts := (f t).counts }) (h : P s) : P (s.onTlu f) :=
  o.note s (f s.tlu) (by rw [q]) h

theorem epochConflict (o : BlockOps P) (b : Word) (st : Nat) (s : State) (h : P s) :
    P (epochConflict b st s) :=
  o.cut _ _ _ (o.raised _ _ _ (o.countTlu _ s (fun _ => rfl) h))

theorem startAgainst (o : BlockOps P) (e : Epoch) (b : Word) (st : Nat) (s : State) (h : P s) :
    P (startAgainst e b st s) := by
  unfold Machine.startAgainst
  split
  · exact h
  · exact o.epochConflict _ _ _ h

theorem startTaken (o : BlockOps P) (b : Word) (st : Nat) (s : State) (h : P s) :
    P (startTaken b st s) := by
  have ignored : P (ignoreStart s) := o.countTlu _ s (fun _ => rfl) h
  unfold Machine.startTaken
  split
  next armed _ =>
    split
    · exact ignored
    · exact o.adopt _ _ _ armed h
  next armed _ =>
    split
    · split
      · exact o.adopt _ _ _ armed h
      · exact ignored
    · exact o.startAgainst _ _ _ _ h
  · exact o.startAgainst _ _ _ _ h
  · exact o.startAgainst _ _ _ _ h
  · exact h

theorem beaconConflict (o : BlockOps P) (b : Word) (st : Nat) (i : Word) (s : State) (h : P s) :
    P (beaconConflict b st i s) := by
  have recorded : P (s.onTlu fun t =>
      { t with conflicts := recordConflict st i t.conflicts }) :=
    o.note s { s.tlu with conflicts := recordConflict st i s.tlu.conflicts } rfl h
  unfold Machine.beaconConflict
  split
  · exact o.epochConflict _ _ _ recorded
  · split
    · exact h
    · split
      · exact o.epochConflict _ _ _ recorded
      · exact o.epochConflict _ _ _ h

theorem beaconAgainst (o : BlockOps P) (e : Epoch) (b : Word) (st : Nat) (i : Word) (s : State)
    (h : P s) : P (beaconAgainst e b st i s) := by
  unfold Machine.beaconAgainst
  split
  · exact h
  · exact o.beaconConflict _ _ _ _ h

theorem handBase (o : BlockOps P) (b : BeaconBody) (x : StationState) (st : Nat) (i : Word) (s : State)
    (h : P s) : P (handBase b x st i s) := by
  unfold Machine.handBase
  split
  · exact h
  · unfold beaconEpoch
    split
    next armed _ =>
      split
      · exact o.adopt _ _ _ armed h
      · exact h
    · exact o.beaconAgainst _ _ _ _ _ h
    · exact o.beaconAgainst _ _ _ _ _ h
    · exact o.beaconAgainst _ _ _ _ _ h
    · exact h

theorem setPeer (o : BlockOps P) (st : Nat) (p : Option Peer) (s : State) (h : P s) :
    P (setPeer st p s) :=
  o.peers s { s.pcu with peers := setStation s.pcu.peers st p } rfl (setStation_length _ _ _) rfl h

theorem peerTaken (o : BlockOps P) (st : Nat) (p : Peer) (s : State) (h : P s) :
    P (peerTaken st p s) := by
  unfold Machine.peerTaken
  split
  · exact o.raised _ _ _ (o.setPeer _ _ _ (o.countPcu _ s (fun _ => rfl) h))
  · split
    · exact o.setPeer _ _ _ h
    · split
      · exact o.raised _ _ _ (o.flush _ _ (o.setPeer _ _ _ (o.countPcu _ s (fun _ => rfl) h)))
      · exact h

theorem applyCue (o : BlockOps P) (c : Cue) (s : State) (h : P s) : P (applyCue c s) := by
  have advanced (u : Pcu) (n : Word) : (u.advance n).cues = u.cues ∧
      (u.advance n).peers = u.peers ∧ (u.advance n).beaconAt = u.beaconAt := by
    unfold Pcu.advance
    split <;> exact ⟨rfl, rfl, rfl⟩
  unfold Machine.applyCue
  split
  · obtain ⟨cues, peers, beacon⟩ := advanced (s.pcu.setItem c) c.number
    refine o.cue _ _ _ (o.peers s ((s.pcu.setItem c).advance c.number) ?_ ?_ ?_ h)
    · rw [cues, Pcu.setItem, Option.map_map]
      exact congrArg (Option.map · s.pcu.cues) (funext fun items => List.length_set)
    · rw [peers]; rfl
    · rw [beacon]; rfl
  · obtain ⟨cues, peers, beacon⟩ := advanced s.pcu c.number
    exact o.peers s (s.pcu.advance c.number) (by rw [cues]) (by rw [peers]) (by rw [beacon]) h

theorem cueTaken (o : BlockOps P) (st : Nat) (b : CueBody) (s : State) (h : P s) :
    P (cueTaken st b s) := by
  unfold Machine.cueTaken
  split
  · exact o.countPcu _ s (fun _ => rfl) h
  · refine o.applyCue _ _ (o.peers s _ rfl rfl rfl h)

theorem mergeItems (o : BlockOps P) (i : Nat) (bs : List BeaconItem) (s : State) (h : P s) :
    P (mergeItems i bs s) := by
  induction bs generalizing i s with
  | nil => exact h
  | cons b bs ih =>
    exact ih _ _ (o.applyCue _ _ (o.peers s _ rfl rfl rfl h))

theorem beaconTaken (o : BlockOps P) (r : RingHeader) (b : BeaconBody) (s : State) (h : P s) :
    P (beaconTaken r b s) := by
  unfold Machine.beaconTaken
  split
  · exact o.countPcu _ s (fun _ => rfl) h
  next st _ =>
    have judged := o.handBase b st r.origin r.incarnation _ (o.mergeItems 0 b.items _
      (o.peerTaken r.origin (b.peer st r.incarnation s.now) s h))
    dsimp only
    split
    · exact o.countPcu _ _ (fun _ => rfl) (o.recompute _ judged)
    · exact o.countPcu _ _ (fun _ => rfl) judged

theorem deliver (o : BlockOps P) (k : RingKind) (own : Bool) (bs : Bytes) (s : State) (h : P s) :
    P (deliver k own bs s) := by
  have counted := o.countDlu k.countDelivered s h
  unfold Machine.deliver
  split
  case isFalse => exact h
  case isTrue =>
    unfold toBlock
    cases k with
    | start => exact o.startTaken _ _ _ counted
    | endFrame => exact o.endTaken _ _ _ counted
    | cue => exact o.cueTaken _ _ _ counted
    | beacon =>
      dsimp only
      split
      · exact counted
      · exact o.beaconTaken _ _ _ counted
    | air =>
      dsimp only
      split
      · exact o.arrival _ _ counted
      · exact o.air _ _ _ counted
    | keep => exact o.takeKeep _ _ _ _ _ counted

theorem originate (o : BlockOps P) (k : RingKind) (body : Bytes) (s : State) (g : s.mayIssue)
    (h : P s) : P (originate k body s) := by
  unfold Machine.originate
  split
  · exact o.countDlu _ s h
  next speaks =>
    have issued : P (s.onDlu fun d => { d with
        nextSeq := d.nextSeq + 1
        counts := { d.counts with
          originated := up d.counts.originated
          origUnsent := upIf (!((s.port .a).offer k.lane).isQueued &&
            !((s.port .b).offer k.lane).isQueued) d.counts.origUnsent } }) :=
      o.delivery s _ (.inr ⟨g, Bool.eq_false_iff.2 speaks⟩) (.inl rfl) rfl h
    exact o.deliver _ _ _ _ (o.offer _ _ _ _ (o.offer _ _ _ _ issued))

theorem restartBeacon (o : BlockOps P) (s : State) (g : s.pcu.beaconAt.isSome = true) (h : P s) :
    P (restartBeacon s) :=
  o.peers s { s.pcu with beaconAt := some (s.now + millis 50) } rfl rfl g.symm h

theorem beaconDue (o : BlockOps P) (s : State) (h : P s) : P (beaconDue s) := by
  unfold Machine.beaconDue
  split
  · exact h
  next t runs =>
    have g : s.pcu.beaconAt.isSome = true := by rw [runs]; rfl
    split
    · exact o.restartBeacon _ g (o.reach _ _ h)
    · refine o.restartBeacon _ ?_ (o.originate .beacon _ _ (.inr (.inr g)) (o.reach _ _ h))
      rw [(originate_foot .beacon _ _).pcu (by decide)]
      exact g

/-! ### Frames that arrive -/

theorem firstCopy (o : BlockOps P) (p : PortId) (k : RingKind) (bs : Bytes) (e : FilterEntry)
    (s : State) (h : P s) : P (firstCopy p k bs e s) := by
  have filled : P (setFilter (ringHeader bs).origin e s) :=
    o.delivery s { s.dlu with filter := setStation s.dlu.filter (ringHeader bs).origin (some e) }
      (.inl rfl) (.inl rfl) (setStation_length _ _ _) h
  exact o.deliver _ _ _ _ (o.offer _ _ _ _ (o.countDlu _ _ filled))

theorem otherOrigin (o : BlockOps P) (p : PortId) (k : RingKind) (bs : Bytes) (s : State) (h : P s) :
    P (otherOrigin p k bs s) := by
  unfold Machine.otherOrigin
  split
  · exact o.firstCopy _ _ _ _ _ h
  · exact o.firstCopy _ _ _ _ _ (o.countDlu _ s h)
  · exact o.countDlu _ s h
  · exact o.countDlu _ s h

theorem duplicateId (o : BlockOps P) (p : PortId) (r : RingHeader) (s : State) (h : P s) :
    P (duplicateId p r s) := by
  have counted : P (s.countDlu fun c => { c with dupidFrame := up c.dupidFrame }) := o.countDlu _ s h
  unfold Machine.duplicateId
  dsimp only
  split
  · exact counted
  next speaks =>
    exact o.cut _ _ _ (o.raised _ _ _
      (o.delivery _ _ (.inl rfl) (.inr (Bool.eq_false_iff.2 speaks)) rfl counted))

theorem ownOrigin (o : BlockOps P) (p : PortId) (bs : Bytes) (s : State) (h : P s) :
    P (ownOrigin p bs s) := by
  unfold Machine.ownOrigin
  split
  · exact o.duplicateId _ _ _ h
  · exact o.countDlu _ s h
  · exact o.countDlu _ s h

theorem admitted (o : BlockOps P) (p : PortId) (k : RingKind) (bs : Bytes) (s : State) (h : P s) :
    P (admitted p k bs s) := by
  unfold Machine.admitted
  split
  · exact o.countDlu _ s h
  · split
    · exact o.countDlu _ s h
    · split
      · exact o.ownOrigin _ _ _ h
      · exact o.otherOrigin _ _ _ _ h

theorem admission (o : BlockOps P) (p : PortId) (bs : Bytes) (s : State) (h : P s) :
    P (admission p bs s) := by
  unfold Machine.admission
  split
  · exact h
  · exact o.countPort _ _ s h
  · exact o.countPort _ _ s h
  · split
    · unfold unknownKind
      split
      · exact o.countDlu _ s h
      · exact o.countDlu _ s h
    · split
      · exact o.countPort _ _ s h
      · split
        · exact o.countPort _ _ s h
        · exact o.admitted _ _ _ _ h

theorem receiveFrame (o : BlockOps P) (p : PortId) (bs : Bytes) (s : State) (h : P s) :
    P (receiveFrame p bs s) := by
  unfold Machine.receiveFrame
  split
  · exact h
  · split
    · exact o.countPort _ _ s h
    · split
      · exact o.countPort _ _ s h
      · split
        · unfold receiveHello
          split
          · exact o.countPort _ _ s h
          · exact o.helloTaken _ _ _ h
        · split
          · exact o.holdTaken _ _ _ h
          · exact o.admission _ _ _ h

theorem peerTimerExpires (o : BlockOps P) (st : Nat) (s : State) (h : P s) :
    P (peerTimerExpires st s) := by
  unfold Machine.peerTimerExpires
  split
  · exact h
  next p _ =>
    have flushed := o.flush st _ (o.setPeer st none _ (o.reach p.lossAt s h))
    unfold losePeer
    dsimp only
    split
    · exact o.raised _ _ _ (o.countPcu _ _ (fun _ => rfl) (o.recompute _ flushed))
    · exact o.raised _ _ _ (o.countPcu _ _ (fun _ => rfl) flushed)

/-! ### The drain and the tests at the end of an event -/

theorem drainLoop (o : BlockOps P) (n : Nat) (s : State) (h : P s) : P (drainLoop n s) := by
  induction n generalizing s with
  | zero => exact h
  | succ n ih =>
    unfold Machine.drainLoop
    split
    next clear _ =>
      have performing := State.performing_of_drainBlock clear
      refine ih _ (o.advance _ ?_ (o.originate .keep _ _
        (.inl (State.armedOnward_of_performing performing)) h))
      rw [State.performing, (originate_foot .keep _ _).tlu (by decide)]
      exact performing
    · exact h

theorem drain (o : BlockOps P) (s : State) (h : P s) : P (drain s) := o.drainLoop _ s h

theorem testDone (o : BlockOps P) (s : State) (h : P s) : P (testDone s) := by
  unfold Machine.testDone
  split
  next ends =>
    obtain ⟨ending, -, -⟩ := ends
    exact o.discard _ (o.done s _ ending h)
  · exact h

theorem settle (o : BlockOps P) (s : State) (h : P s) : P (settle s) :=
  o.testDone _ (o.finished _ (o.drain s h))

/-! ### The coding of a batch -/

end BlockOps

theorem makeAir_batch (b : Batch) (g : Segment) (s : State) :
    (makeAir b g s).sgc.batch = s.sgc.batch := by
  unfold makeAir
  split
  · rw [(originate_foot .air _ _).sgc (by decide)]
    rfl
  · rfl

theorem makeKeep_batch (g : Segment) (s : State) : (makeKeep g s).sgc.batch = s.sgc.batch := by
  unfold makeKeep
  split
  · rw [(appendKeep_foot _ _).sgc (by decide)]
    rfl
  · rfl

namespace BlockOps

variable {P : State → Prop}

theorem completeBatch (o : BlockOps P) (b : Batch) (s : State) (h : P s) : P (completeBatch b s) :=
  o.note _ { s.tlu with codedIndex := some b.index } rfl
    (o.coder s { s.sgc with batch := none } rfl (.inl rfl) h)

theorem makeAir (o : BlockOps P) (b : Batch) (g : Segment) (s : State)
    (q : s.sgc.batch.isSome = true) (h : P s) : P (makeAir b g s) := by
  unfold Machine.makeAir
  split
  · exact o.originate .air _ _ (.inr (.inl q)) (o.coder s _ rfl (.inr q) h)
  · exact h

theorem makeKeep (o : BlockOps P) (g : Segment) (s : State) (q : s.sgc.batch.isSome = true)
    (h : P s) : P (makeKeep g s) := by
  unfold Machine.makeKeep
  split
  · exact o.append _ _ (o.coder s _ rfl (.inr q) h)
  · exact h

theorem codeSegment (o : BlockOps P) (s : State) (h : P s) : P (codeSegment s) := by
  unfold Machine.codeSegment
  split
  · exact h
  next b batch =>
    have q : s.sgc.batch.isSome = true := by rw [batch]; rfl
    split
    · exact o.completeBatch _ _ h
    next g rest _ =>
      have air := o.makeAir b g s q h
      have q' : (Machine.makeAir b g s).sgc.batch.isSome = true := by rw [makeAir_batch]; exact q
      have sent := o.drain _ (o.makeKeep g _ q' air)
      have q'' : (Machine.drain (Machine.makeKeep g (Machine.makeAir b g s))).sgc.batch.isSome
          = true := by
        rw [(drain_foot _).sgc (by decide), makeKeep_batch]
        exact q'
      cases rest with
      | nil => exact o.completeBatch _ _ sent
      | cons _ _ => exact o.coder _ _ rfl (.inr q'') sent

theorem codeSegments (o : BlockOps P) (n : Nat) (s : State) (h : P s) : P (codeSegments n s) := by
  induction n generalizing s with
  | zero => exact h
  | succ n ih => exact ih _ (o.codeSegment s h)

theorem finishBatch (o : BlockOps P) (s : State) (h : P s) : P (finishBatch s) := by
  unfold Machine.finishBatch
  split
  · exact h
  · exact o.codeSegments _ s h

/-! ### Marks -/

theorem leaveLocked (o : BlockOps P) (c : Cause) (x : CutCause) (s : State) (h : P s) :
    P (leaveLocked c x s) :=
  o.discard _ (o.cut _ _ _ (o.raised _ _ _ (o.note s { s.tlu with voidNoted := false } rfl h)))

theorem takeMark (o : BlockOps P) (n : Word) (k : Nat) (s : State) (u : s.unconfigured = false)
    (h : P s) : P (takeMark n k s) := by
  have acquiring run : P (s.onTlu (Tlu.mark n s.lossDue .acquiring run)) :=
    o.marked _ _ _ _ s u (.inl rfl) h
  have boundary run : P (takeBoundary n (s.onTlu (Tlu.mark n s.lossDue .locked run))) :=
    o.boundary _ _ (o.finishBatch _ (o.marked _ _ _ _ s u (.inr rfl) h))
  unfold Machine.takeMark
  dsimp only
  split
  · exact acquiring _
  · exact acquiring _
  · split
    · split
      · exact boundary _
      · exact acquiring _
    · exact acquiring _
  · split
    · exact boundary _
    · exact o.leaveLocked _ _ _ (o.countTlu _ _ (fun _ => rfl) (acquiring _))

theorem markTaken (o : BlockOps P) (n : Word) (k : Nat) (s : State) (h : P s) :
    P (markTaken n k s) := by
  unfold Machine.markTaken
  split
  · exact h
  next configured => exact o.settle _ (o.takeMark n k s (Bool.eq_false_iff.2 configured) h)

theorem lossTimerExpires (o : BlockOps P) (s : State) (h : P s) : P (lossTimerExpires s) := by
  unfold Machine.lossTimerExpires
  split
  · exact h
  next t runs =>
    have lost := o.lostRef (s.reach t) (by rw [State.reach_tlu, runs]; rfl) (o.reach t s h)
    refine o.settle _ ?_
    unfold loseReference
    dsimp only
    split
    · exact o.leaveLocked _ _ _ (o.countTlu _ _ (fun _ => rfl) lost)
    · exact lost

/-! ### The console line -/

theorem sendReply (o : BlockOps P) (r : Reply) (s : State) (h : P s) : P (sendReply r s) :=
  o.console s { s.csu with tx := s.csu.tx ++ [.reply r r.length] } rfl id h

theorem countCsu (o : BlockOps P) (f : CsuCounts → CsuCounts) (s : State) (h : P s) :
    P (s.countCsu f) :=
  o.console s { s.csu with counts := f s.csu.counts } rfl id h

theorem watchReport (o : BlockOps P) (i : ShowItem) (s : State) (h : P s) : P (watchReport i s) :=
  o.sendReply _ _ (o.console s _ rfl id h)

theorem abandonLoad (o : BlockOps P) (r : Reply) (s : State) (h : P s) : P (abandonLoad r s) :=
  o.sendReply _ _ (o.countCsu _ _ (o.loadEnds s h))

theorem endWatch (o : BlockOps P) (s : State) (h : P s) : P (endWatch s) :=
  o.sendReply _ _ (o.console s { s.csu with watch := none } rfl id h)

theorem unheld (o : BlockOps P) (s : State) (h : P s) :
    P (s.onCsu fun u => { u with holding := none }) :=
  o.console s { s.csu with holding := none } rfl id h

theorem repliesSent (o : BlockOps P) (s : State) (h : P s) : P (repliesSent s) :=
  o.console s { s.csu with tx := dropReplies s.csu.tx } rfl id h

theorem breakEffect (o : BlockOps P) (s : State) (h : P s) : P (breakEffect s) := by
  have emptied : P (s.onCsu fun u => { u with line := {} }) :=
    o.console s { s.csu with line := {} } rfl (fun _ => Nat.zero_le _) h
  unfold Machine.breakEffect answerBreak
  split
  · exact o.abandonLoad _ _ h
  · split
    · exact o.sendReply _ _ (o.endWatch s h)
    · split
      · exact emptied
      · exact o.sendReply _ _ emptied

theorem loadTimeout (o : BlockOps P) (s : State) (h : P s) : P (loadTimeout s) := by
  unfold Machine.loadTimeout
  split
  · exact o.abandonLoad _ _ (o.reach _ s h)
  · exact h
  · exact h

theorem repeatWatch (o : BlockOps P) (s : State) (h : P s) : P (repeatWatch s) := by
  unfold Machine.repeatWatch
  split
  · exact h
  · split
    · exact h
    · have reached := fun t => o.reach t s h
      dsimp only
      split
      · exact o.console _ _ rfl id (reached _)
      · exact o.watchReport _ _ (reached _)

theorem reportDone (o : BlockOps P) (s : State) (h : P s) : P (reportDone s) := by
  unfold Machine.reportDone
  split
  · exact h
  next w _ =>
    have sent : P (s.onCsu fun u =>
        { u with tx := if u.replying then dropFirstReply u.tx else u.tx }) :=
      o.console s _ rfl id h
    dsimp only
    split
    · exact o.watchReport _ _ sent
    · exact sent

end BlockOps

/-- A character that joins a line leaves it within its 80 (Table 10-1). -/
theorem CommandLine.put_fits (l : CommandLine) (c : Byte) (h : l.chars.length ≤ 80) :
    (l.put c).chars.length ≤ 80 := by
  unfold CommandLine.put
  split
  · split
    · rw [List.length_append, List.length_singleton]
      omega
    · exact h
  · split
    · rw [List.length_dropLast]
      omega
    · exact h

theorem withQueue_foot (q : List Instr) (s : State) : Foot [.pending] s (s.withQueue q) := by
  constructor <;> intro n <;>
    first | rfl | exact ⟨rfl, rfl⟩ | exact ⟨rfl, rfl, rfl⟩ | exact absurd (by decide) n

theorem boundaryFrom_foot (n : Word) (s : State) :
    Foot [.tlu, .cfr, .sgc, .rst, .aou, .attn] s (boundaryFrom n s) :=
  ((((((((tluBoundary_foot _ _).grow.seq (gradeAt_foot _ _ _).grow).seq
    (closePeriod_foot _ _).grow).seq (openPeriod_foot _ _).grow).seq (ageAt_foot _ _).grow).seq
    (driverAt_foot _ _).grow).seq (slotAt_foot _ _ _).grow).seq (feedSettle_foot _).grow)

/-- An event that takes a command line. -/
def takesLine (c : Instr) : Prop := c = .commandLineTaken ∨ c = .breakTaken

/-- The law is kept by what a command can do to several blocks at once: a LOAD and CLEAR COUNTS; and by
ARM, CLEAR ATTN and a reset where the command can be one. -/
structure CommandOps (c : Instr) (P : State → Prop) : Prop extends BlockOps P where
  loaded : ∀ bs x d s, s.csu.load ≠ .idle → checkBlock bs = .loaded x d → P s →
    P (applyLoad x d (s.onCsu fun u => { u with load := .idle }))
  zeroed : ∀ s, P s → P (zeroCounts s)
  armed : c = .arm ∨ takesLine c → ∀ s, s.csu.takesLines = true → refuseArm s = none → P s →
    P (sendBeacon (enableLanes (fillRoster (armBlocks s))))
  clearAttn : (∃ m, c = .clearAttn m) ∨ takesLine c → ∀ m s, P s →
    P (s.onCsu fun u => { u with pendingAttn := clearClasses m u.pendingAttn })
  reset : c = .powerOnReset ∨ c = .consoleReset → ∀ x s, P s → P (resetWith x s)

namespace CommandOps

variable {c : Instr} {P : State → Prop}

theorem loadByte (o : CommandOps c P) (bs : Bytes) (b : Byte) (t : Time) (s : State)
    (l : s.csu.load = .binary bs t) (h : P s) : P (loadByte bs b s) := by
  have busy : s.csu.load ≠ .idle := by rw [l]; exact nofun
  unfold Machine.loadByte
  dsimp only
  split
  · unfold finishLoad
    split
    · exact o.abandonLoad _ _ h
    next c d checked => exact o.sendReply _ _ (o.loaded _ c d s busy checked h)
  next notFull =>
    refine o.loading s _ nofun (.inl busy) (fun fits b' t' e => ?_) h
    obtain ⟨rfl, -⟩ := LoadState.binary.inj e
    have := fits bs t l
    rw [List.length_append, List.length_singleton] at notFull ⊢
    omega

theorem takeCharacter (o : CommandOps c P) (b : Byte) (s : State) (h : P s) : P (takeCharacter b s) := by
  unfold Machine.takeCharacter
  split
  next l => exact o.loadByte _ b _ s l h
  · exact o.endWatch s h
  · refine o.console s _ rfl (fun fits => ?_) h
    dsimp only
    split
    · exact Nat.zero_le _
    · exact s.csu.line.put_fits b fits

theorem takeHolding (o : CommandOps c P) (s : State) (h : P s) : P (takeHolding s) := by
  unfold Machine.takeHolding
  split
  · exact h
  · split
    · exact o.takeCharacter _ _ (o.unheld s h)
    · exact h

theorem completeCharacter (o : CommandOps c P) (b : Byte) (s : State) (h : P s) :
    P (completeCharacter b s) := by
  have taken := o.takeHolding s h
  unfold Machine.completeCharacter
  dsimp only
  split
  · have counted := o.countCsu (fun x => { x with conOverrun := up x.conOverrun }) _ taken
    unfold overrun
    dsimp only
    split
    · exact o.abandonLoad _ _ counted
    · exact o.console _ _ rfl id counted
  · exact o.takeHolding _ (o.console _ _ rfl id taken)

theorem beginBinary (o : CommandOps c P) (s : State) (h : P s) : P (beginBinary s) := by
  unfold Machine.beginBinary
  split
  next announced =>
    have busy : (Machine.repliesSent s).csu.load ≠ .idle := by
      rw [show (Machine.repliesSent s).csu.load = .announced from announced]
      exact nofun
    refine o.takeHolding _ (o.loading _ _ nofun (.inl busy) (fun _ b t e => ?_)
      (o.repliesSent s h))
    obtain ⟨rfl, -⟩ := LoadState.binary.inj e
    decide
  · exact h

/-! ### The effects of the console commands -/

theorem armEffect (o : CommandOps c P) (a : c = .arm ∨ takesLine c) (s : State)
    (l : s.csu.takesLines = true) (r : refuseArm s = none) (h : P s) : P (armEffect s) :=
  o.sendReply _ _ (o.armed a s l r h)

theorem goEffect (o : CommandOps c P) (s : State) (r : refuseGo s = none) (h : P s) : P (goEffect s) := by
  have armed : s.tlu.station = .armed := by
    refine Classical.byContradiction fun other => ?_
    unfold refuseGo at r
    rw [if_pos (Or.inl other)] at r
    split at r <;> exact nomatch r
  refine o.sendReply _ _ (o.originate .start _ _ (.inl ?_) (o.adopt _ _ s armed h))
  show (adoptEpoch s.goBase s.ownId s).armedOnward = true
  rw [State.armedOnward, show (adoptEpoch s.goBase s.ownId s).tlu.station = .armed from armed]

theorem endEffect (o : CommandOps c P) (s : State) (r : refuseEnd s = none) (h : P s) : P (endEffect s) := by
  have running : s.tlu.station = .running := by
    refine Classical.byContradiction fun other => ?_
    unfold refuseEnd at r
    rw [if_pos other] at r
    split at r <;> exact nomatch r
  exact o.sendReply _ _ (o.settle _ (o.originate .endFrame _ _ (.inl rfl)
    (o.enterEnding _ s running h)))

theorem cueEffect (o : CommandOps c P) (i : Nat) (v : CueWord) (s : State) (r : refuseCue i v s = none)
    (h : P s) : P (cueEffect i v s) := by
  have armed : s.armedOnward = true := by
    refine Classical.byContradiction fun other => ?_
    unfold refuseCue at r
    rw [if_pos other] at r
    split at r <;> exact nomatch r
  exact o.sendReply _ _ (o.originate .cue _ s (.inl armed) h)

/-- A command given as itself, or in a line. -/
theorem effectOf (o : CommandOps c P) (d : Instr) (g : c = d ∨ takesLine c) (s : State)
    (l : s.csu.takesLines = true) (r : refusalOf d s = none) (h : P s) : P (effectOf d s) := by
  cases d
  case load =>
    have notArmed : s.armedOnward = false := by
      refine Classical.byContradiction fun armed => ?_
      rw [Bool.not_eq_false] at armed
      exact nomatch (if_pos armed).symm.trans r
    exact o.sendReply _ _ (o.loading s _ nofun (.inr notArmed) (fun _ _ _ e => nomatch e) h)
  case watch item =>
    cases item with
    | none => exact h
    | some i => exact o.watchReport i s h
  case arm => exact o.armEffect g s l r h
  case go => exact o.goEffect s r h
  case endPerformance => exact o.endEffect s r h
  case cue i v => exact o.cueEffect i v s r h
  case cut => exact o.sendReply _ _ (o.settle _ (o.cut _ _ s h))
  case uncut =>
    refine o.sendReply _ _ ?_
    dsimp only
    split
    · exact o.settle _ (o.leaveCut s h)
    · exact h
  case clearAttn m => exact o.sendReply _ _ (o.clearAttn (g.imp_left fun e => ⟨m, e⟩) m s h)
  case clearCapture m => exact o.sendReply _ _ (o.clearFlags m s h)
  case clearCounts => exact o.sendReply _ _ (o.zeroed s h)
  case reset => exact o.sendReply _ _ (o.console s { s.csu with resetPending := true } rfl id h)
  case showState | showRef | showPorts | showLanes | showFilter | showRoster | showCues | showPeers
    | showSlots | showFeed | showSpool | showTake | showCapture | showCounts | showAttn | showConfig =>
    exact o.sendReply _ _ h
  all_goals exact h

/-! ### The taking of a command -/

theorem spoken (o : CommandOps c P) (s : State) (h : P s) : P (speak s) :=
  o.console s { s.csu with silent := false } rfl id h

theorem refuse (o : CommandOps c P) (x : RefusalCode) (s : State) (h : P s) : P (refuseLine x s) :=
  o.sendReply _ _ (o.countCsu _ _ h)

theorem command (o : CommandOps c P) (d : Instr) (g : c = d ∨ takesLine c) (s : State)
    (l : s.csu.takesLines = true) (h : P s) : P (command (refusalOf d) (Machine.effectOf d) s) := by
  unfold Machine.command
  split
  · exact o.refuse _ _ h
  next accepted => exact o.effectOf d g _ l ((refusalOf_counted d _ s).trans accepted) (o.countCsu _ _ h)

theorem row (o : CommandOps c P) (s : State) (h : P s) :
    P (commandRow (refusalOf c) (Machine.effectOf c) s) := by
  unfold commandRow
  split
  next takes => exact o.command c (.inl rfl) _ takes (o.repliesSent _ (o.spoken s h))
  · exact h

theorem lineDealt (o : CommandOps c P) (g : takesLine c) (x : CommandLine) (s : State)
    (l : s.csu.takesLines = true) (h : P s) : P (dealWithLine x s) := by
  unfold dealWithLine executeWords
  split
  · exact o.refuse _ _ h
  split
  · exact o.refuse _ _ h
  split
  · exact h
  split
  · exact o.refuse _ _ h
  split
  · exact o.command _ (.inr g) _ l h
  · exact o.refuse _ _ h

/-- A line that waits is taken, the transmit buffer changed as it is. -/
theorem lineTaken (o : CommandOps c P) (g : takesLine c) (f : State → State) (s : State)
    (quiet : ∀ t, (f t).csu.takesLines = t.csu.takesLines) (kept : ∀ t, P t → P (f t)) (h : P s) :
    P (takeLineWith f s) := by
  unfold takeLineWith
  split
  · exact h
  split
  next takes =>
    exact o.lineDealt g _ _ ((quiet _).trans takes)
      (kept _ (o.spoken _ (o.console s { s.csu with waiting := none } rfl id h)))
  · exact h

theorem breakEvent (o : CommandOps .breakTaken P) (s : State) (h : P s) : P (takeBreak s) :=
  o.breakEffect _ (o.countCsu _ _ (o.unheld _
    (o.lineTaken (.inr rfl) id s (fun _ => rfl) (fun _ => id) h)))

theorem runs (o : CommandOps c P) (k : Nat) (rs : List (List Bool)) (s : State) (h : P s) :
    P (lineRuns k rs s) := by
  induction rs generalizing s with
  | nil => exact h
  | cons bits later ih =>
    cases later with
    | nil => exact o.bits _ _ _ h
    | cons next later =>
      rw [lineRuns_cons]
      exact ih _ (o.stop _ _ (o.bits _ _ _ h))

/-- A law kept by what a command can do is kept by the command. -/
theorem exec {s t : State} (o : CommandOps c P) (e : exec c s = .next t) (h : P s) : P t := by
  have next : ∀ u, P u → Machine.exec c s = .next u → P t := fun u kept answer =>
    Host.Outcome.next.inj (answer.symm.trans e) ▸ kept
  cases c with
  | powerOnReset => exact next _ (o.reset (.inl rfl) _ _ h) rfl
  | consoleReset => exact next _ (o.reset (.inr rfl) _ _ h) rfl
  | characterComplete b => exact next _ (o.completeCharacter b _ h) rfl
  | characterTaken => exact next _ (o.takeHolding _ h) rfl
  | commandLineTaken =>
    exact next _ (o.lineTaken (.inl rfl) Machine.repliesSent s (fun _ => rfl) (fun t => o.repliesSent t) h) rfl
  | breakTaken => exact next _ (o.breakEvent _ h) rfl
  | watchRepeatTimer => exact next _ (o.repeatWatch _ h) rfl
  | binaryPhaseStart => exact next _ (o.beginBinary _ h) rfl
  | loadIdleTimeout => exact next _ (o.loadTimeout _ h) rfl
  | reportSent => exact next _ (o.reportDone _ h) rfl
  | markTaken n d => exact next _ (o.markTaken n d _ h) rfl
  | referenceLossTimer => exact next _ (o.lossTimerExpires _ h) rfl
  | sampleFrameComplete k f => exact next _ (o.runs k f _ h) rfl
  | lossOfFraming a => exact next _ (o.runs _ _ _ h) rfl
  | sampleTake => exact next _ (o.take _ h) rfl
  | segmentCoded => exact next _ (o.settle _ (o.codeSegment _ h)) rfl
  | helloTimer => exact next _ (o.helloDue _ h) rfl
  | carrierAppear p => exact next _ (o.appears p _ h) rfl
  | carrierLoss p => exact next _ (o.settle _ (o.lost p _ h)) rfl
  | silenceExpiry p => exact next _ (o.settle _ (o.silent p _ h)) rfl
  | rxFrameComplete p f => exact next _ (o.settle _ (o.receiveFrame p f _ h)) rfl
  | holdTimerExpiry p => exact next _ (o.settle _ (o.holdExpires p _ h)) rfl
  | holdRefreshTimer p => exact next _ (o.refresh p _ h) rfl
  | txComplete p => exact next _ (o.settle _ (o.sentFrame p _ h)) rfl
  | beaconTimer => exact next _ (o.beaconDue _ h) rfl
  | peerLossTimer st => exact next _ (o.settle _ (o.peerTimerExpires st _ h)) rfl
  | slotDeadline n => exact next _ (o.settle _ (o.deadline n _ h)) rfl
  | feedRecordComplete => exact next _ (o.settle _ (o.record _ h)) rfl
  | programReadyRise => exact next _ (o.ready _ h) rfl
  | programReadyFall => exact next _ (o.notReady _ h) rfl
  | endDrainTimer => exact next _ (o.settle _ (o.drainTimer _ h)) rfl
  | resendTimer => exact next _ (o.settle _ (o.resend _ h)) rfl
  | archiveRecordComplete => exact next _ (o.settle _ (o.archived _ h)) rfl
  | archiveReadyRise => exact next _ (o.settle _ (o.archive _ h)) rfl
  | archiveReadyFall => exact next _ (o.noArchive _ h) rfl
  | _ => exact next _ (o.row _ h) rfl

end CommandOps

/-- The law is kept by all that any command can do, and does not look at the queue. -/
structure Ops (P : State → Prop) : Prop extends BlockOps P where
  queue : ∀ q s, P s → P (s.withQueue q)
  reset : ∀ c s, P s → P (resetWith c s)
  loaded : ∀ bs c d s, s.csu.load ≠ .idle → checkBlock bs = .loaded c d → P s →
    P (applyLoad c d (s.onCsu fun u => { u with load := .idle }))
  armed : ∀ s, s.csu.takesLines = true → refuseArm s = none → P s →
    P (sendBeacon (enableLanes (fillRoster (armBlocks s))))
  zeroed : ∀ s, P s → P (zeroCounts s)
  clearAttn : ∀ m s, P s → P (s.onCsu fun u => { u with pendingAttn := clearClasses m u.pendingAttn })

namespace Ops

variable {P : State → Prop}

theorem commandOps (o : Ops P) (c : Instr) : CommandOps c P where
  toBlockOps := o.toBlockOps
  loaded := o.loaded
  zeroed := o.zeroed
  armed _ := o.armed
  clearAttn _ := o.clearAttn
  reset _ := o.reset

/-- A law kept by all that any command can do is kept by every step. -/
theorem step (o : Ops P) (s t : State) (h : P s) (e : step s = .next t) : P t := by
  unfold Machine.step at e
  split at e
  · exact Host.Outcome.next.inj e ▸
      o.reach _ _ (o.console s { s.csu with tx := sendCharacter s.csu.tx } rfl id h)
  · exact (o.commandOps _).exec e (o.queue _ _ h)

end Ops

end Sys2Proof.Machine
end

section
/-! The ring ports: what queueing and transmission leave of a port's sizes and of the law of its link
state, how a port leaves UP and comes to another link state; and then O59, every step keeps the link law. -/

namespace Sys2Proof.Machine

/-! ### Queueing and transmission -/

/-- From one port to another its queues stay within their sizes, and the law of its link state stays. -/
structure Port.Kept (x y : Port) : Prop where
  fits : x.Fits → y.Fits
  law : x.Law → y.Law

/-- Both ports are kept so. -/
def State.PortsKept (s t : State) : Prop := ∀ p, (s.port p).Kept (t.port p)

theorem Port.Kept.refl (x : Port) : x.Kept x := ⟨id, id⟩

theorem State.PortsKept.refl (s : State) : s.PortsKept s := fun _ => .refl _

theorem State.PortsKept.trans {s t u : State} (h : s.PortsKept t) (k : t.PortsKept u) :
    s.PortsKept u :=
  fun p => ⟨fun f => (k p).fits ((h p).fits f), fun l => (k p).law ((h p).law l)⟩

theorem State.onPort_kept {p : PortId} {f : Port → Port} {s : State}
    (h : (s.port p).Kept (f (s.port p))) : s.PortsKept (s.onPort p f) := by
  intro q
  rw [State.onPort_at]
  split
  next same => exact same ▸ h
  next => exact .refl _

theorem Foot.portsKept {ps : List Part} {s t : State} (h : Foot ps s t)
    (n : Part.ports ∉ ps := by decide) : s.PortsKept t := by
  intro p
  rw [h.port n p]
  exact .refl _

theorem State.countPort_kept (p : PortId) (f : PortCounts → PortCounts) (s : State) :
    s.PortsKept (s.countPort p f) :=
  State.onPort_kept ⟨fun h => { h with }, fun h => { h with }⟩

theorem up_not_quiet {x : Port} (up : x.link = .up) : ¬ (x.link = .down ∨ x.link = .listen) := by
  rw [up]
  exact nofun

theorem length_le_of_cons {α : Type} {xs rest : List α} {x : α} {n : Nat} (h : xs = x :: rest)
    (fits : xs.length ≤ n) : rest.length ≤ n := by
  rw [h, List.length_cons] at fits
  exact Nat.le_trans (Nat.le_succ _) fits

/-- The head of the link-local queue goes into the transmitter; a HOLD waits in UP alone. -/
theorem startLinkLocal_kept (p : PortId) (s : State) : s.PortsKept (startLinkLocal p s) := by
  unfold startLinkLocal
  split
  next rest _ queue =>
    exact State.onPort_kept ⟨fun h => { h with linkLocal := length_le_of_cons queue h.linkLocal },
      fun h => { h with
        hellos := fun n f m => h.hellos n f (queue ▸ List.mem_cons_of_mem _ m)
        quiet := fun _ f e => ⟨_, (Option.some.inj e).symm⟩ }⟩
  next sender t rest _ queue =>
    have up (h : (s.port p).Law) : (s.port p).link = .up := by
      refine Classical.byContradiction fun notUp => ?_
      exact absurd (h.hellos notUp (.hold sender t) (queue ▸ List.mem_cons_self)) nofun
    exact State.onPort_kept ⟨fun h => { h with linkLocal := length_le_of_cons queue h.linkLocal },
      fun h => { h with
        hellos := fun n f m => h.hellos n f (queue ▸ List.mem_cons_of_mem _ m)
        quiet := fun n => absurd n (up_not_quiet (up h)) }⟩
  · exact .refl _

/-- A frame joins a link-local queue that has room; a HOLD only in UP. -/
theorem Port.Kept.linkLocal {x : Port} {f : LinkFrame} (room : x.linkQueue.length < 2)
    (up : f = .hello ∨ x.link = .up) : x.Kept { x with linkQueue := x.linkQueue ++ [f] } where
  fits h := { h with linkLocal := by rw [List.length_append, List.length_singleton]; exact room }
  law h := { h with
    hellos := fun n g m => by
      obtain old | new := List.mem_append.1 m
      · exact h.hellos n g old
      · exact (List.mem_singleton.1 new).trans (up.resolve_right n) }

theorem offerHello_kept (p : PortId) (s : State) : s.PortsKept (offerHello p s) := by
  unfold offerHello
  dsimp only
  split
  · exact .refl _
  · split
    · exact State.countPort_kept _ _ _
    next room =>
      exact (State.onPort_kept (.linkLocal (Nat.lt_of_not_le room) (.inl rfl))).trans
        (startLinkLocal_kept _ _)

theorem offerHold_kept (p : PortId) (t : Nat) (s : State) : s.PortsKept (offerHold p t s) := by
  unfold offerHold
  split
  next up =>
    split
    · exact State.countPort_kept _ _ _
    next room =>
      exact (State.onPort_kept (.linkLocal (Nat.lt_of_not_le room) (.inr up))).trans
        (startLinkLocal_kept _ _)
  · exact .refl _

theorem startCongestion_kept (p : PortId) (s : State) (up : (s.port p).link = .up) :
    s.PortsKept (startCongestion p s) :=
  (State.onPort_kept ⟨fun h => { h with }, fun h =>
    { h with notUp := fun n => absurd up n }⟩).trans (offerHold_kept _ _ _)

/-- A port that ceases to be congested. -/
theorem Port.Kept.calm (x : Port) : x.Kept { x with refreshAt := none } where
  fits h := { h with }
  law h := { h with
    notUp := fun n => by
      obtain ⟨queue, lane1, lane2, seen1, seen2, held, -⟩ := h.notUp n
      exact ⟨queue, lane1, lane2, seen1, seen2, held, rfl⟩ }

theorem endCongestion_kept (p : PortId) (s : State) : s.PortsKept (endCongestion p s) :=
  (State.onPort_kept (.calm _)).trans (offerHold_kept _ _ _)

theorem lane2Rose_kept (p : PortId) (s : State) (up : (s.port p).link = .up) :
    s.PortsKept (lane2Rose p s) := by
  unfold lane2Rose
  split
  · exact startCongestion_kept _ _ up
  · exact .refl _

theorem lane2Fell_kept (p : PortId) (s : State) : s.PortsKept (lane2Fell p s) := by
  unfold lane2Fell
  split
  · exact endCongestion_kept _ _
  · exact .refl _

theorem dropStale_kept (p : PortId) (s : State) : s.PortsKept (dropStale p s) := by
  refine State.onPort_kept ⟨fun h => { h with lane1 := ?_ }, fun h =>
    { h with lane1 := fun idle => ?_ }⟩
  · exact Nat.le_trans (List.dropWhile_sublist _).length_le h.lane1
  · show (s.port p).queue1.dropWhile s.staleFrame = []
    rw [h.lane1 idle]
    rfl

theorem Port.Law.up_of_queue0 {x : Port} (h : x.Law) (n : x.queue0 ≠ []) : x.link = .up := by
  refine Classical.byContradiction fun notUp => ?_
  exact n (h.notUp notUp).1

theorem Port.Law.up_of_lane {x : Port} (h : x.Law) (n : x.lane1 ≠ .closed ∨ x.lane2 ≠ .closed) :
    x.link = .up := by
  refine Classical.byContradiction fun notUp => ?_
  obtain ⟨-, lane1, lane2, -⟩ := h.notUp notUp
  exact n.elim (· lane1) (· lane2)

theorem Port.Law.opened_of_queue1 {x : Port} (h : x.Law) (n : x.queue1 ≠ []) : x.lane1 = .opened := by
  refine Classical.byContradiction fun notOpen => ?_
  exact n (h.lane1 notOpen)

theorem Port.Law.opened_of_queue2 {x : Port} (h : x.Law) (n : x.queue2 ≠ []) : x.lane2 = .opened := by
  refine Classical.byContradiction fun notOpen => ?_
  exact n (h.lane2 notOpen)

theorem Port.Law.up_of_queue1 {x : Port} (h : x.Law) (n : x.queue1 ≠ []) : x.link = .up :=
  h.up_of_lane (.inl (by rw [h.opened_of_queue1 n]; exact nofun))

theorem Port.Law.up_of_queue2 {x : Port} (h : x.Law) (n : x.queue2 ≠ []) : x.link = .up :=
  h.up_of_lane (.inr (by rw [h.opened_of_queue2 n]; exact nofun))

/-- The head of a lane queue goes into the transmitter (R63). -/
theorem Port.Kept.start0 {x : Port} {f : Bytes} {rest : List Bytes} (q : x.queue0 = f :: rest) :
    x.Kept { x with queue0 := rest, tx := some (.ring 0 f) } where
  fits h := { h with lane0 := length_le_of_cons q h.lane0 }
  law h := by
    have up := h.up_of_queue0 (q ▸ List.cons_ne_nil _ _)
    exact { h with notUp := fun n => absurd up n, quiet := fun n => absurd n (up_not_quiet up) }

theorem Port.Kept.start1 {x : Port} {f : Bytes} {rest : List Bytes} (q : x.queue1 = f :: rest) :
    x.Kept { x with queue1 := rest, tx := some (.ring 1 f) } where
  fits h := { h with lane1 := length_le_of_cons q h.lane1 }
  law h := by
    have waits : x.queue1 ≠ [] := q ▸ List.cons_ne_nil _ _
    exact { h with
      quiet := fun n => absurd n (up_not_quiet (h.up_of_queue1 waits))
      lane1 := fun idle => absurd (h.opened_of_queue1 waits) idle }

theorem Port.Kept.start2 {x : Port} {f : Bytes} {rest : List Bytes} (q : x.queue2 = f :: rest) :
    x.Kept { x with queue2 := rest, tx := some (.ring 2 f) } where
  fits h := { h with lane2 := length_le_of_cons q h.lane2 }
  law h := by
    have waits : x.queue2 ≠ [] := q ▸ List.cons_ne_nil _ _
    exact { h with
      quiet := fun n => absurd n (up_not_quiet (h.up_of_queue2 waits))
      lane2 := fun idle => absurd (h.opened_of_queue2 waits) idle }

theorem kick_kept (p : PortId) (s : State) : s.PortsKept (kick p s) := by
  unfold kick
  dsimp only
  split
  · exact .refl _
  · split
    · exact startLinkLocal_kept _ _
    next queue => exact State.onPort_kept (.start0 queue)
    next queue => exact (State.onPort_kept (.start1 queue)).trans (dropStale_kept _ _)
    next queue =>
      split
      · exact .refl _
      · exact (State.onPort_kept (.start2 queue)).trans (lane2Fell_kept _ _)
    · exact .refl _

/-- A frame joins a lane that passes frames and has room (R61). -/
theorem Port.Kept.join {x : Port} {lane : Nat} (f : Bytes) (q : x.offer lane = .queued) :
    x.Kept (x.join lane f) := by
  unfold Port.offer at q
  split at q
  · exact nomatch q
  next passes =>
    split at q
    · exact nomatch q
    next room =>
      rw [Bool.not_eq_true, Bool.not_eq_false'] at passes
      unfold Port.laneOpen at passes
      unfold laneCapacity Port.laneQueue at room
      unfold Port.join
      split at room
      · have up : x.link = .up := eq_of_beq passes
        exact ⟨fun h => { h with lane0 := by rw [List.length_append]; exact Nat.lt_of_not_le room },
          fun h => { h with notUp := fun n => absurd up n }⟩
      · have opened : x.lane1 = .opened := eq_of_beq (Bool.and_eq_true_iff.1 passes).2
        exact ⟨fun h => { h with lane1 := by rw [List.length_append]; exact Nat.lt_of_not_le room },
          fun h => { h with lane1 := fun idle => absurd opened idle }⟩
      next n0 n1 =>
        have opened : x.lane2 = .opened := by
          split at passes
          · exact absurd rfl n0
          · exact absurd rfl n1
          · exact eq_of_beq (Bool.and_eq_true_iff.1 passes).2
        exact ⟨fun h => { h with lane2 := by rw [List.length_append]; exact Nat.lt_of_not_le room },
          fun h => { h with lane2 := fun idle => absurd opened idle }⟩

theorem afterJoin_kept (p : PortId) (lane : Nat) (s : State) (up : (s.port p).link = .up) :
    s.PortsKept (afterJoin p lane s) := by
  unfold afterJoin
  split
  · exact .refl _
  · split
    · exact dropStale_kept _ _
    · exact .refl _
  · exact lane2Rose_kept _ _ up

theorem Port.up_of_queued {x : Port} {lane : Nat} (q : x.offer lane = .queued) : x.link = .up := by
  unfold Port.offer at q
  split at q
  · exact nomatch q
  next passes =>
    rw [Bool.not_eq_true, Bool.not_eq_false'] at passes
    unfold Port.laneOpen at passes
    split at passes
    · exact eq_of_beq passes
    · exact eq_of_beq (Bool.and_eq_true_iff.1 passes).1
    · exact eq_of_beq (Bool.and_eq_true_iff.1 passes).1

theorem offerFrame_kept (p : PortId) (lane : Nat) (f : Bytes) (s : State) :
    s.PortsKept (offerFrame p lane f s) := by
  unfold offerFrame
  split
  · exact .refl _
  · exact State.countPort_kept _ _ _
  next queued =>
    have up : ((s.onPort p fun x => x.join lane f).port p).link = .up := by
      rw [State.onPort_port, (Port.join_steady lane f _).link]
      exact Port.up_of_queued queued
    exact ((State.onPort_kept (.join f queued)).trans (afterJoin_kept _ _ _ up)).trans
      (kick_kept _ _)

/-! ### Lanes and holds -/

/-- A lane in its new state holds frames only where it is OPEN: one that leaves OPEN is flushed (R60). -/
theorem laneIdle_moved {before after : LaneState} {q : List Bytes} (h : laneIdle before q) :
    laneIdle after (if leavesOpen before after then [] else q) := by
  intro idle
  cases leaves : leavesOpen before after with
  | true => rfl
  | false =>
    refine h fun opened => ?_
    rw [leavesOpen, opened, bne_iff_ne.2 idle] at leaves
    exact nomatch leaves

theorem Port.Kept.setLanes {x : Port} (l1 l2 : LaneState) (up : x.link = .up) :
    x.Kept (x.setLanes l1 l2) where
  fits h := { h with
    lane1 := by
      show (if leavesOpen x.lane1 l1 then [] else x.queue1).length ≤ 64
      split
      · exact Nat.zero_le _
      · exact h.lane1
    lane2 := by
      show (if leavesOpen x.lane2 l2 then [] else x.queue2).length ≤ 128
      split
      · exact Nat.zero_le _
      · exact h.lane2 }
  law h := { h with
    notUp := fun n => absurd up n
    lane1 := laneIdle_moved h.lane1
    lane2 := laneIdle_moved h.lane2 }

theorem moveLanes_kept (p : PortId) (l1 l2 : LaneState) (s : State) (up : (s.port p).link = .up) :
    s.PortsKept (moveLanes p l1 l2 s) := by
  have moved := (State.onPort_kept (f := fun x => x.setLanes l1 l2) (.setLanes l1 l2 up)).trans
    (lane2Fell_kept p _)
  unfold moveLanes
  dsimp only
  split
  · exact moved
  · exact moved.trans (offerHello_kept _ _)

theorem enablePort_kept (p : PortId) (s : State) : s.PortsKept (enablePort p s) := by
  unfold enablePort
  dsimp only
  split
  next up _ => exact moveLanes_kept _ _ _ _ up
  · exact .refl _

theorem keepUp_kept (p : PortId) (h : Neighbour) (s : State) (up : (s.port p).link = .up) :
    s.PortsKept (keepUp p h s) := by
  have heard : (s.port p).Kept
      { (s.port p).heard h s.silenceDue with seen1 := h.enable1, seen2 := h.enable2 } := by
    have known : true = ((s.port p).link == .barred || (s.port p).link == .up) := by rw [up]; rfl
    exact ⟨fun f => { f with }, fun l =>
      { l with
        notUp := fun n => absurd up n
        neighbour := known
        silence := known }⟩
  refine (State.onPort_kept (f := fun x =>
    { x.heard h s.silenceDue with seen1 := h.enable1, seen2 := h.enable2 }) heard).trans
    (moveLanes_kept p _ _ _ ?_)
  rw [State.onPort_port]
  exact up

theorem releaseLane2_kept (p : PortId) (s : State) : s.PortsKept (releaseLane2 p s) :=
  (State.onPort_kept ⟨fun h => { h with }, fun h =>
    { h with
      notUp := fun n => by
        obtain ⟨queue, lane1, lane2, seen1, seen2, -, calm⟩ := h.notUp n
        exact ⟨queue, lane1, lane2, seen1, seen2, rfl, calm⟩ }⟩).trans (kick_kept _ _)

theorem obeyHold_kept (p : PortId) (t : Nat) (s : State) (up : (s.port p).link = .up) :
    s.PortsKept (obeyHold p t s) := by
  unfold obeyHold
  split
  · exact (State.countPort_kept _ _ _).trans (releaseLane2_kept _ _)
  · exact State.onPort_kept ⟨fun h => { h with }, fun h => { h with notUp := fun n => absurd up n }⟩

theorem holdTaken_kept (p : PortId) (bs : Bytes) (s : State) : s.PortsKept (holdTaken p bs s) := by
  unfold holdTaken
  dsimp only
  split
  · exact State.countPort_kept _ _ _
  · split
    · exact .refl _
    · exact State.countPort_kept _ _ _
    · exact State.countPort_kept _ _ _
    next up =>
      split
      · exact obeyHold_kept _ _ _ up
      · exact State.countPort_kept _ _ _

/-! ### Leaving UP -/

/-- What `leaveUp` does once the port has been changed itself keeps both ports. -/
theorem leaveUp_kept (p : PortId) (dest : LinkState) (s : State) :
    (s.onPort p fun x => x.leave dest).PortsKept (leaveUp p dest s) := by
  unfold leaveUp
  dsimp only
  refine .trans ?_ ((startLinkLocal_kept _ _).trans (raiseAttn_foot _ _ _).portsKept)
  split
  · split
    · exact offerHold_kept _ _ _
    · exact .refl _
  · refine .trans ?_ (offerHello_kept _ _)
    split
    · exact offerHold_kept _ _ _
    · exact .refl _

theorem leaveUp_steady (p : PortId) (dest : LinkState) (s : State) :
    (s.onPort p fun x => x.leave dest).Steady (leaveUp p dest s) := by
  unfold leaveUp
  dsimp only
  refine .trans ?_ ((startLinkLocal_steady _ _).trans (raiseAttn_foot _ _ _).steady)
  split
  · split
    · exact offerHold_steady _ _ _
    · exact .refl _
  · refine .trans ?_ (offerHello_steady _ _)
    split
    · exact offerHold_steady _ _ _
    · exact .refl _

/-- A port without anything of UP: queues empty, lanes CLOSED, seen mask empty, lane 2 not held, no
congestion, and no HOLD that waits (R55). -/
structure Port.Emptied (x : Port) : Prop where
  queue0 : x.queue0 = []
  queue1 : x.queue1 = []
  queue2 : x.queue2 = []
  lane1 : x.lane1 = .closed
  lane2 : x.lane2 = .closed
  seen1 : x.seen1 = false
  seen2 : x.seen2 = false
  held : x.heldUntil = none
  calm : x.refreshAt = none
  hellos : ∀ f ∈ x.linkQueue, f = .hello

/-- Only a HELLO is in transmission. -/
def Port.OnlyHello (x : Port) : Prop := ∀ f, x.tx = some f → ∃ b, f = .hello b

theorem Port.Law.emptied {x : Port} (h : x.Law) (notUp : x.link ≠ .up) : x.Emptied := by
  obtain ⟨queue0, lane1, lane2, seen1, seen2, held, calm⟩ := h.notUp notUp
  exact ⟨queue0, h.lane1 (by rw [lane1]; exact nofun), h.lane2 (by rw [lane2]; exact nofun), lane1,
    lane2, seen1, seen2, held, calm, h.hellos notUp⟩

theorem Port.leave_emptied (x : Port) (dest : LinkState) : (x.leave dest).Emptied where
  queue0 := rfl
  queue1 := rfl
  queue2 := rfl
  lane1 := rfl
  lane2 := rfl
  seen1 := rfl
  seen2 := rfl
  held := rfl
  calm := rfl
  hellos f m := by
    obtain ⟨-, hello⟩ := List.mem_filter.1 m
    cases f with
    | hello => rfl
    | hold _ _ => exact nomatch hello

/-- A port keeps free of UP, and of frames other than HELLO in its transmitter. -/
def Port.StaysEmptied (x y : Port) : Prop := x.Emptied → y.Emptied ∧ (x.OnlyHello → y.OnlyHello)

theorem startLinkLocal_emptied (p : PortId) (s : State) :
    (s.port p).StaysEmptied ((startLinkLocal p s).port p) := by
  intro e
  unfold startLinkLocal
  split
  next queue =>
    rw [State.onPort_port]
    exact ⟨{ e with hellos := fun f m => e.hellos f (queue ▸ List.mem_cons_of_mem _ m) },
      fun _ f tx => ⟨_, (Option.some.inj tx).symm⟩⟩
  next sender t _ _ queue =>
    exact absurd (e.hellos (.hold sender t) (queue ▸ List.mem_cons_self)) nofun
  · exact ⟨e, id⟩

theorem offerHello_emptied (p : PortId) (s : State) :
    (s.port p).StaysEmptied ((offerHello p s).port p) := by
  intro e
  unfold offerHello
  dsimp only
  split
  · exact ⟨e, id⟩
  · split
    · rw [State.countPort, State.onPort_port]
      exact ⟨{ e with }, id⟩
    · have joined : (s.port p).StaysEmptied
          ((s.onPort p fun x => { x with linkQueue := x.linkQueue ++ [.hello] }).port p) := by
        rw [State.onPort_port]
        refine fun e => ⟨{ e with hellos := fun f m => ?_ }, id⟩
        obtain old | new := List.mem_append.1 m
        · exact e.hellos f old
        · exact List.mem_singleton.1 new
      obtain ⟨e', only⟩ := joined e
      obtain ⟨e'', only'⟩ := startLinkLocal_emptied p _ e'
      exact ⟨e'', only' ∘ only⟩

/-- What is done to the other port leaves this one. -/
theorem State.onPort_apart (p : PortId) (f : Port → Port) (s : State) :
    (s.onPort (other p) f).port p = s.port p := by
  cases p <;> rfl

theorem startLinkLocal_other (p : PortId) (s : State) :
    (startLinkLocal (other p) s).port p = s.port p := by
  unfold startLinkLocal
  split
  · exact State.onPort_apart _ _ _
  · exact State.onPort_apart _ _ _
  · rfl

/-- A HOLD offered to the other port leaves this one. -/
theorem offerHold_other (p : PortId) (t : Nat) (s : State) :
    (offerHold (other p) t s).port p = s.port p := by
  unfold offerHold
  split
  · split
    · exact State.onPort_apart _ _ _
    · rw [startLinkLocal_other, State.onPort_apart]
  · rfl

/-- A port that leaves UP is free of it, and sends no frame but a HELLO if it sent none before. -/
theorem leaveUp_emptied (p : PortId) (dest : LinkState) (s : State) :
    ((leaveUp p dest s).port p).Emptied ∧
      ((s.port p).OnlyHello → ((leaveUp p dest s).port p).OnlyHello) := by
  have left : ((s.onPort p fun x => x.leave dest).port p).Emptied ∧
      ((s.port p).OnlyHello → ((s.onPort p fun x => x.leave dest).port p).OnlyHello) := by
    rw [State.onPort_port]
    exact ⟨Port.leave_emptied _ _, id⟩
  have held : (((if (s.port p).congested then
      offerHold (other p) 0 (s.onPort p fun x => x.leave dest)
      else s.onPort p fun x => x.leave dest)).port p).Emptied ∧
      ((s.port p).OnlyHello → ((if (s.port p).congested then
      offerHold (other p) 0 (s.onPort p fun x => x.leave dest)
      else s.onPort p fun x => x.leave dest).port p).OnlyHello) := by
    split
    · rw [offerHold_other]; exact left
    · exact left
  obtain ⟨e, only⟩ := held
  unfold leaveUp
  dsimp only
  show ((startLinkLocal p _).port p).Emptied ∧ (_ → ((startLinkLocal p _).port p).OnlyHello)
  split
  · obtain ⟨e', only'⟩ := startLinkLocal_emptied p _ e
    exact ⟨e', only' ∘ only⟩
  · obtain ⟨e', only'⟩ := offerHello_emptied p _ e
    obtain ⟨e'', only''⟩ := startLinkLocal_emptied p _ e'
    exact ⟨e'', only'' ∘ only' ∘ only⟩

/-! ### The link law, port by port -/

/-- Of what a port learnt of its link: its state, its carrier and its lanes are the same. -/
structure Port.SamePlace (x y : Port) : Prop where
  link : y.link = x.link
  carrier : y.carrier = x.carrier
  lane1 : y.lane1 = x.lane1
  lane2 : y.lane2 = x.lane2

theorem Port.Steady.samePlace {x y : Port} (h : x.Steady y) : x.SamePlace y :=
  ⟨h.link, h.carrier, h.lane1, h.lane2⟩

theorem Port.SamePlace.trans {x y z : Port} (h : x.SamePlace y) (k : y.SamePlace z) : x.SamePlace z :=
  ⟨k.link.trans h.link, k.carrier.trans h.carrier, k.lane1.trans h.lane1, k.lane2.trans h.lane2⟩

/-- What the link law says of one port, in a station that is unconfigured or not, its lanes enabled or not. -/
structure Port.Placed (unconfigured enabled : Bool) (x : Port) : Prop where
  law : x.Law
  down : unconfigured = true → x.link = .down
  listen : unconfigured = false → x.carrier = true → x.link ≠ .down
  lanes : enabled = false → x.lane1 = .closed ∧ x.lane2 = .closed

theorem linkLaw_iff (s : State) :
    LinkLaw s ↔ ∀ p, (s.port p).Placed s.unconfigured s.lku.enabled := by
  constructor
  · intro h p
    cases p with
    | a => exact ⟨h.portA, fun u => (h.down u).1, fun u => (h.listen u).1, fun e =>
        ⟨(h.lanes e).1, (h.lanes e).2.1⟩⟩
    | b => exact ⟨h.portB, fun u => (h.down u).2, fun u => (h.listen u).2, fun e =>
        (h.lanes e).2.2⟩
  · intro h
    have a := h .a
    have b := h .b
    exact ⟨a.law, b.law, fun u => ⟨a.down u, b.down u⟩, fun u => ⟨a.listen u, b.listen u⟩,
      fun e => ⟨(a.lanes e).1, (a.lanes e).2, b.lanes e⟩⟩

/-- A port that keeps its law and what it learnt of its link keeps its place. -/
theorem Port.Placed.kept {u e : Bool} {x y : Port} (h : x.Placed u e) (k : x.Kept y)
    (st : x.SamePlace y) : y.Placed u e where
  law := k.law h.law
  down := st.link ▸ h.down
  listen := st.link ▸ st.carrier ▸ h.listen
  lanes := st.lane1 ▸ st.lane2 ▸ h.lanes

/-- What the two ports share of the link law is the same. -/
structure State.SameLink (s t : State) : Prop where
  unconfigured : t.unconfigured = s.unconfigured
  enabled : t.lku.enabled = s.lku.enabled

theorem State.SameLink.trans {s t u : State} (h : s.SameLink t) (k : t.SameLink u) : s.SameLink u :=
  ⟨k.unconfigured.trans h.unconfigured, k.enabled.trans h.enabled⟩

theorem Foot.unconfigured {ps : List Part} {s t : State} (h : Foot ps s t)
    (n : Part.tlu ∉ ps := by decide) : t.unconfigured = s.unconfigured := by
  rw [State.unconfigured, h.tlu n]
  rfl

theorem Foot.sameLink {ps : List Part} {s t : State} (h : Foot ps s t)
    (a : Part.tlu ∉ ps := by decide) (b : Part.link ∉ ps := by decide) : s.SameLink t :=
  ⟨h.unconfigured a, (h.link b).1⟩

theorem LinkLaw.kept {s t : State} (h : LinkLaw s) (k : s.PortsKept t)
    (st : ∀ p, (s.port p).SamePlace (t.port p)) (l : s.SameLink t) : LinkLaw t := by
  rw [linkLaw_iff] at h ⊢
  rw [l.unconfigured, l.enabled]
  exact fun p => (h p).kept (k p) (st p)

/-- A law of the link that is read off the ports, the station state and the lanes' enabling. -/
theorem LinkLaw.of_foot {ps : List Part} {s t : State} (h : LinkLaw s) (f : Foot ps s t)
    (a : Part.ports ∉ ps := by decide) (b : Part.tlu ∉ ps := by decide)
    (c : Part.link ∉ ps := by decide) : LinkLaw t :=
  h.kept (f.portsKept a) (fun p => (f.steady a p).samePlace) (f.sameLink b c)

/-! ### An event of one port -/

/-- The other port is kept in its place, as is what both share. -/
structure State.Apart (p : PortId) (s t : State) : Prop where
  kept : (s.port (other p)).Kept (t.port (other p))
  place : (s.port (other p)).SamePlace (t.port (other p))
  link : s.SameLink t

theorem State.Apart.trans {p : PortId} {s t u : State} (h : s.Apart p t) (k : t.Apart p u) :
    s.Apart p u :=
  ⟨⟨k.kept.fits ∘ h.kept.fits, k.kept.law ∘ h.kept.law⟩, h.place.trans k.place, h.link.trans k.link⟩

theorem State.onPort_other_apart (p : PortId) (f : Port → Port) (s : State) :
    s.Apart p (s.onPort p f) := by
  refine ⟨?_, ?_, (State.onPort_foot p f s).sameLink⟩
  · rw [State.onPort_other]
    exact .refl _
  · rw [State.onPort_other]
    exact (Port.Steady.refl _).samePlace

theorem State.PortsKept.apart {s t : State} (k : s.PortsKept t) (st : s.Steady t) (l : s.SameLink t)
    (p : PortId) : s.Apart p t :=
  ⟨k _, (st _).samePlace, l⟩

theorem Foot.apart {ps : List Part} {s t : State} (f : Foot ps s t) (p : PortId)
    (a : Part.ports ∉ ps := by decide) (b : Part.tlu ∉ ps := by decide)
    (c : Part.link ∉ ps := by decide) : s.Apart p t :=
  (f.portsKept a).apart (f.steady a) (f.sameLink b c) p

/-- An event of one port: this one in its place, the other kept. -/
theorem LinkLaw.of_port {s t : State} (p : PortId) (h : LinkLaw s) (k : s.Apart p t)
    (this : (t.port p).Placed s.unconfigured s.lku.enabled) : LinkLaw t := by
  rw [linkLaw_iff] at h ⊢
  rw [k.link.unconfigured, k.link.enabled]
  intro q
  by_cases same : q = p
  · exact same ▸ this
  · have : q = other p := by
      cases p <;> cases q
      · exact absurd rfl same
      · rfl
      · rfl
      · exact absurd rfl same
    exact this ▸ (h _).kept k.kept k.place

/-- A port outside DOWN stands in a configured station. -/
theorem Port.Placed.configured {u e : Bool} {x : Port} (h : x.Placed u e) (n : x.link ≠ .down) :
    u = false := by
  refine Classical.byContradiction fun unconfigured => ?_
  exact n (h.down (Bool.not_eq_false _ ▸ unconfigured))

/-! ### Leaving UP and entering another state -/

theorem leaveUp_apart (p : PortId) (dest : LinkState) (s : State) : s.Apart p (leaveUp p dest s) := by
  have left := State.onPort_other_apart p (fun x => x.leave dest) s
  have whole := (leaveUp_foot p dest s).sameLink
  refine left.trans ⟨leaveUp_kept p dest s _, (leaveUp_steady p dest s _).samePlace, ?_⟩
  exact ⟨whole.unconfigured.trans left.link.unconfigured.symm,
    whole.enabled.trans left.link.enabled.symm⟩

theorem leaveUp_carrier (p : PortId) (dest : LinkState) (s : State) :
    ((leaveUp p dest s).port p).carrier = (s.port p).carrier := by
  rw [(leaveUp_steady p dest s p).carrier, State.onPort_port]
  rfl

theorem enterUp_apart (p : PortId) (h : Neighbour) (s : State) : s.Apart p (enterUp p h s) :=
  (State.onPort_other_apart p _ s).trans
    ((offerHello_kept p _).apart (offerHello_steady p _) (offerHello_foot p _).sameLink p)

/-- The port as `barPort` leaves it. -/
def Port.bar (x : Port) (old new : BarCause) (h : Neighbour) (due : Time) : Port :=
  { x.heard h due with
    link := .barred
    cause := new
    counts := { x.counts with
      barredDigest := upIf (new.digest && !old.digest) x.counts.barredDigest
      barredDupid := upIf (new.dupid && !old.dupid) x.counts.barredDupid } }

theorem raiseIf_foot (b : Bool) (c : AttnClass) (x : Cause) (s : State) :
    Foot [.attn] s (if b then raiseAttn c x s else s) := by
  split
  · exact raiseAttn_foot _ _ _
  · exact .refl _ _

/-- Beside the port, `barPort` raises attentions. -/
theorem barPort_bar (p : PortId) (old new : BarCause) (h : Neighbour) (s : State) :
    Foot [.attn] (s.onPort p fun x => x.bar old new h s.silenceDue) (barPort p old new h s) :=
  (raiseIf_foot _ _ _ _).seq (raiseIf_foot _ _ _ _)

theorem barPort_apart (p : PortId) (old new : BarCause) (h : Neighbour) (s : State) :
    s.Apart p (barPort p old new h s) :=
  (State.onPort_other_apart p _ s).trans ((barPort_bar p old new h s).apart p)

theorem listenHello_apart (p : PortId) (h : Neighbour) (s : State) :
    s.Apart p (listenHello p h s) := by
  unfold listenHello
  split
  · exact enterUp_apart _ _ _
  · exact barPort_apart _ _ _ _ _

theorem goDown_apart (p : PortId) (s : State) : s.Apart p (goDown p s) := by
  have aborted := State.onPort_other_apart p Port.abort s
  have left : s.Apart p (if (s.port p).link = .up then leaveUp p .down (s.onPort p Port.abort)
      else startLinkLocal p (s.onPort p Port.abort)) := by
    split
    · exact aborted.trans (leaveUp_apart _ _ _)
    · exact aborted.trans ((startLinkLocal_kept _ _).apart (startLinkLocal_steady _ _)
        (startLinkLocal_foot _ _).sameLink p)
  unfold goDown
  dsimp only
  exact left.trans (State.onPort_other_apart p _ _)

/-- A port free of UP, BARRED with a cause by a HELLO. -/
theorem barPort_placed {p : PortId} {old new : BarCause} {h : Neighbour} {s : State} {e : Bool}
    (free : (s.port p).Emptied) (carrier : (s.port p).carrier = true) (barred : new.clear = false) :
    ((barPort p old new h s).port p).Placed false e := by
  rw [(barPort_bar p old new h s).port (by decide), State.onPort_port]
  refine ⟨?_, nofun, fun _ _ => nofun, fun _ => ⟨free.lane1, free.lane2⟩⟩
  exact {
    notUp := fun _ => ⟨free.queue0, free.lane1, free.lane2, free.seen1, free.seen2, free.held,
      free.calm⟩
    hellos := fun _ => free.hellos
    quiet := fun n => n.elim nofun nofun
    lane1 := fun _ => free.queue1
    lane2 := fun _ => free.queue2
    neighbour := rfl
    silence := rfl
    cause := barred
    carrier := fun _ => carrier }

/-- A port free of UP enters it by a HELLO (R57). -/
theorem enterUp_placed {p : PortId} {h : Neighbour} {s : State}
    (free : (s.port p).Emptied) (carrier : (s.port p).carrier = true) :
    ((enterUp p h s).port p).Placed false s.lku.enabled := by
  refine Port.Placed.kept ?_ (offerHello_kept p _ p) (offerHello_steady p _ p).samePlace
  rw [State.onPort_port]
  refine ⟨?_, nofun, fun _ _ => nofun, fun off => ?_⟩
  · exact {
      notUp := fun n => absurd rfl n
      hellos := fun n => absurd rfl n
      quiet := fun n => absurd n (up_not_quiet rfl)
      lane1 := fun _ => free.queue1
      lane2 := fun _ => free.queue2
      neighbour := rfl
      silence := rfl
      cause := rfl
      carrier := fun _ => carrier }
  · rw [off]
    exact ⟨rfl, rfl⟩

/-- A HELLO taken in LISTEN, or as if in LISTEN, brings the port to its place (R50). -/
theorem listenHello_placed {p : PortId} {h : Neighbour} {s : State}
    (free : (s.port p).Emptied) (carrier : (s.port p).carrier = true) :
    ((listenHello p h s).port p).Placed false s.lku.enabled := by
  unfold listenHello
  split
  · exact enterUp_placed free carrier
  next barred => exact barPort_placed free carrier (Bool.eq_false_iff.2 barred)

/-- A port goes to DOWN, or straight on to LISTEN, in a configured station (R53). -/
theorem goDown_placed {p : PortId} {s : State} (e : Bool)
    (free : (s.port p).link ≠ .up → (s.port p).Emptied) :
    ((goDown p s).port p).Placed false e := by
  have aborted : ((s.onPort p Port.abort).port p).OnlyHello := by
    rw [State.onPort_port]
    intro f tx
    change txInDown (s.port p).tx = some f at tx
    unfold txInDown at tx
    split at tx
    next b _ => exact ⟨b, (Option.some.inj tx).symm⟩
    all_goals exact nomatch tx
  have down : ∀ t : State, (t.port p).Emptied → (t.port p).OnlyHello →
      ((t.onPort p fun x => { x with
        link := if x.carrier then .listen else .down
        cause := {}
        neighbour := none
        silence := none }).port p).Placed false e := by
    intro t empty only
    rw [State.onPort_port]
    have quiet : (if (t.port p).carrier then LinkState.listen else .down) = .down ∨
        (if (t.port p).carrier then LinkState.listen else .down) = .listen := by
      split
      · exact .inr rfl
      · exact .inl rfl
    refine ⟨?_, nofun, fun _ carrier => ?_, fun _ => ⟨empty.lane1, empty.lane2⟩⟩
    · exact {
        notUp := fun _ => ⟨empty.queue0, empty.lane1, empty.lane2, empty.seen1, empty.seen2, empty.held,
          empty.calm⟩
        hellos := fun _ => empty.hellos
        quiet := fun _ => only
        lane1 := fun _ => empty.queue1
        lane2 := fun _ => empty.queue2
        neighbour := by
          dsimp only
          split <;> rfl
        silence := by
          dsimp only
          split <;> rfl
        cause := by
          dsimp only
          split <;> rfl
        carrier := fun n => by
          refine Classical.byContradiction fun without => ?_
          exact n (if_neg without) }
    · change (t.port p).carrier = true at carrier
      dsimp only
      rw [if_pos carrier]
      exact nofun
  unfold goDown
  dsimp only
  split
  · obtain ⟨empty, only⟩ := leaveUp_emptied p .down (s.onPort p Port.abort)
    exact down _ empty (only aborted)
  next notUp =>
    have empty : ((s.onPort p Port.abort).port p).Emptied := by
      rw [State.onPort_port]
      exact { free notUp with }
    obtain ⟨empty', only⟩ := startLinkLocal_emptied p _ empty
    exact down _ empty' (only aborted)

end Sys2Proof.Machine
end

section
/-! Every step keeps the queues of the ports within their sizes, and the link law (O59). -/

namespace Sys2Proof.Machine

/-! ### The sizes of the ports' queues -/

/-- The queues of both ports are within their sizes. -/
def State.PortsFit (s : State) : Prop := ∀ p, (s.port p).Fits

theorem State.PortsKept.fit {s t : State} (k : s.PortsKept t) (h : s.PortsFit) : t.PortsFit :=
  fun p => (k p).fits (h p)

theorem State.onPort_fit {p : PortId} {f : Port → Port} {s : State}
    (k : (s.port p).Fits → (f (s.port p)).Fits) (h : s.PortsFit) : (s.onPort p f).PortsFit := by
  intro q
  rw [State.onPort_at]
  split
  · exact k (h p)
  · exact h q

theorem frames_portsFit (ps : List Part) (n : Part.ports ∉ ps := by decide) :
    Frames ps State.PortsFit :=
  fun _ _ f h => (f.portsKept n).fit h

theorem leave_fits (x : Port) (dest : LinkState) (h : x.Fits) : (x.leave dest).Fits where
  linkLocal := Nat.le_trans (List.length_filter_le _ _) h.linkLocal
  lane0 := Nat.zero_le _
  lane1 := Nat.zero_le _
  lane2 := Nat.zero_le _

theorem leaveUp_fit (p : PortId) (dest : LinkState) (s : State) (h : s.PortsFit) :
    (leaveUp p dest s).PortsFit :=
  (leaveUp_kept p dest s).fit (State.onPort_fit (leave_fits _ _) h)

theorem enterUp_fit (p : PortId) (n : Neighbour) (s : State) (h : s.PortsFit) :
    (enterUp p n s).PortsFit :=
  (offerHello_kept p _).fit (State.onPort_fit (fun f => { f with }) h)

theorem barPort_fit (p : PortId) (old new : BarCause) (n : Neighbour) (s : State) (h : s.PortsFit) :
    (barPort p old new n s).PortsFit :=
  (barPort_bar p old new n s).portsKept.fit (State.onPort_fit (fun f => { f with }) h)

theorem listenHello_fit (p : PortId) (n : Neighbour) (s : State) (h : s.PortsFit) :
    (listenHello p n s).PortsFit := by
  unfold listenHello
  split
  · exact enterUp_fit _ _ _ h
  · exact barPort_fit _ _ _ _ _ h

theorem helloTaken_fit (p : PortId) (n : Neighbour) (s : State) (h : s.PortsFit) :
    (helloTaken p n s).PortsFit := by
  unfold helloTaken
  dsimp only
  split
  · exact h
  · exact listenHello_fit _ _ _ h
  · split
    · exact enterUp_fit _ _ _ h
    · exact barPort_fit _ _ _ _ _ h
  next up =>
    split
    · split
      · exact (keepUp_kept p n s up).fit h
      · exact listenHello_fit _ _ _ (leaveUp_fit _ _ _ ((State.countPort_kept _ _ _).fit h))
    · exact barPort_fit _ _ _ _ _ (leaveUp_fit _ _ _ h)

theorem goDown_fit (p : PortId) (s : State) (h : s.PortsFit) : (goDown p s).PortsFit := by
  have aborted : (s.onPort p Port.abort).PortsFit := State.onPort_fit (fun f => { f with }) h
  unfold goDown
  dsimp only
  refine State.onPort_fit (fun f => { f with }) ?_
  split
  · exact leaveUp_fit _ _ _ aborted
  · exact (startLinkLocal_kept _ _).fit aborted

/-- The schedule of HELLO places one in each queue. -/
theorem offerHellos_kept (s : State) : s.PortsKept (offerHello .b (offerHello .a s)) :=
  (offerHello_kept _ _).trans (offerHello_kept _ _)

theorem State.onLku_hello_kept (t : Option Time) (s : State) :
    s.PortsKept (s.onLku fun k => { k with helloAt := t }) :=
  fun p => by cases p <;> exact .refl _

theorem helloDue_kept (s : State) : s.PortsKept (helloDue s) := by
  unfold helloDue
  split
  · exact .refl _
  · exact ((State.reach_foot _ _).portsKept.trans (State.onLku_hello_kept _ _)).trans
      (offerHellos_kept _)

theorem holdExpires_kept (p : PortId) (s : State) : s.PortsKept (holdExpires p s) := by
  unfold holdExpires
  split
  · exact .refl _
  · exact ((State.reach_foot _ _).portsKept.trans (State.countPort_kept _ _ _)).trans
      (releaseLane2_kept _ _)

/-- The frame in transmission has left. -/
theorem Port.Kept.sent (x : Port) (c : PortCounts) : x.Kept { x with tx := none, counts := c } where
  fits h := { h with }
  law h := { h with quiet := fun _ _ e => nomatch e }

theorem frameSent_kept (p : PortId) (s : State) : s.PortsKept (frameSent p s) := by
  unfold frameSent
  split
  · exact .refl _
  next f _ =>
    exact (State.onPort_kept (f := fun x => { x with tx := none, counts := countSent f x.counts })
      (.sent _ _)).trans (kick_kept _ _)

/-- A refresh runs only in UP, where it may start anew. -/
theorem refreshExpires_kept (p : PortId) (s : State) : s.PortsKept (refreshExpires p s) := by
  unfold refreshExpires
  split
  · exact .refl _
  next t runs =>
    refine ((State.reach_foot t s).portsKept.trans (State.onPort_kept ⟨fun f => { f with }, fun l =>
      { l with notUp := fun n => ?_ }⟩)).trans (offerHold_kept _ _ _)
    obtain ⟨-, -, -, -, -, -, calm⟩ := l.notUp n
    exact nomatch runs.symm.trans calm

theorem portOps_portsFit : PortOps State.PortsFit where
  countPort _ _ _ := (State.countPort_kept _ _ _).fit
  offer _ _ _ _ := (offerFrame_kept _ _ _ _).fit
  helloTaken := helloTaken_fit
  holdTaken _ _ _ := (holdTaken_kept _ _ _).fit
  helloDue _ := (helloDue_kept _).fit
  appears _ _ := State.onPort_fit fun f => { f with }
  lost p s h := by
    have off : (s.onPort p fun x => { x with carrier := false }).PortsFit :=
      State.onPort_fit (fun f => { f with }) h
    unfold carrierLost
    dsimp only
    split
    · exact off
    · exact goDown_fit _ _ ((State.countPort_kept _ _ _).fit off)
  silent p s h := by
    unfold silenceExpires
    split
    · exact h
    · exact goDown_fit _ _ ((State.countPort_kept _ _ _).fit ((State.reach_foot _ _).portsKept.fit h))
  holdExpires _ _ := (holdExpires_kept _ _).fit
  refresh _ _ := (refreshExpires_kept _ _).fit
  sentFrame _ _ := (frameSent_kept _ _).fit

/-! ### ARM, LOAD and CLEAR COUNTS at the ports -/

theorem deliver_kept (k : RingKind) (own : Bool) (bs : Bytes) (s : State) :
    s.PortsKept (deliver k own bs s) := by
  have foot := deliver_foot k own bs s
  cases k <;> cases own <;> exact foot.portsKept (by decide)

theorem originate_kept (k : RingKind) (body : Bytes) (s : State) :
    s.PortsKept (originate k body s) := by
  unfold originate
  split
  · exact (State.countDlu_foot _ _).portsKept
  · unfold originateFrame
    dsimp only
    refine .trans (.trans (.trans ?_ (offerFrame_kept _ _ _ _)) (offerFrame_kept _ _ _ _))
      (deliver_kept _ _ _ _)
    exact (State.onDlu_foot _ _).portsKept

theorem sendBeacon_kept (s : State) : s.PortsKept (sendBeacon s) :=
  (originate_kept _ _ _).trans (State.onPcu_foot _ _).portsKept

theorem sendBeacon_steady (s : State) : s.Steady (sendBeacon s) :=
  (originate_steady _ _ _).trans (State.onPcu_foot _ _).steady

theorem State.onLku_enabled_kept (s : State) :
    s.PortsKept (s.onLku fun k => { k with enabled := true }) :=
  fun p => by cases p <;> exact .refl _

theorem enableLanes_kept (s : State) : s.PortsKept (enableLanes s) := by
  unfold enableLanes
  split
  · exact .refl _
  · exact ((State.onLku_enabled_kept s).trans (enablePort_kept _ _)).trans (enablePort_kept _ _)

theorem fillBlocks_ports (s : State) : s.PortsKept (fillRoster (armBlocks s)) :=
  State.PortsKept.trans (fun p => by cases p <;> exact .refl _) (fillRoster_foot _).portsKept

theorem armed_kept (s : State) :
    s.PortsKept (sendBeacon (enableLanes (fillRoster (armBlocks s)))) :=
  ((fillBlocks_ports s).trans (enableLanes_kept _)).trans (sendBeacon_kept _)

theorem zeroCounts_kept (s : State) : s.PortsKept (zeroCounts s) :=
  fun p => by cases p <;> exact ⟨fun f => { f with }, fun l => { l with }⟩

theorem loadBlocks_kept (c : Configuration) (d : Word) (s : State) :
    s.PortsKept (loadBlocks c d s) :=
  fun p => by cases p <;> exact .refl _

/-- Ports that listen where they have carrier. -/
theorem Port.listenIfCarrier_fits (x : Port) (h : x.Fits) : x.listenIfCarrier.Fits := by
  unfold Port.listenIfCarrier
  split
  · exact { h with }
  · exact h

theorem startHello_fit (s : State) (h : s.PortsFit) : (startHello s).PortsFit := by
  refine (offerHellos_kept _).fit fun p => ?_
  cases p with
  | a => exact Port.listenIfCarrier_fits _ (h .a)
  | b => exact Port.listenIfCarrier_fits _ (h .b)

theorem applyLoad_fit (c : Configuration) (d : Word) (s : State) (h : s.PortsFit) :
    (applyLoad c d s).PortsFit := by
  have blocks := (loadBlocks_kept c d s).fit h
  unfold applyLoad
  dsimp only
  refine (archiveSettle_foot _).portsKept.fit ?_
  split
  · exact startHello_fit _ blocks
  · exact blocks

theorem emptyPort_fits (c : Bool) : Port.Fits { carrier := c } :=
  ⟨Nat.zero_le _, Nat.zero_le _, Nat.zero_le _, Nat.zero_le _⟩

theorem ops_portsFit : Ops State.PortsFit where
  toPortOps := portOps_portsFit
  toTimelineOps := .of_frames (frames_portsFit _)
  toCaptureOps := .of_frames (frames_portsFit _)
  toDeliveryOps := .of_frames (frames_portsFit _)
  toRosterOps := .of_frames (frames_portsFit _)
  toCueOps := .of_frames (frames_portsFit _)
  toOutletOps := .of_frames (frames_portsFit _)
  toKeepOps := .of_frames (frames_portsFit _)
  toConsoleOps := .of_frames (frames_portsFit _)
  reach _ _ := (State.reach_foot _ _).portsKept.fit
  boundary _ _ := (boundaryFrom_foot _ _).portsKept.fit
  queue _ _ := (withQueue_foot _ _).portsKept.fit
  reset _ s _ := fun p => by
    cases p with
    | a => exact emptyPort_fits s.lku.portA.carrier
    | b => exact emptyPort_fits s.lku.portB.carrier
  loaded _ c d s _ _ h := applyLoad_fit c d _ ((State.onCsu_foot _ _).portsKept.fit h)
  armed s _ _ := (armed_kept s).fit
  zeroed s := (zeroCounts_kept s).fit
  clearAttn _ _ := (State.onCsu_foot _ _).portsKept.fit

/-! ### The link law -/

theorem frames_linkLaw (ps : List Part) (a : Part.ports ∉ ps := by decide)
    (b : Part.tlu ∉ ps := by decide) (c : Part.link ∉ ps := by decide) : Frames ps LinkLaw :=
  fun _ _ f h => h.of_foot f a b c

/-- An operation of the queues and the transmitters keeps the link law. -/
theorem LinkLaw.queueing {ps : List Part} {s t : State} (h : LinkLaw s) (k : s.PortsKept t)
    (st : s.Steady t) (f : Foot ps s t) (a : Part.tlu ∉ ps := by decide)
    (b : Part.link ∉ ps := by decide) : LinkLaw t :=
  h.kept k (fun p => (st p).samePlace) (f.sameLink a b)

theorem LinkLaw.port {s : State} (h : LinkLaw s) (p : PortId) :
    (s.port p).Placed s.unconfigured s.lku.enabled :=
  (linkLaw_iff s).1 h p

/-- What was learnt of the link stays, but for the lanes. -/
theorem moveLanes_steady (p : PortId) (l1 l2 : LaneState) (s : State) :
    (s.onPort p fun x => x.setLanes l1 l2).Steady (moveLanes p l1 l2 s) := by
  unfold moveLanes
  dsimp only
  split
  · exact lane2Fell_steady _ _
  · exact (lane2Fell_steady _ _).trans (offerHello_steady _ _)

/-- Lanes 1 and 2 of a port move; the other port, and what both share, stay. -/
theorem moveLanes_apart (p : PortId) (l1 l2 : LaneState) (s : State) (up : (s.port p).link = .up) :
    s.Apart p (moveLanes p l1 l2 s) := by
  refine ⟨moveLanes_kept p l1 l2 s up _, ?_, (moveLanes_foot p l1 l2 s).sameLink⟩
  have steady := moveLanes_steady p l1 l2 s (other p)
  rw [State.onPort_other] at steady
  exact steady.samePlace

/-- A port in UP whose lanes move stays in its place, where lanes not enabled do not open. -/
theorem moveLanes_placed {p : PortId} {l1 l2 : LaneState} {s : State} {u e : Bool}
    (up : (s.port p).link = .up) (h : (s.port p).Placed u e)
    (off : e = false → l1 = .closed ∧ l2 = .closed) :
    ((moveLanes p l1 l2 s).port p).Placed u e := by
  have steady := moveLanes_steady p l1 l2 s p
  rw [State.onPort_port] at steady
  refine ⟨(moveLanes_kept p l1 l2 s up p).law h.law, ?_, ?_, ?_⟩
  · rw [steady.link]
    exact h.down
  · rw [steady.link, steady.carrier]
    exact h.listen
  · rw [steady.lane1, steady.lane2]
    exact off

theorem keepUp_linkLaw (p : PortId) (n : Neighbour) (s : State) (up : (s.port p).link = .up)
    (h : LinkLaw s) : LinkLaw (keepUp p n s) := by
  have known : true = ((s.port p).link == .barred || (s.port p).link == .up) := by rw [up]; rfl
  have placed := h.port p
  have stays : ∀ f : Port → Port, (f (s.port p)).link = (s.port p).link →
      ((s.onPort p f).port p).link = .up := fun f e => by
    rw [State.onPort_port, e]
    exact up
  refine LinkLaw.of_port p h ((State.onPort_other_apart p _ s).trans
    (moveLanes_apart p _ _ _ (stays _ rfl))) (moveLanes_placed (stays _ rfl) ?_ fun off => ?_)
  · rw [State.onPort_port]
    exact ⟨{ placed.law with
      notUp := fun n => absurd up n
      neighbour := known
      silence := known }, placed.down, placed.listen, placed.lanes⟩
  · obtain ⟨lane1, lane2⟩ := placed.lanes off
    rw [lane1, lane2, off]
    exact ⟨rfl, rfl⟩

theorem leaveUp_sameLink (p : PortId) (dest : LinkState) (s : State) :
    s.SameLink (leaveUp p dest s) :=
  (leaveUp_foot p dest s).sameLink

theorem helloTaken_linkLaw (p : PortId) (n : Neighbour) (s : State) (h : LinkLaw s) :
    LinkLaw (helloTaken p n s) := by
  have placed := h.port p
  have configured (d : (s.port p).link ≠ .down) := placed.configured d
  unfold helloTaken
  dsimp only
  split
  · exact h
  next listen =>
    have notDown : (s.port p).link ≠ .down := by rw [listen]; exact nofun
    have free := placed.law.emptied (by rw [listen]; exact nofun)
    refine h.of_port p (listenHello_apart _ _ _) ?_
    rw [configured notDown]
    exact listenHello_placed free (placed.law.carrier notDown)
  next barred =>
    have notDown : (s.port p).link ≠ .down := by rw [barred]; exact nofun
    have free := placed.law.emptied (by rw [barred]; exact nofun)
    have carrier := placed.law.carrier notDown
    split
    · refine h.of_port p (enterUp_apart _ _ _) ?_
      rw [configured notDown]
      exact enterUp_placed free carrier
    next bars =>
      refine h.of_port p (barPort_apart _ _ _ _ _) ?_
      rw [configured notDown]
      exact barPort_placed free carrier (Bool.eq_false_iff.2 bars)
  next up =>
    have notDown : (s.port p).link ≠ .down := by rw [up]; exact nofun
    have carrier := placed.law.carrier notDown
    split
    · split
      · exact keepUp_linkLaw p n s up h
      · have counted : s.Apart p (s.countPort p fun c =>
            { c with neighbourChange := Machine.up c.neighbourChange }) := State.onPort_other_apart p _ s
        refine h.of_port p ((counted.trans (leaveUp_apart p .listen _)).trans
          (listenHello_apart _ _ _)) ?_
        rw [configured notDown, ← (counted.trans (leaveUp_apart p .listen _)).link.enabled]
        refine listenHello_placed (leaveUp_emptied _ _ _).1 ?_
        rw [leaveUp_carrier, State.countPort, State.onPort_port]
        exact carrier
    next bars =>
      refine h.of_port p ((leaveUp_apart p .barred s).trans (barPort_apart _ _ _ _ _)) ?_
      rw [configured notDown]
      refine barPort_placed (leaveUp_emptied _ _ _).1 ?_ (Bool.eq_false_iff.2 bars)
      rw [leaveUp_carrier]
      exact carrier

/-! ### Carrier, silence and timers -/

theorem State.onPort_place {p : PortId} {f : Port → Port} {s : State}
    (h : (s.port p).SamePlace (f (s.port p))) :
    ∀ q, (s.port q).SamePlace ((s.onPort p f).port q) := by
  intro q
  rw [State.onPort_at]
  split
  next same => exact same ▸ h
  next => exact (Port.Steady.refl _).samePlace

theorem releaseLane2_place (p : PortId) (s : State) :
    ∀ q, (s.port q).SamePlace ((releaseLane2 p s).port q) := fun q =>
  (State.onPort_place (f := fun x => { x with heldUntil := none }) ⟨rfl, rfl, rfl, rfl⟩ q).trans
    (kick_steady _ _ q).samePlace

theorem State.countPort_place (p : PortId) (f : PortCounts → PortCounts) (s : State) :
    ∀ q, (s.port q).SamePlace ((s.countPort p f).port q) :=
  fun q => (State.countPort_steady p f s q).samePlace

theorem obeyHold_place (p : PortId) (t : Nat) (s : State) :
    ∀ q, (s.port q).SamePlace ((obeyHold p t s).port q) := by
  unfold obeyHold
  split
  · exact fun q => (State.countPort_place _ _ _ q).trans (releaseLane2_place _ _ q)
  · exact State.onPort_place ⟨rfl, rfl, rfl, rfl⟩

theorem holdTaken_place (p : PortId) (bs : Bytes) (s : State) :
    ∀ q, (s.port q).SamePlace ((holdTaken p bs s).port q) := by
  have same : ∀ q, (s.port q).SamePlace (s.port q) := fun q => (Port.Steady.refl _).samePlace
  unfold holdTaken
  dsimp only
  split
  · exact State.countPort_place _ _ _
  · split
    · exact same
    · exact State.countPort_place _ _ _
    · exact State.countPort_place _ _ _
    · split
      · exact obeyHold_place _ _ _
      · exact State.countPort_place _ _ _

theorem holdExpires_place (p : PortId) (s : State) :
    ∀ q, (s.port q).SamePlace ((holdExpires p s).port q) := by
  intro q
  unfold holdExpires
  split
  · exact (Port.Steady.refl _).samePlace
  · refine .trans ?_ (releaseLane2_place _ _ q)
    refine .trans ?_ (State.countPort_place _ _ _ q)
    exact ((State.reach_foot _ _).steady (by decide) q).samePlace

theorem State.onLku_hello_steady (t : Option Time) (s : State) :
    s.Steady (s.onLku fun k => { k with helloAt := t }) :=
  fun p => by cases p <;> exact .refl _

theorem helloDue_steady (s : State) : s.Steady (helloDue s) := by
  unfold helloDue
  split
  · exact .refl _
  · refine .trans ?_ ((offerHello_steady _ _).trans (offerHello_steady _ _))
    exact (State.reach_foot _ _).steady.trans (State.onLku_hello_steady _ _)

theorem helloDue_sameLink (s : State) : s.SameLink (helloDue s) := by
  refine ⟨(helloDue_foot s).unconfigured, ?_⟩
  unfold helloDue
  split
  · rfl
  · rw [((offerHello_foot _ _).link (by decide)).1, ((offerHello_foot _ _).link (by decide)).1]
    rfl

theorem refreshExpires_steady (p : PortId) (s : State) : s.Steady (refreshExpires p s) := by
  unfold refreshExpires
  split
  · exact .refl _
  · refine .trans ?_ (offerHold_steady _ _ _)
    refine .trans (State.reach_foot _ _).steady (State.onPort_steady _ _ _ ?_)
    exact fun _ => ⟨rfl, rfl, rfl, rfl, rfl, rfl, rfl, rfl, rfl, rfl⟩

theorem frameSent_steady (p : PortId) (s : State) : s.Steady (frameSent p s) := by
  unfold frameSent
  split
  · exact .refl _
  · exact State.onPort_steady_then (kick_steady _ _)
      fun _ => ⟨rfl, rfl, rfl, rfl, rfl, rfl, rfl, rfl, rfl, rfl⟩

theorem goDown_linkLaw {p : PortId} {s t : State} (h : LinkLaw s) (k : s.Apart p t)
    (notDown : (s.port p).link ≠ .down) (free : (t.port p).link ≠ .up → (t.port p).Emptied) :
    LinkLaw (goDown p t) := by
  refine h.of_port p (k.trans (goDown_apart p t)) ?_
  rw [(h.port p).configured notDown]
  exact goDown_placed _ free

theorem carrierLost_linkLaw (p : PortId) (s : State) (h : LinkLaw s) :
    LinkLaw (carrierLost p s) := by
  have placed := h.port p
  unfold carrierLost
  dsimp only
  split
  next down =>
    refine h.of_port p (State.onPort_other_apart _ _ _) ?_
    rw [State.onPort_port]
    exact ⟨{ placed.law with carrier := fun n => absurd down n }, placed.down, fun _ => nofun,
      placed.lanes⟩
  next notDown =>
    refine goDown_linkLaw h ((State.onPort_other_apart p _ s).trans (State.onPort_other_apart p _ _))
      notDown fun notUp => ?_
    rw [State.countPort, State.onPort_port, State.onPort_port] at notUp ⊢
    exact { placed.law.emptied notUp with }

theorem silenceExpires_linkLaw (p : PortId) (s : State) (h : LinkLaw s) :
    LinkLaw (silenceExpires p s) := by
  have law := (h.port p).law
  unfold silenceExpires
  split
  · exact h
  next t runs =>
    have notDown : (s.port p).link ≠ .down := by
      intro down
      have silent := law.silence
      rw [runs, down] at silent
      exact nomatch silent
    refine goDown_linkLaw h (((State.reach_foot t s).apart p).trans (State.onPort_other_apart p _ _))
      notDown fun notUp => ?_
    rw [State.countPort, State.onPort_port] at notUp ⊢
    exact { law.emptied notUp with }

/-- A port in DOWN that enters LISTEN keeps the law, given carrier. -/
theorem Port.Law.listen {x : Port} (h : x.Law) (down : x.link = .down) :
    Port.Law { x with carrier := true, link := .listen } := by
  have neighbour := h.neighbour
  have silence := h.silence
  have cause := h.cause
  have notUp := h.notUp (by rw [down]; exact nofun)
  have hellos := h.hellos (by rw [down]; exact nofun)
  rw [down] at neighbour silence cause
  exact { h with
    notUp := fun _ => notUp
    hellos := fun _ => hellos
    quiet := fun _ => h.quiet (.inl down)
    neighbour := neighbour
    silence := silence
    cause := cause
    carrier := fun _ => rfl }

theorem Port.Law.withCarrier {x : Port} (h : x.Law) : Port.Law { x with carrier := true } :=
  { h with carrier := fun _ => rfl }

theorem carrierAppears_linkLaw (p : PortId) (s : State) (h : LinkLaw s) :
    LinkLaw (carrierAppears p s) := by
  have placed := h.port p
  refine h.of_port p (State.onPort_other_apart _ _ _) ?_
  rw [carrierAppears, State.onPort_port]
  by_cases enters : (s.port p).link = .down ∧ ¬ s.unconfigured
  · obtain ⟨down, configured⟩ := enters
    rw [if_pos ⟨down, configured⟩, Bool.eq_false_iff.2 configured]
    exact ⟨placed.law.listen down, nofun, fun _ _ => nofun, placed.lanes⟩
  · rw [if_neg enters]
    refine ⟨placed.law.withCarrier, placed.down, fun configured _ down => ?_, placed.lanes⟩
    exact enters ⟨down, by rw [configured]; exact nofun⟩

theorem portOps_linkLaw : PortOps LinkLaw where
  countPort p f s h := h.queueing (State.countPort_kept p f s) (State.countPort_steady _ _ _)
    (State.countPort_foot _ _ _)
  offer p l f s h := h.queueing (offerFrame_kept p l f s) (offerFrame_steady _ _ _ _)
    (offerFrame_foot _ _ _ _)
  helloTaken := helloTaken_linkLaw
  holdTaken p bs s h := h.kept (holdTaken_kept p bs s) (holdTaken_place _ _ _)
    (holdTaken_foot p bs s).sameLink
  helloDue s h := h.kept (helloDue_kept s) (fun p => (helloDue_steady s p).samePlace)
    (helloDue_sameLink s)
  appears := carrierAppears_linkLaw
  lost := carrierLost_linkLaw
  silent := silenceExpires_linkLaw
  holdExpires p s h := h.kept (holdExpires_kept p s) (holdExpires_place _ _)
    (holdExpires_foot p s).sameLink
  refresh p s h := h.queueing (refreshExpires_kept p s) (refreshExpires_steady p s)
    (refreshExpires_foot p s)
  sentFrame p s h := h.queueing (frameSent_kept p s) (frameSent_steady p s) (frameSent_foot p s)

/-! ### The station state and the link law -/

theorem endTaken_unconfigured (b : Word) (l : Index) (s : State) :
    (endTaken b l s).unconfigured = s.unconfigured := by
  unfold endTaken
  split
  next running _ =>
    split
    · rw [State.unconfigured, State.unconfigured, running]; rfl
    · rfl
  · split <;> rfl
  · split <;> rfl
  · rfl

/-- What the Timeline Unit does between LOAD and reset leaves a station configured. -/
theorem TimelineOps.of_unconfigured {P : State → Prop}
    (f : ∀ s t, Foot [.now, .tlu] s t → t.unconfigured = s.unconfigured → P s → P t) :
    TimelineOps P where
  note s u e := f _ _ (State.onTlu_foot (fun _ => u) s).grow (by rw [e]; rfl)
  adopt _ _ _ _ := f _ _ (adoptEpoch_foot _ _ _).grow rfl
  enterEnding _ s r := f _ _ (enterEnding_foot _ _).grow (by
    rw [State.unconfigured, State.unconfigured, r]; rfl)
  endTaken b l s := f _ _ (endTaken_foot _ _ _).grow (endTaken_unconfigured b l s)
  marked _ _ _ _ _ _ _ := f _ _ (State.onTlu_foot _ _).grow rfl
  lostRef _ _ := f _ _ (State.onTlu_foot _ _).grow rfl
  drainTimer s := f _ _ (drainTimerExpires_foot _).grow (by
    unfold drainTimerExpires
    split <;> rfl)
  done s _ e := f _ _ (State.onTlu_foot _ _).grow (by
    rw [State.unconfigured, State.unconfigured, e]; rfl)

/-- A boundary changes neither the station state nor the epoch. -/
theorem boundaryFrom_tlu (n : Word) (s : State) :
    ∃ i, (boundaryFrom n s).tlu = { s.tlu.atBoundary n with codedIndex := i } := by
  unfold boundaryFrom
  dsimp only
  generalize s.tlu.presents n = p
  generalize s.tlu.entersAt n = e
  rw [(feedSettle_foot _).tlu (by decide), (slotAt_foot _ _ _).tlu (by decide),
    (driverAt_foot _ _).tlu (by decide), (ageAt_foot _ _).tlu (by decide),
    (openPeriod_foot _ _).tlu (by decide)]
  obtain ⟨j, hj⟩ := closePeriod_tlu p (gradeAt p e (tluBoundary n s))
  rw [hj, (gradeAt_foot _ _ _).tlu (by decide), tluBoundary_tlu]
  exact ⟨j, rfl⟩

/-- RUNNING is entered from ARMED alone. -/
theorem Tlu.armed_of_entersAt {t : Tlu} {n : Word} (h : t.entersAt n = true) :
    t.station = .armed := by
  obtain ⟨armed, -⟩ := Bool.and_eq_true_iff.1 h
  exact eq_of_beq armed

theorem boundaryFrom_unconfigured (n : Word) (s : State) :
    (boundaryFrom n s).unconfigured = s.unconfigured := by
  obtain ⟨i, tlu⟩ := boundaryFrom_tlu n s
  rw [State.unconfigured, tlu, State.unconfigured]
  show ((if s.tlu.entersAt n then StationState.running else s.tlu.station) == .unconfigured) = _
  split
  next enters => rw [Tlu.armed_of_entersAt enters]; rfl
  next => rfl

theorem LinkLaw.of_ports {ps : List Part} {s t : State} (h : LinkLaw s) (f : Foot ps s t)
    (u : t.unconfigured = s.unconfigured) (a : Part.ports ∉ ps := by decide)
    (b : Part.link ∉ ps := by decide) : LinkLaw t :=
  h.kept (f.portsKept a) (fun p => (f.steady a p).samePlace) ⟨u, (f.link b).1⟩

/-! ### LOAD and ARM -/

/-- A port as its station becomes configured (R49). -/
theorem Port.Placed.listenIfCarrier {e : Bool} {x : Port} (h : x.Placed true e) :
    x.listenIfCarrier.Placed false e := by
  have down := h.down rfl
  unfold Port.listenIfCarrier
  split
  next with_ =>
    obtain ⟨_, carrier⟩ := with_
    have law := h.law.listen down
    rw [← carrier] at law
    exact ⟨law, nofun, fun _ _ => nofun, h.lanes⟩
  next without => exact ⟨h.law, nofun, fun _ carrier => absurd ⟨down, carrier⟩ without, h.lanes⟩

theorem startHello_placed {s : State} {e : Bool} (h : ∀ p, (s.port p).Placed true e) (p : PortId) :
    ((startHello s).port p).Placed false e := by
  refine Port.Placed.kept ?_ (offerHellos_kept _ p) (((offerHello_steady _ _ p).trans
    (offerHello_steady _ _ p))).samePlace
  cases p with
  | a => exact (h .a).listenIfCarrier
  | b => exact (h .b).listenIfCarrier

theorem startHello_enabled (s : State) : (startHello s).lku.enabled = s.lku.enabled := by
  unfold startHello
  rw [((offerHello_foot _ _).link (by decide)).1, ((offerHello_foot _ _).link (by decide)).1]
  rfl

theorem loadBlocks_port (c : Configuration) (d : Word) (s : State) (p : PortId) :
    (loadBlocks c d s).port p = s.port p := by cases p <;> rfl

theorem applyLoad_linkLaw (c : Configuration) (d : Word) (s : State) (h : LinkLaw s) :
    LinkLaw (applyLoad c d s) := by
  unfold applyLoad
  dsimp only
  refine LinkLaw.of_foot ?_ (archiveSettle_foot _)
  rw [linkLaw_iff]
  split
  next first =>
    intro p
    have configured : (startHello (loadBlocks c d s)).unconfigured = false :=
      (startHello_foot _).unconfigured
    rw [configured, startHello_enabled]
    refine startHello_placed (fun q => ?_) p
    rw [loadBlocks_port]
    exact first ▸ h.port q
  next again =>
    intro p
    have configured : s.unconfigured = false := Bool.eq_false_iff.2 again
    have placed := h.port p
    rw [configured] at placed
    rw [loadBlocks_port]
    exact placed

theorem enablePort_linkLaw (p : PortId) (s : State) (on : s.lku.enabled = true) (h : LinkLaw s) :
    LinkLaw (enablePort p s) := by
  unfold enablePort
  dsimp only
  split
  next up _ =>
    exact h.of_port p (moveLanes_apart p _ _ s up)
      (moveLanes_placed up (h.port p) fun off => nomatch on.symm.trans off)
  · exact h

theorem enablePort_enabled (p : PortId) (s : State) :
    (enablePort p s).lku.enabled = s.lku.enabled :=
  ((enablePort_foot p s).link (by decide)).1

theorem enableLanes_linkLaw (s : State) (h : LinkLaw s) : LinkLaw (enableLanes s) := by
  unfold enableLanes
  split
  · exact h
  · have enabled : LinkLaw (s.onLku fun k => { k with enabled := true }) := by
      rw [linkLaw_iff]
      intro p
      have placed := h.port p
      cases p <;> exact ⟨placed.law, placed.down, placed.listen, nofun⟩
    refine enablePort_linkLaw _ _ ?_ (enablePort_linkLaw _ _ rfl enabled)
    rw [enablePort_enabled]
    rfl

theorem configured_of_arm {s : State} (r : refuseArm s = none) : s.unconfigured = false := by
  refine Classical.byContradiction fun unconfigured => ?_
  have station : s.tlu.station = .unconfigured := by
    simpa only [State.unconfigured, Bool.not_eq_false, beq_iff_eq] using unconfigured
  unfold refuseArm at r
  rw [if_pos (by rw [station]; exact ⟨nofun, nofun⟩)] at r
  exact nomatch r

theorem fillBlocks_linkLaw (s : State) (r : refuseArm s = none) (h : LinkLaw s) :
    LinkLaw (fillRoster (armBlocks s)) := by
  refine LinkLaw.of_foot ?_ (fillRoster_foot _)
  have configured := configured_of_arm r
  rw [linkLaw_iff]
  intro p
  have placed := h.port p
  rw [configured] at placed
  cases p <;> exact placed

theorem sendBeacon_linkLaw (s : State) (h : LinkLaw s) : LinkLaw (sendBeacon s) :=
  h.queueing (sendBeacon_kept s) (sendBeacon_steady s) (sendBeacon_foot s)

theorem emptyPort_law (c : Bool) : Port.Law { carrier := c } where
  notUp _ := ⟨rfl, rfl, rfl, rfl, rfl, rfl, rfl⟩
  hellos _ _ m := nomatch m
  quiet _ _ tx := nomatch tx
  lane1 _ := rfl
  lane2 _ := rfl
  neighbour := rfl
  silence := rfl
  cause := rfl
  carrier n := absurd rfl n

theorem resetWith_linkLaw (x : Cause) (s : State) : LinkLaw (resetWith x s) := by
  rw [linkLaw_iff]
  intro p
  cases p with
  | a => exact ⟨emptyPort_law s.lku.portA.carrier, fun _ => rfl, nofun, fun _ => ⟨rfl, rfl⟩⟩
  | b => exact ⟨emptyPort_law s.lku.portB.carrier, fun _ => rfl, nofun, fun _ => ⟨rfl, rfl⟩⟩

theorem zeroCounts_place (s : State) : ∀ p, (s.port p).SamePlace ((zeroCounts s).port p) :=
  fun p => by cases p <;> exact ⟨rfl, rfl, rfl, rfl⟩

theorem ops_linkLaw : Ops LinkLaw where
  toPortOps := portOps_linkLaw
  toTimelineOps := .of_unconfigured fun _ _ f u h => h.of_ports f u
  toCaptureOps := .of_frames (frames_linkLaw _)
  toDeliveryOps := .of_frames (frames_linkLaw _)
  toRosterOps := .of_frames (frames_linkLaw _)
  toCueOps := .of_frames (frames_linkLaw _)
  toOutletOps := .of_frames (frames_linkLaw _)
  toKeepOps := .of_frames (frames_linkLaw _)
  toConsoleOps := .of_frames (frames_linkLaw _)
  reach _ _ h := h.of_foot (State.reach_foot _ _)
  boundary _ _ h := h.of_ports (boundaryFrom_foot _ _) (boundaryFrom_unconfigured _ _)
  queue _ _ h := h.of_foot (withQueue_foot _ _)
  reset x s _ := resetWith_linkLaw x s
  loaded _ c d s _ _ h := applyLoad_linkLaw c d _ (h.of_foot (State.onCsu_foot _ _))
  armed s _ r h := sendBeacon_linkLaw _ (enableLanes_linkLaw _ (fillBlocks_linkLaw s r h))
  zeroed s h := h.kept (zeroCounts_kept s) (zeroCounts_place s) ⟨rfl, rfl⟩
  clearAttn _ _ h := h.of_foot (State.onCsu_foot _ _)

/-- Settles O59: the link law is kept by each operation of each block (`ops_linkLaw`). -/
theorem linkLawKept : Obligations.LinkLawKept :=
  fun s t h e => ops_linkLaw.step s t h e

end Sys2Proof.Machine
end

section
/-! What every operation leaves of the attention classes: their number, and the first cause of a class that
is pending, until CLEAR ATTN or a reset. -/

namespace Sys2Proof.Machine

/-- Between two states the tables of the attention classes keep their sizes, and a pending class keeps its
first cause. -/
structure State.CausesKept (s t : State) : Prop where
  pending : t.csu.pendingAttn.length = s.csu.pendingAttn.length
  raised : t.csu.attnRaised.length = s.csu.attnRaised.length
  first : ∀ i c, s.csu.pendingAttn.getD i none = some c → t.csu.pendingAttn.getD i none = some c

theorem State.CausesKept.refl (s : State) : s.CausesKept s := ⟨rfl, rfl, fun _ _ => id⟩

theorem State.CausesKept.trans {s t u : State} (h : s.CausesKept t) (k : t.CausesKept u) :
    s.CausesKept u :=
  ⟨k.pending.trans h.pending, k.raised.trans h.raised, fun i c p => k.first i c (h.first i c p)⟩

theorem State.CausesKept.of_eq {s t : State} (p : t.csu.pendingAttn = s.csu.pendingAttn)
    (r : t.csu.attnRaised = s.csu.attnRaised) : s.CausesKept t :=
  ⟨by rw [p], by rw [r], fun _ _ => p ▸ id⟩

theorem Foot.causesKept {ps : List Part} {s t : State} (f : Foot ps s t)
    (n : Part.attn ∉ ps := by decide) : s.CausesKept t :=
  .of_eq (f.attn n).1 (f.attn n).2

theorem raiseAttn_causesKept (c : AttnClass) (x : Cause) (s : State) :
    s.CausesKept (raiseAttn c x s) where
  pending := modifyAt_length _ _ _
  raised := modifyAt_length _ _ _
  first i y first := by
    change (modifyAt (fun o => some (o.getD x)) c.rank s.csu.pendingAttn).getD i none = some y
    rw [List.getD_eq_getElem?_getD] at first ⊢
    rw [modifyAt_getElem?]
    split
    · cases there : s.csu.pendingAttn[i]? with
      | none => rw [there] at first; exact nomatch first
      | some o =>
        rw [there] at first
        change o = some y at first
        rw [first]
        rfl
    · exact first

theorem raiseIf_causesKept (b : Bool) (c : AttnClass) (x : Cause) (s : State) :
    s.CausesKept (if b then raiseAttn c x s else s) := by
  split
  · exact raiseAttn_causesKept _ _ _
  · exact .refl _

/-! ### The ports -/

theorem leaveUp_causesKept (p : PortId) (d : LinkState) (s : State) :
    s.CausesKept (leaveUp p d s) := by
  unfold leaveUp
  dsimp only
  refine .trans ?_ (raiseAttn_causesKept _ _ _)
  refine .trans ?_ (startLinkLocal_foot _ _).causesKept
  split
  · split
    · exact ((State.onPort_foot _ _ _).seq (offerHold_foot _ _ _).grow).causesKept
    · exact (State.onPort_foot _ _ _).causesKept
  · refine .trans ?_ (offerHello_foot _ _).causesKept
    split
    · exact ((State.onPort_foot _ _ _).seq (offerHold_foot _ _ _).grow).causesKept
    · exact (State.onPort_foot _ _ _).causesKept

theorem goDown_causesKept (p : PortId) (s : State) : s.CausesKept (goDown p s) := by
  have aborted : s.CausesKept (s.onPort p Port.abort) := (State.onPort_foot _ _ _).causesKept
  unfold goDown
  dsimp only
  refine .trans ?_ (State.onPort_foot _ _ _).causesKept
  split
  · exact aborted.trans (leaveUp_causesKept _ _ _)
  · exact aborted.trans (startLinkLocal_foot _ _).causesKept

theorem barPort_causesKept (p : PortId) (old new : BarCause) (h : Neighbour) (s : State) :
    s.CausesKept (barPort p old new h s) := by
  unfold barPort
  dsimp only
  exact ((State.onPort_foot _ _ _).causesKept.trans (raiseIf_causesKept _ _ _ _)).trans
    (raiseIf_causesKept _ _ _ _)

theorem listenHello_causesKept (p : PortId) (h : Neighbour) (s : State) :
    s.CausesKept (listenHello p h s) := by
  unfold listenHello
  split
  · exact (enterUp_foot _ _ _).causesKept
  · exact barPort_causesKept _ _ _ _ _

theorem helloTaken_causesKept (p : PortId) (h : Neighbour) (s : State) :
    s.CausesKept (helloTaken p h s) := by
  unfold helloTaken
  dsimp only
  split
  · exact .refl _
  · exact listenHello_causesKept _ _ _
  · split
    · exact (enterUp_foot _ _ _).causesKept
    · exact barPort_causesKept _ _ _ _ _
  · split
    · split
      · exact (keepUp_foot _ _ _).causesKept
      · exact ((State.countPort_foot _ _ _).causesKept.trans (leaveUp_causesKept _ _ _)).trans
          (listenHello_causesKept _ _ _)
    · exact (leaveUp_causesKept _ _ _).trans (barPort_causesKept _ _ _ _ _)

theorem carrierLost_causesKept (p : PortId) (s : State) : s.CausesKept (carrierLost p s) := by
  have lost : s.CausesKept (s.onPort p fun x => { x with carrier := false }) :=
    (State.onPort_foot _ _ _).causesKept
  unfold carrierLost
  dsimp only
  split
  · exact lost
  · exact (lost.trans (State.countPort_foot _ _ _).causesKept).trans (goDown_causesKept _ _)

theorem silenceExpires_causesKept (p : PortId) (s : State) : s.CausesKept (silenceExpires p s) := by
  unfold silenceExpires
  split
  · exact .refl _
  · exact ((State.reach_foot _ _).causesKept.trans (State.countPort_foot _ _ _).causesKept).trans
      (goDown_causesKept _ _)

/-! ### The capture lines -/

theorem lineError_causesKept (k : Nat) (f : CaptureFlag) (s : State) :
    s.CausesKept (lineError k f s) := by
  have counted : s.CausesKept (s.onLine k fun l => (l.countError f).withFlag f true) :=
    (State.onCfr_foot _ _).causesKept
  unfold lineError
  dsimp only
  split
  · exact counted
  · exact counted.trans (raiseAttn_causesKept _ _ _)

theorem lineErrors_causesKept (k : Nat) (f : CaptureFlag) (n : Nat) (s : State) :
    s.CausesKept (lineErrors k f n s) := by
  induction n generalizing s with
  | zero => exact .refl _
  | succ n ih => exact (lineError_causesKept _ _ _).trans (ih _)

theorem receiveBits_causesKept (k n : Nat) (bits : List Bool) (s : State) :
    s.CausesKept (receiveBits k n bits s) := by
  induction n generalizing bits s with
  | zero => exact .refl _
  | succ n ih =>
    have onLine (f : CaptureLine → CaptureLine) (u : State) : u.CausesKept (u.onLine k f) :=
      (State.onCfr_foot _ _).causesKept
    unfold receiveBits
    split
    · exact .refl _
    · dsimp only
      split
      · exact onLine _ _
      · exact (onLine _ _).trans (ih _ _)
    · split
      · exact ((lineError_causesKept _ _ _).trans (onLine _ _)).trans (ih _ _)
      · split
        · exact onLine _ _
        · refine .trans ?_ (ih _ _)
          unfold frameComplete
          split
          · exact onLine _ _
          · exact lineError_causesKept _ _ _

theorem takeLine_causesKept (k : Nat) (s : State) : s.CausesKept (takeLine k s) := by
  have fed : s.CausesKept (feedPeriod k (s.captureLine k).yields s) :=
    (State.onCfr_foot _ _).causesKept
  unfold takeLine
  refine fed.trans ?_
  unfold afterTake
  dsimp only
  split
  · exact .refl _
  · exact .refl _
  · exact lineError_causesKept _ _ _
  · exact .trans (State.onCfr_foot _ _).causesKept (lineErrors_causesKept _ _ _ _)

theorem takeAll_causesKept (s : State) : s.CausesKept (takeAll s) := by
  unfold takeAll
  split
  · exact .refl _
  · exact (((takeLine_causesKept _ _).trans (takeLine_causesKept _ _)).trans
      (takeLine_causesKept _ _)).trans (takeLine_causesKept _ _)

theorem clockStops_causesKept (k : Nat) (s : State) : s.CausesKept (clockStops k s) := by
  unfold clockStops
  split
  · exact .refl _
  · exact .refl _
  · exact (State.onCfr_foot _ _).causesKept

/-! ### The roster, the outlets and the spool -/

theorem violate_causesKept (v : Violation) (track st : Nat) (s : State) :
    s.CausesKept (violate v track st s) :=
  (State.onRst_foot _ _).causesKept.trans (raiseAttn_causesKept _ _ _)

theorem rosterAir_causesKept (origin : Nat) (a : AirBody) (s : State) :
    s.CausesKept (rosterAir origin a s) := by
  have learnt (f : Rst → Rst) : s.CausesKept (acceptAir origin a (s.onRst f)) :=
    (State.onRst_foot _ _).causesKept.trans (acceptAir_foot _ _ _).causesKept
  unfold rosterAir
  split
  · exact .refl _
  · split
    · exact (State.onRst_foot _ _).causesKept
    · split
      · exact violate_causesKept _ _ _ _
      · exact learnt _
      · exact learnt _
      · exact learnt _
      · exact (acceptAir_foot _ _ _).causesKept

theorem makeLocal_causesKept (e : PatchEntry) (s : State) : s.CausesKept (makeLocal e s) := by
  unfold makeLocal
  dsimp only
  split
  · split
    · exact violate_causesKept _ _ _ _
    · exact (State.onRst_foot _ _).causesKept
  · exact .refl _
  · exact (State.onRst_foot _ _).causesKept.trans (violate_causesKept _ _ _ _)
  · exact violate_causesKept _ _ _ _
  · exact violate_causesKept _ _ _ _

theorem makeLocals_causesKept (es : List (Nat × PatchEntry)) (s : State) :
    s.CausesKept (makeLocals es s) := by
  induction es generalizing s with
  | nil => exact .refl _
  | cons e es ih => exact (makeLocal_causesKept _ _).trans (ih _)

theorem rosterCue_causesKept (i : Nat) (v : CueValue) (s : State) :
    s.CausesKept (rosterCue i v s) := by
  unfold rosterCue
  split
  · exact .refl _
  · split
    · exact makeLocals_causesKept _ _
    · exact (State.onRst_foot _ _).causesKept

theorem cutTrigger_causesKept (f : Configuration → Bool) (c : CutCause) (s : State) :
    s.CausesKept (cutTrigger f c s) := by
  have counted : s.CausesKept (s.onAou fun u =>
      { u with counts := { u.counts with cutTrigger := up u.counts.cutTrigger } }) :=
    (State.onAou_foot _ _).causesKept
  unfold cutTrigger
  split
  · dsimp only
    split
    · exact counted
    · refine counted.trans (.trans ?_ (feedSettle_foot _).causesKept)
      exact .trans (State.onAou_foot _ _).causesKept (raiseAttn_causesKept _ _ _)
  · exact .refl _

theorem appendKeep_causesKept (b : KeepBody) (s : State) : s.CausesKept (appendKeep b s) := by
  have lost : s.CausesKept (s.onKsp Ksp.lose) := (State.onKsp_foot _ _).causesKept
  unfold appendKeep
  split
  · exact .refl _
  · split
    · dsimp only
      split
      · exact lost.trans (raiseAttn_causesKept _ _ _)
      · exact lost
    · exact (State.onKsp_foot _ _).causesKept

theorem openSlot_causesKept (n : Index) (e : List Expected) (s : State) :
    s.CausesKept (openSlot n e s) := by
  have joined (u : State) : u.CausesKept (joinSlot n e u) := (State.onAou_foot _ _).causesKept
  unfold openSlot
  split
  · exact joined _
  · split
    · exact joined _
    · split
      · exact .trans (State.onAou_foot _ _).causesKept (raiseAttn_causesKept _ _ _)
      · exact (State.CausesKept.trans (State.onAou_foot _ _).causesKept
          (raiseAttn_causesKept _ _ _)).trans (joined _)

theorem slotAt_causesKept (p : Option Index) (e : List Expected) (s : State) :
    s.CausesKept (slotAt p e s) := by
  unfold slotAt
  split
  · exact .refl _
  · split
    · exact openSlot_causesKept _ _ _
    · exact .refl _

theorem boundaryFrom_causesKept (n : Word) (s : State) : s.CausesKept (boundaryFrom n s) := by
  have boundary : s.CausesKept (tluBoundary n s) := by
    unfold tluBoundary
    dsimp only
    split
    · exact .trans (State.onTlu_foot _ _).causesKept (raiseAttn_causesKept _ _ _)
    · exact (State.onTlu_foot _ _).causesKept
  unfold boundaryFrom
  dsimp only
  refine .trans ?_ (feedSettle_foot _).causesKept
  refine .trans ?_ (slotAt_causesKept _ _ _)
  refine .trans ?_ ((ageAt_foot _ _).causesKept.trans (driverAt_foot _ _).causesKept)
  refine .trans ?_ ((closePeriod_foot _ _).causesKept.trans (openPeriod_foot _ _).causesKept)
  exact boundary.trans (gradeAt_foot _ _ _).causesKept

/-- A law that goes with the attention classes alone. -/
theorem BlockOps.of_causes {P : State → Prop} (f : ∀ s t, s.CausesKept t → P s → P t) :
    BlockOps P where
  countPort _ _ _ := f _ _ (State.countPort_foot _ _ _).causesKept
  offer _ _ _ _ := f _ _ (offerFrame_foot _ _ _ _).causesKept
  helloTaken _ _ _ := f _ _ (helloTaken_causesKept _ _ _)
  holdTaken _ _ _ := f _ _ (holdTaken_foot _ _ _).causesKept
  helloDue _ := f _ _ (helloDue_foot _).causesKept
  appears _ _ := f _ _ (carrierAppears_foot _ _).causesKept
  lost _ _ := f _ _ (carrierLost_causesKept _ _)
  silent _ _ := f _ _ (silenceExpires_causesKept _ _)
  holdExpires _ _ := f _ _ (holdExpires_foot _ _).causesKept
  refresh _ _ := f _ _ (refreshExpires_foot _ _).causesKept
  sentFrame _ _ := f _ _ (frameSent_foot _ _).causesKept
  toTimelineOps := .of_frames fun _ _ g => f _ _ g.causesKept
  bits k b _ := f _ _ (receiveBits_causesKept k _ _ _)
  stop _ _ := f _ _ (clockStops_causesKept _ _)
  take _ := f _ _ (takeAll_causesKept _)
  discard _ := f _ _ (discardPeriod_foot _).causesKept
  clearFlags _ _ := f _ _ (State.onCfr_foot _ _).causesKept
  coder s u _ _ := f _ _ (State.onSgc_foot (fun _ => u) s).causesKept
  toDeliveryOps := .of_frames fun _ _ g => f _ _ g.causesKept
  air _ _ _ := f _ _ (rosterAir_causesKept _ _ _)
  cue _ _ _ := f _ _ (rosterCue_causesKept _ _ _)
  flush _ _ := f _ _ (flushPeer_foot _ _).causesKept
  toCueOps := .of_frames fun _ _ g => f _ _ g.causesKept
  arrival _ _ := f _ _ (takeArrival_foot _ _).causesKept
  cut _ _ _ := f _ _ (cutTrigger_causesKept _ _ _)
  leaveCut _ := f _ _ (leaveCut_foot _).causesKept
  finished _ := f _ _ (reportFinished_foot _).causesKept
  deadline _ _ := f _ _ (deadlineExpires_foot _ _).causesKept
  record _ := f _ _ (feedRecordSent_foot _).causesKept
  ready _ := f _ _ (programReady_foot _).causesKept
  notReady _ := f _ _ (programNotReady_foot _).causesKept
  append _ _ := f _ _ (appendKeep_causesKept _ _)
  recompute _ := f _ _ (recomputeFree_foot _).causesKept
  advance _ _ := f _ _ (advanceDrain_foot _).causesKept
  resend _ := f _ _ (resendExpires_foot _).causesKept
  takeKeep _ _ _ _ _ := f _ _ (takeKeep_foot _ _ _ _ _).causesKept
  archived _ := f _ _ (archiveRecordSent_foot _).causesKept
  archive _ := f _ _ (archiveReady_foot _).causesKept
  noArchive _ := f _ _ (archiveNotReady_foot _).causesKept
  console s u e _ := f _ _ (.of_eq (by rw [e]) (by rw [e]))
  loading _ _ _ _ _ := f _ _ (.of_eq rfl rfl)
  loadEnds _ := f _ _ (.of_eq rfl rfl)
  raised _ _ _ := f _ _ (raiseAttn_causesKept _ _ _)
  reach _ _ := f _ _ (State.reach_foot _ _).causesKept
  boundary _ _ := f _ _ (boundaryFrom_causesKept _ _)

/-! ### LOAD, ARM and CLEAR COUNTS -/

theorem applyLoad_causesKept (c : Configuration) (d : Word) (s : State) :
    s.CausesKept (applyLoad c d s) := by
  have blocks : s.CausesKept (loadBlocks c d s) := .of_eq rfl rfl
  unfold applyLoad
  dsimp only
  refine .trans ?_ (archiveSettle_foot _).causesKept
  split
  · exact blocks.trans (startHello_foot _).causesKept
  · exact blocks

theorem armed_causesKept (s : State) :
    s.CausesKept (sendBeacon (enableLanes (fillRoster (armBlocks s)))) := by
  have blocks : s.CausesKept (armBlocks s) := .of_eq rfl rfl
  have filled (u : State) : u.CausesKept (fillRoster u) :=
    State.CausesKept.trans (State.onRst_foot _ _).causesKept (makeLocals_causesKept _ _)
  exact ((blocks.trans (filled _)).trans (enableLanes_foot _).causesKept).trans
    (sendBeacon_foot _).causesKept

end Sys2Proof.Machine
end

section
/-! Every step keeps the buffers, queues and tables within their sizes (O56). -/

namespace Sys2Proof.Machine

/-! ### The capture lines (R21) -/

/-- Four capture lines, each within its sizes. -/
def State.LinesFit (s : State) : Prop :=
  s.cfr.lines.length = 4 ∧ ∀ l ∈ s.cfr.lines, l.Fits

theorem State.LinesFit.of_lines {s t : State} (h : s.LinesFit) (e : t.cfr.lines = s.cfr.lines) :
    t.LinesFit := by
  rw [State.LinesFit, e]
  exact h

theorem frames_linesFit (ps : List Part) (n : Part.cfr ∉ ps := by decide) :
    Frames ps State.LinesFit :=
  fun _ _ f h => h.of_lines (by rw [f.cfr n])

theorem forall_mem_modifyAt {α : Type} {P : α → Prop} {f : α → α} {k : Nat} {xs : List α} (d : α)
    (h : ∀ x ∈ xs, P x) (g : k < xs.length → P (f (xs.getD k d))) : ∀ x ∈ modifyAt f k xs, P x := by
  intro x m
  obtain ⟨i, there⟩ := List.mem_iff_getElem?.1 m
  rw [modifyAt_getElem?] at there
  split at there
  next same =>
    obtain ⟨y, at_, rfl⟩ := Option.map_eq_some_iff.1 there
    obtain ⟨bound, -⟩ := List.getElem?_eq_some_iff.1 at_
    have value : xs.getD k d = y := by rw [List.getD_eq_getElem?_getD, ← same, at_]; rfl
    exact value ▸ g (same ▸ bound)
  next => exact h x (List.mem_of_getElem? there)

theorem State.LinesFit.captureLine {s : State} (h : s.LinesFit) (k : Nat) :
    (s.captureLine k).Fits := by
  obtain ⟨-, fits⟩ := h
  rw [State.captureLine, List.getD_eq_getElem?_getD]
  cases there : s.cfr.lines[k]? with
  | none => exact ⟨Nat.zero_le _, Nat.zero_lt_succ _⟩
  | some l => exact fits l (List.mem_of_getElem? there)

theorem State.LinesFit.onLine {s : State} {k : Nat} {f : CaptureLine → CaptureLine} (h : s.LinesFit)
    (g : (s.captureLine k).Fits → (f (s.captureLine k)).Fits) : (s.onLine k f).LinesFit := by
  have line := h.captureLine k
  obtain ⟨four, fits⟩ := h
  exact ⟨(modifyAt_length _ _ _).trans four, forall_mem_modifyAt {} fits fun _ => g line⟩

theorem CaptureLine.Fits.error {l : CaptureLine} (h : l.Fits) (f : CaptureFlag) :
    ((l.countError f).withFlag f true).Fits := by
  cases f <;> exact h

theorem lineError_fit (k : Nat) (f : CaptureFlag) (s : State) (h : s.LinesFit) :
    (lineError k f s).LinesFit :=
  State.LinesFit.of_lines (h.onLine fun l => l.error f) (congrArg Cfr.lines (lineError_cfr k f s))

theorem lineErrors_fit (k : Nat) (f : CaptureFlag) (n : Nat) (s : State) (h : s.LinesFit) :
    (lineErrors k f n s).LinesFit := by
  induction n generalizing s with
  | zero => exact h
  | succ n ih => exact ih _ (lineError_fit _ _ _ h)

theorem receiveBits_fit (k n : Nat) (bits : List Bool) (s : State) (h : s.LinesFit) :
    (receiveBits k n bits s).LinesFit := by
  induction n generalizing bits s with
  | zero => exact h
  | succ n ih =>
    unfold receiveBits
    split
    · exact h
    · dsimp only
      split
      next short => exact h.onLine fun l => ⟨l.1, short⟩
      · exact ih _ _ (h.onLine fun l => ⟨Nat.le_succ 1, l.2⟩)
    · split
      · exact ih _ _ ((lineError_fit k .framing s h).onLine fun l => ⟨Nat.zero_le _, l.2⟩)
      · split
        next short => exact h.onLine fun l => ⟨l.1, Nat.le_trans short (by decide)⟩
        · refine ih _ _ ?_
          unfold frameComplete
          split
          next room =>
            refine h.onLine fun l => ⟨?_, l.2⟩
            show (_ ++ [_]).length ≤ 2
            rw [List.length_append]
            exact room
          · exact lineError_fit _ _ _ h

theorem takeLine_fit (k : Nat) (s : State) (h : s.LinesFit) : (takeLine k s).LinesFit := by
  have fed : (feedPeriod k (s.captureLine k).yields s).LinesFit := h.of_lines rfl
  unfold takeLine
  generalize feedPeriod k (s.captureLine k).yields s = u at fed ⊢
  unfold afterTake
  dsimp only
  split
  · exact fed
  · exact fed
  · exact lineError_fit _ _ _ fed
  next buffer =>
    exact lineErrors_fit _ _ _ _ (fed.onLine fun l => ⟨length_le_of_cons buffer l.1, l.2⟩)

theorem clearFlags_fits (m : Nat) (ls : List CaptureLine) (h : ∀ l ∈ ls, l.Fits) :
    ∀ l ∈ clearFlags m ls, l.Fits := by
  intro l mem
  obtain ⟨k, there⟩ := List.mem_iff_getElem?.1 mem
  rw [clearFlags_getElem?] at there
  obtain ⟨x, at_, rfl⟩ := Option.map_eq_some_iff.1 there
  exact h x (List.mem_of_getElem? at_)

theorem discardPeriod_lines (s : State) : (discardPeriod s).cfr.lines = s.cfr.lines := by
  unfold discardPeriod
  split <;> rfl

theorem closePeriod_lines (p : Option Index) (s : State) :
    (closePeriod p s).cfr.lines = s.cfr.lines := by
  unfold closePeriod
  split
  · rfl
  · dsimp only
    split
    · rw [(takeBatch_foot _ _).cfr (by decide)]
      rfl
    · rfl

theorem boundaryFrom_lines (n : Word) (s : State) : (boundaryFrom n s).cfr.lines = s.cfr.lines := by
  unfold boundaryFrom
  dsimp only
  rw [(feedSettle_foot _).cfr (by decide), (slotAt_foot _ _ _).cfr (by decide),
    (driverAt_foot _ _).cfr (by decide), (ageAt_foot _ _).cfr (by decide)]
  show (closePeriod _ _).cfr.lines = _
  rw [closePeriod_lines, (gradeAt_foot _ _ _).cfr (by decide), (tluBoundary_foot _ _).cfr (by decide)]

theorem captureOps_linesFit : CaptureOps State.LinesFit where
  bits _ _ _ := receiveBits_fit _ _ _ _
  stop k s h := by
    unfold clockStops
    split
    · exact h
    · exact h
    · exact h.onLine fun l => ⟨l.1, Nat.zero_lt_succ _⟩
  take s h := by
    unfold takeAll
    split
    · exact h
    · exact takeLine_fit _ _ (takeLine_fit _ _ (takeLine_fit _ _ (takeLine_fit _ _ h)))
  discard s h := h.of_lines (discardPeriod_lines s)
  clearFlags m s h := ⟨(clearFlags_length _ _).trans h.1, clearFlags_fits m _ h.2⟩
  coder _ _ _ _ h := h.of_lines rfl

/-- The lines after a LOAD, all of them empty (R18). -/
theorem reloadLines_fit (patch : List (Option PatchEntry)) (k : Nat) (ls : List CaptureLine) :
    (reloadLines patch k ls).length = ls.length ∧ ∀ l ∈ reloadLines patch k ls, l.Fits := by
  induction ls generalizing k with
  | nil => exact ⟨rfl, nofun⟩
  | cons l ls ih =>
    obtain ⟨length, fits⟩ := ih (k + 1)
    exact ⟨congrArg (· + 1) length, List.forall_mem_cons.2 ⟨⟨Nat.zero_le _, Nat.zero_lt_succ _⟩, fits⟩⟩

theorem startHello_cfr (s : State) : (startHello s).cfr = s.cfr := (startHello_foot s).cfr (by decide)

/-- Where a LOAD enters CONFIGURED it starts HELLO; and the archive line looks for work. -/
theorem applyLoad_foot_blocks (c : Configuration) (d : Word) (s : State) :
    Foot [.ports, .link, .kou] (loadBlocks c d s) (applyLoad c d s) := by
  unfold applyLoad
  dsimp only
  refine Foot.seq ?_ (archiveSettle_foot _).grow
  split
  · exact (startHello_foot _).grow
  · exact .refl _ _

/-- The blocks ARM changes, and what follows it in the roster, at the ports and in the Peer and Cue Unit. -/
theorem armed_foot_blocks (s : State) : Foot [.rst, .attn, .ports, .link, .dlu, .pcu] (armBlocks s)
    (sendBeacon (enableLanes (fillRoster (armBlocks s)))) :=
  ((fillRoster_foot _).grow.seq (enableLanes_foot _).grow).seq (sendBeacon_foot _).grow

theorem ops_linesFit : Ops State.LinesFit where
  toPortOps := .of_frames (frames_linesFit _)
  toTimelineOps := .of_frames (frames_linesFit _)
  toCaptureOps := captureOps_linesFit
  toDeliveryOps := .of_frames (frames_linesFit _)
  toRosterOps := .of_frames (frames_linesFit _)
  toCueOps := .of_frames (frames_linesFit _)
  toOutletOps := .of_frames (frames_linesFit _)
  toKeepOps := .of_frames (frames_linesFit _)
  toConsoleOps := .of_frames (frames_linesFit _)
  reach _ _ h := h.of_lines rfl
  boundary n s h := h.of_lines (boundaryFrom_lines n s)
  queue _ _ h := h.of_lines rfl
  reset _ _ _ := ⟨rfl, fun l m => by
    rw [List.eq_of_mem_replicate m]
    exact ⟨Nat.zero_le _, Nat.zero_lt_succ _⟩⟩
  loaded _ c d s _ _ h := (frames_linesFit _).of (applyLoad_foot_blocks c d _)
    ⟨(reloadLines_fit c.patch 0 _).1.trans h.1, (reloadLines_fit c.patch 0 _).2⟩
  armed s _ _ h := (frames_linesFit _).of (armed_foot_blocks s) (h.of_lines rfl)
  zeroed s h := ⟨(List.length_map _).trans h.1, List.forall_mem_map.2 fun l m => h.2 l m⟩
  clearAttn _ _ h := h.of_lines rfl

/-! ### The Air Outlet (R128, R135, R138) -/

/-- The window, the feed buffers and the conceal store are within their sizes. -/
structure Aou.Fits (u : Aou) : Prop where
  window : u.window.length ≤ 12
  feed : u.feed.length ≤ 2
  conceal : u.conceal.length = 512

theorem frames_outletFit (ps : List Part) (n : Part.aou ∉ ps := by decide) :
    Frames ps fun s => s.aou.Fits :=
  fun s t f h => by
    show t.aou.Fits
    rw [f.aou n]
    exact h

theorem resolveAll_length (limit : Nat) (es : List Expected) (c : List ConcealPlace) :
    (resolveAll limit es c).2.length = c.length := by
  induction es generalizing c with
  | nil => rfl
  | cons e es ih =>
    unfold resolveAll
    exact (ih _).trans List.length_set

theorem resolveSlot_length (s : State) (t : Slot) :
    (s.resolveSlot t).2.length = s.aou.conceal.length := by
  unfold State.resolveSlot
  split
  · rfl
  · exact resolveAll_length _ _ _

theorem startRecord_length {α : Type} (bs : List (LineBuffer α)) :
    (startRecord bs).length = bs.length := by
  unfold startRecord
  split
  · rfl
  · split <;> rfl

theorem placeRecord_length {α : Type} (r : α) (bs : List (LineBuffer α)) :
    (placeRecord r bs).length = bs.length + 1 := List.length_append

theorem drainWindow_fits (n : Nat) (s : State) (h : s.aou.Fits) : (drainWindow n s).aou.Fits := by
  induction n generalizing s with
  | zero => exact h
  | succ n ih =>
    unfold drainWindow
    split
    · exact h
    next t rest window =>
      have left := length_le_of_cons window h.window
      split
      · exact h
      · split
        · exact ih _ { h with window := left }
        · split
          next room =>
            refine ih _ ⟨left, ?_, (resolveSlot_length s t).trans h.conceal⟩
            exact le_of_eq_of_le (placeRecord_length _ _) room
          · exact h

theorem startFeed_fits (s : State) (h : s.aou.Fits) : (startFeed s).aou.Fits := by
  unfold startFeed
  split
  · exact { h with feed := le_of_eq_of_le (startRecord_length _) h.feed }
  · exact h

theorem feedSettle_fits (s : State) (h : s.aou.Fits) : (feedSettle s).aou.Fits :=
  startFeed_fits _ (drainWindow_fits _ _ h)

theorem updateSlot_length (n : Index) (f : Slot → Slot) (ts : List Slot) :
    (updateSlot n f ts).length = ts.length := List.length_map _

theorem takeArrival_fits (a : Arrival) (s : State) (h : s.aou.Fits) : (takeArrival a s).aou.Fits := by
  unfold takeArrival
  dsimp only
  split
  · exact feedSettle_fits _ { h with window := le_of_eq_of_le (updateSlot_length _ _ _) h.window }
  · exact { h with }

theorem Aou.stopFeed_fits (m : CutMode) (u : Aou) (h : u.Fits) : (u.stopFeed m).Fits := by
  cases m with
  | quiet => exact h
  | stop => exact { h with feed := Nat.le_trans (List.length_filter_le _ _) h.feed }
  | float => exact { h with feed := Nat.zero_le _ }

theorem cutTrigger_fits (f : Configuration → Bool) (c : CutCause) (s : State) (h : s.aou.Fits) :
    (cutTrigger f c s).aou.Fits := by
  unfold cutTrigger
  split
  · dsimp only
    split
    · exact { h with }
    · refine feedSettle_fits _ ?_
      rw [raiseAttn_aou]
      exact Aou.stopFeed_fits _ _ { h with }
  · exact h

theorem deadlineExpires_fits (n : Index) (s : State) (h : s.aou.Fits) :
    (deadlineExpires n s).aou.Fits := by
  unfold deadlineExpires
  split
  · exact h
  · exact feedSettle_fits _ { h with window := le_of_eq_of_le (updateSlot_length _ _ _) h.window }

theorem feedRecordSent_fits (s : State) (h : s.aou.Fits) : (feedRecordSent s).aou.Fits := by
  unfold feedRecordSent
  split
  · exact h
  · exact feedSettle_fits _ { h with feed := Nat.le_trans (List.length_filter_le _ _) h.feed }

theorem reportFinished_fits (s : State) (h : s.aou.Fits) : (reportFinished s).aou.Fits := by
  unfold reportFinished
  split
  · exact { h with }
  · exact h

theorem outletOps_fits : OutletOps fun s => s.aou.Fits where
  arrival := takeArrival_fits
  cut := cutTrigger_fits
  leaveCut _ h := feedSettle_fits _ { h with }
  finished := reportFinished_fits
  deadline := deadlineExpires_fits
  record := feedRecordSent_fits
  ready _ h := startFeed_fits _ { h with }
  notReady _ h := { h with }

theorem joinSlot_fits (n : Index) (e : List Expected) (s : State) (h : s.aou.Fits)
    (room : s.aou.window.length < 12) : (joinSlot n e s).aou.Fits :=
  { h with window := le_of_eq_of_le List.length_append room }

/-- A slot that opens finds room, or makes it by dropping the oldest slot (R130). -/
theorem openSlot_fits (n : Index) (e : List Expected) (s : State) (h : s.aou.Fits) :
    (openSlot n e s).aou.Fits := by
  unfold openSlot
  split
  next room => exact joinSlot_fits _ _ _ h room
  · split
    next empty => exact joinSlot_fits _ _ _ h (by rw [empty]; decide)
    next t rest window =>
      split
      · exact { h with }
      · have room : rest.length < 12 := by
          have fits := h.window
          rw [window] at fits
          exact fits
        exact joinSlot_fits n e (raiseAttn .feed (.slotDropped t.index) (s.onAou fun u => { u with
          window := rest
          counts := { u.counts with feedOverrun := up u.counts.feedOverrun } }))
          { h with window := Nat.le_of_lt room } room

theorem boundaryFrom_outletFits (n : Word) (s : State) (h : s.aou.Fits) :
    (boundaryFrom n s).aou.Fits := by
  unfold boundaryFrom
  dsimp only
  refine feedSettle_fits _ ?_
  have before : ∀ u : State, u.aou.Fits → (driverAt (s.tlu.entersAt n) u).aou.Fits := fun u fits => by
    unfold driverAt
    split
    · exact feedSettle_fits _ { fits with }
    · exact fits
  have driven := before (ageAt (s.tlu.presents n) (openPeriod (s.tlu.presents n) (closePeriod
    (s.tlu.presents n) (gradeAt (s.tlu.presents n) (s.tlu.entersAt n) (tluBoundary n s))))) (by
      rw [(ageAt_foot _ _).aou (by decide), (openPeriod_foot _ _).aou (by decide),
        (closePeriod_foot _ _).aou (by decide), (gradeAt_foot _ _ _).aou (by decide),
        (tluBoundary_foot _ _).aou (by decide)]
      exact h)
  unfold slotAt
  split
  · exact driven
  · split
    · exact openSlot_fits _ _ _ driven
    · exact driven

/-- What the roster takes reaches the outlet as an arrival. -/
theorem rosterOps_outlet {P : State → Prop} (f : Frames [.rst, .attn] P)
    (a : ∀ x s, P s → P (takeArrival x s)) : RosterOps P where
  air o b s h := by
    have accepted (u : State) (k : P u) : P (acceptAir o b u) := by
      have counted := f _ _ (State.onRst_foot (fun r =>
        { r with counts := { r.counts with airAccepted := up r.counts.airAccepted } }) u).grow k
      unfold acceptAir
      dsimp only
      split
      · exact a _ _ counted
      · exact counted
    have learnt (g : Rst → Rst) : P (s.onRst g) := f _ _ (State.onRst_foot _ _).grow h
    unfold rosterAir
    split
    · exact h
    · split
      · exact learnt _
      · split
        · exact f _ _ (violate_foot _ _ _ _).grow h
        · exact accepted _ (learnt _)
        · exact accepted _ (learnt _)
        · exact accepted _ (learnt _)
        · exact accepted _ h
  cue _ _ _ := f _ _ (rosterCue_foot _ _ _).grow
  flush _ _ := f _ _ (flushPeer_foot _ _).grow

theorem ops_outletFits : Ops fun s => s.aou.Fits where
  toPortOps := .of_frames (frames_outletFit _)
  toTimelineOps := .of_frames (frames_outletFit _)
  toCaptureOps := .of_frames (frames_outletFit _)
  toDeliveryOps := .of_frames (frames_outletFit _)
  toRosterOps := rosterOps_outlet (frames_outletFit _) takeArrival_fits
  toCueOps := .of_frames (frames_outletFit _)
  toOutletOps := outletOps_fits
  toKeepOps := .of_frames (frames_outletFit _)
  toConsoleOps := .of_frames (frames_outletFit _)
  reach _ _ := id
  boundary := boundaryFrom_outletFits
  queue _ _ := id
  reset _ _ _ := ⟨Nat.zero_le _, Nat.zero_le _, List.length_replicate⟩
  loaded _ c d _ _ _ h := (frames_outletFit _).of (applyLoad_foot_blocks c d _) { h with }
  armed s _ _ h := (frames_outletFit _).of (armed_foot_blocks s)
    { h with window := Nat.zero_le _, conceal := List.length_replicate }
  zeroed _ h := { h with }
  clearAttn _ _ := id

/-! ### The Keep Outlet (R160, R162, R163) -/

/-- The archive queue, the line buffers and the take table are within their sizes. -/
structure Kou.Fits (k : Kou) : Prop where
  queue : k.queue.length ≤ 64
  lines : k.lines.length ≤ 2
  take : k.take.length = 16

theorem frames_archiveFit (ps : List Part) (n : Part.kou ∉ ps := by decide) :
    Frames ps fun s => s.kou.Fits :=
  fun s t f h => by
    show t.kou.Fits
    rw [f.kou n]
    exact h

theorem fillLines_fits (n : Nat) (k : Kou) (h : k.Fits) : (fillLines n k).Fits := by
  induction n generalizing k with
  | zero => exact h
  | succ n ih =>
    unfold fillLines
    split
    · exact h
    next r rest queue =>
      split
      next room =>
        exact ih _ { h with
          queue := length_le_of_cons queue h.queue
          lines := le_of_eq_of_le (placeRecord_length _ _) room }
      · exact h

theorem archiveSettle_fits (s : State) (h : s.kou.Fits) : (archiveSettle s).kou.Fits := by
  have filled := fillLines_fits 2 _ h
  unfold archiveSettle
  rw [State.onKou_kou]
  dsimp only
  split
  · exact { filled with lines := le_of_eq_of_le (startRecord_length _) filled.lines }
  · exact filled

theorem Kou.takeInto_fits (o : Nat) (e : TakeEntry) (rs : List ArchiveRecord) (k : Kou) (h : k.Fits)
    (room : k.queue.length + rs.length ≤ 64) : (k.takeInto o e rs).Fits :=
  ⟨le_of_eq_of_le List.length_append room, h.lines, (setStation_length _ _ _).trans h.take⟩

/-- The free places of the queue that a judged frame needs (Table 9-6). -/
def TakeResult.needs : TakeResult → Nat
  | .start | .gap => 2
  | .taken => 1
  | .duplicate | .ahead | .stale | .queueFull => 0

theorem judgeSequence_needs (e : TakeEntry) (n floor : Word) (room : Nat) :
    (judgeSequence e n floor room).needs ≤ room := by
  unfold judgeSequence
  split
  · split
    next one => exact one
    next => exact Nat.zero_le _
  · split
    · exact Nat.zero_le _
    · split
      · split
        · split
          next two => exact two
          next => exact Nat.zero_le _
        · exact Nat.zero_le _
      · exact Nat.zero_le _

theorem judgeKeep_needs (place : Option TakeEntry) (inc n floor : Word) (room : Nat) :
    (judgeKeep place inc n floor room).needs ≤ room := by
  have start : (if 2 ≤ room then TakeResult.start else .queueFull).needs ≤ room := by
    split
    next two => exact two
    next => exact Nat.zero_le _
  unfold judgeKeep
  split
  · exact start
  · split
    · exact judgeSequence_needs _ _ _ _
    · split
      · exact start
      · exact Nat.zero_le _

theorem Kou.judged_fits (o : Nat) (inc : Word) (b : KeepBody) (floor : Word) (r : TakeResult) (k : Kou)
    (h : k.Fits) (room : r.needs ≤ k.room) : (k.judged o inc b floor r).Fits := by
  unfold Kou.room at room
  have fits := h.queue
  cases r with
  | start =>
    have two : 2 ≤ 64 - k.queue.length := room
    exact Kou.takeInto_fits _ _ _ _ { h with } (show k.queue.length + 2 ≤ 64 by omega)
  | taken =>
    have one : 1 ≤ 64 - k.queue.length := room
    exact Kou.takeInto_fits _ _ _ _ { h with } (show k.queue.length + 1 ≤ 64 by omega)
  | gap =>
    have two : 2 ≤ 64 - k.queue.length := room
    unfold Kou.judged
    dsimp only
    split
    · exact Kou.takeInto_fits _ _ _ _ { h with } (show k.queue.length + 2 ≤ 64 by omega)
    · exact Kou.takeInto_fits _ _ _ _ { h with } (show k.queue.length + 1 ≤ 64 by omega)
  | duplicate | ahead | stale | queueFull => exact { h with }

theorem tellOwnSpool_kou (o : Nat) (inc : Word) (s : State) : (tellOwnSpool o inc s).kou = s.kou := by
  unfold tellOwnSpool
  split
  · exact (recomputeFree_foot _).kou (by decide)
  · rfl

theorem takeKeep_fits (o : Nat) (inc : Word) (b : KeepBody) (floor : Word) (s : State)
    (h : s.kou.Fits) : (takeKeep o inc b floor s).kou.Fits := by
  unfold takeKeep
  split
  · exact h
  · have settled := archiveSettle_fits (s.onKou (Kou.judged o inc b floor
      (judgeKeep (atStation s.kou.take o) inc b.sequence floor s.kou.room)))
      (Kou.judged_fits o inc b floor _ s.kou h (judgeKeep_needs _ _ _ _ _))
    dsimp only
    split <;> first | exact settled | exact (tellOwnSpool_kou _ _ _).symm ▸ settled

theorem recordSent_fits (r : ArchiveRecord) (s : State) (h : s.kou.Fits) :
    (recordSent r s).kou.Fits := by
  unfold recordSent
  split
  · exact h
  · split
    · exact h
    · split
      · rw [tellOwnSpool_kou]
        exact { h with take := (setStation_length _ _ _).trans h.take }
      · exact h

theorem archiveRecordSent_fits (s : State) (h : s.kou.Fits) : (archiveRecordSent s).kou.Fits := by
  unfold archiveRecordSent
  split
  · exact h
  · exact archiveSettle_fits _ (recordSent_fits _ _
      { h with lines := Nat.le_trans (List.length_filter_le _ _) h.lines })

theorem keepOps_archive : KeepOps fun s => s.kou.Fits where
  append _ _ := (frames_archiveFit _).of (appendKeep_foot _ _)
  recompute _ := (frames_archiveFit _).of (recomputeFree_foot _)
  advance _ _ := (frames_archiveFit _).of (advanceDrain_foot _)
  resend _ := (frames_archiveFit _).of (resendExpires_foot _)
  takeKeep := takeKeep_fits
  archived := archiveRecordSent_fits
  archive _ h := archiveSettle_fits _ { h with }
  noArchive _ h := { h with }

theorem ops_archiveFits : Ops fun s => s.kou.Fits where
  toPortOps := .of_frames (frames_archiveFit _)
  toTimelineOps := .of_frames (frames_archiveFit _)
  toCaptureOps := .of_frames (frames_archiveFit _)
  toDeliveryOps := .of_frames (frames_archiveFit _)
  toRosterOps := .of_frames (frames_archiveFit _)
  toCueOps := .of_frames (frames_archiveFit _)
  toOutletOps := .of_frames (frames_archiveFit _)
  toKeepOps := keepOps_archive
  toConsoleOps := .of_frames (frames_archiveFit _)
  reach _ _ := id
  boundary _ _ := (frames_archiveFit _).of (boundaryFrom_foot _ _)
  queue _ _ := id
  reset _ _ _ := ⟨Nat.zero_le _, Nat.zero_le _, rfl⟩
  loaded _ c d s _ _ h := by
    unfold applyLoad
    dsimp only
    refine archiveSettle_fits _ ?_
    split
    · rw [(startHello_foot _).kou (by decide)]
      exact h
    · exact h
  armed s _ _ := (frames_archiveFit _).of (s := armBlocks s) (armed_foot_blocks s)
  zeroed _ h := { h with }
  clearAttn _ _ := id

/-! ### The station tables and the cue table -/

/-- The first-copy filter, the peer table and the cue table have their sizes. -/
structure State.TablesFit (s : State) : Prop where
  filter : s.dlu.filter.length = 16
  peers : s.pcu.peers.length = 16
  cues : ∀ items, s.pcu.cues = some items → items.length = 17

theorem frames_tablesFit (ps : List Part) (n : Part.dlu ∉ ps := by decide)
    (m : Part.pcu ∉ ps := by decide) : Frames ps State.TablesFit := fun s t f h => by
  obtain ⟨filter, -, -⟩ := f.dlu n
  have pcu := f.pcu m
  exact ⟨filter ▸ h.filter, pcu ▸ h.peers, pcu ▸ h.cues⟩

theorem blockOps_tablesFit : BlockOps State.TablesFit where
  toPortOps := .of_frames (frames_tablesFit _)
  toTimelineOps := .of_frames (frames_tablesFit _)
  toCaptureOps := .of_frames (frames_tablesFit _)
  delivery s u _ _ length h := ⟨length.trans h.filter, h.peers, h.cues⟩
  toRosterOps := .of_frames (frames_tablesFit _)
  peers s u cues length _ h := ⟨h.filter, length.trans h.peers, fun items has => by
    have sizes : (s.pcu.cues.map List.length) = some items.length := by
      rw [← cues, show u.cues = some items from has]
      rfl
    obtain ⟨old, had, same⟩ := Option.map_eq_some_iff.1 sizes
    exact same.symm.trans (h.cues old had)⟩
  toOutletOps := .of_frames (frames_tablesFit _)
  toKeepOps := .of_frames (frames_tablesFit _)
  toConsoleOps := .of_frames (frames_tablesFit _)
  reach _ _ h := { h with }
  boundary _ _ := (frames_tablesFit _).of (boundaryFrom_foot _ _)

/-- The first BEACON, at ARM (R8). -/
theorem BlockOps.firstBeacon {P : State → Prop} (o : BlockOps P) {s : State}
    (a : s.armedOnward = true)
    (restart : ∀ u t, P u → P (u.onPcu fun x => { x with beaconAt := some t })) (h : P s) :
    P (sendBeacon s) :=
  restart _ _ (o.originate .beacon _ s (.inl a) h)

/-- Armed, the station sends its first BEACON. -/
theorem armed_armedOnward (s : State) :
    (enableLanes (fillRoster (armBlocks s))).armedOnward = true := by
  rw [State.armedOnward, (enableLanes_foot _).tlu (by decide), (fillRoster_foot _).tlu (by decide)]
  rfl

theorem ops_tablesFit : Ops State.TablesFit where
  toBlockOps := blockOps_tablesFit
  queue _ _ h := { h with }
  reset _ _ _ := ⟨rfl, rfl, nofun⟩
  loaded _ c d s _ _ h := by
    refine (frames_tablesFit _).of (applyLoad_foot_blocks c d _)
      ⟨(setStation_length _ _ _).trans h.filter, (setStation_length _ _ _).trans h.peers, ?_⟩
    intro items has
    obtain rfl := Option.some.inj has
    rw [Pcu.reload, List.length_map, List.length_range]
  armed s _ _ h := by
    refine blockOps_tablesFit.firstBeacon (armed_armedOnward s) (fun _ _ k => { k with }) ?_
    have blocks : (armBlocks s).TablesFit := { h with }
    exact (frames_tablesFit _).of ((fillRoster_foot _).grow.seq (enableLanes_foot _).grow :
      Foot [.rst, .attn, .ports, .link] _ _) blocks
  zeroed _ h := { h with }
  clearAttn _ _ h := { h with }

/-! ### The console (R168, R170, R176) -/

/-- Eleven attention classes (Table 10-6). -/
def State.ClassesFit (s : State) : Prop :=
  s.csu.pendingAttn.length = 11 ∧ s.csu.attnRaised.length = 11

theorem State.ClassesFit.of_causes {s t : State} (k : s.CausesKept t) (h : s.ClassesFit) :
    t.ClassesFit :=
  ⟨k.pending.trans h.1, k.raised.trans h.2⟩

theorem ops_classesFit : Ops State.ClassesFit where
  toBlockOps := .of_causes fun _ _ => .of_causes
  queue _ _ := id
  reset _ _ _ := ⟨rfl, rfl⟩
  loaded _ c d _ _ _ h := .of_causes (applyLoad_causesKept c d _) h
  armed s _ _ := .of_causes (armed_causesKept s)
  zeroed _ h := ⟨h.1, (List.length_map _).trans h.2⟩
  clearAttn _ _ h := ⟨(clearClasses_length _ _).trans h.1, h.2⟩

/-- The command line and the block under way are within their sizes. -/
structure State.LineFits (s : State) : Prop where
  line : s.csu.line.chars.length ≤ 80
  load : ∀ bytes t, s.csu.load = .binary bytes t → bytes.length < 1026

theorem frames_lineFits (ps : List Part) (n : Part.console ∉ ps := by decide) :
    Frames ps State.LineFits := fun s t f h => by
  have csu := f.console n
  exact ⟨by rw [csu]; exact h.line, by rw [csu]; exact h.load⟩

theorem consoleOps_lineFits : ConsoleOps State.LineFits where
  console s u e line h := ⟨line h.line, fun b t l => h.load b t (by rw [← l, e])⟩
  loading _ _ _ _ fits h := ⟨h.line, fits h.load⟩
  loadEnds _ h := ⟨h.line, nofun⟩
  raised _ _ _ := (frames_lineFits _).of (raiseAttn_foot _ _ _)

theorem ops_lineFits : Ops State.LineFits where
  toPortOps := .of_frames (frames_lineFits _)
  toTimelineOps := .of_frames (frames_lineFits _)
  toCaptureOps := .of_frames (frames_lineFits _)
  toDeliveryOps := .of_frames (frames_lineFits _)
  toRosterOps := .of_frames (frames_lineFits _)
  toCueOps := .of_frames (frames_lineFits _)
  toOutletOps := .of_frames (frames_lineFits _)
  toKeepOps := .of_frames (frames_lineFits _)
  toConsoleOps := consoleOps_lineFits
  reach _ _ h := { h with }
  boundary _ _ := (frames_lineFits _).of (boundaryFrom_foot _ _)
  queue _ _ h := { h with }
  reset _ _ _ := ⟨Nat.zero_le _, nofun⟩
  loaded _ c d s _ _ h := (frames_lineFits _).of (applyLoad_foot_blocks c d _) ⟨h.line, nofun⟩
  armed s _ _ h := (frames_lineFits _).of (armed_foot_blocks s) { h with }
  zeroed _ h := { h with }
  clearAttn _ _ h := { h with }

/-! ### All of them together -/

/-- Settles O56: each kind of buffer by its own law, kept by each operation of each block. -/
theorem buffersFitKept : Obligations.BuffersFitKept := by
  intro s t h e
  have ports : t.PortsFit := ops_portsFit.step s t (fun p => by
    cases p
    · exact h.portA
    · exact h.portB) e
  have lines := ops_linesFit.step s t h.lines e
  have outlet := ops_outletFits.step s t ⟨h.window, h.feed, h.conceal⟩ e
  obtain ⟨filter, peers, take⟩ := h.stations
  have archive := ops_archiveFits.step s t ⟨h.archive, h.lineBuffers, take⟩ e
  have tables := ops_tablesFit.step s t ⟨filter, peers, h.cues⟩ e
  have line := ops_lineFits.step s t ⟨h.line, h.load⟩ e
  exact {
    portA := ports .a
    portB := ports .b
    lines := lines
    window := outlet.window
    feed := outlet.feed
    archive := archive.queue
    lineBuffers := archive.lines
    conceal := outlet.conceal
    stations := ⟨tables.filter, tables.peers, archive.take⟩
    classes := ops_classesFit.step s t h.classes e
    line := line.line
    load := line.load
    cues := tables.cues }

end Sys2Proof.Machine
end

section
/-! The slot window: what the outlet does between boundaries leaves of it, what a boundary adds to it; and
every step keeps the window law (O60). -/

namespace Sys2Proof.Machine

/-! ### Between boundaries the window only loses its oldest slots -/

/-- The open mark stays, and the window loses none but its oldest slots. -/
structure Aou.Shrinks (u v : Aou) : Prop where
  mark : v.openMark = u.openMark
  window : v.window.map (·.index) <:+ u.window.map (·.index)

theorem Aou.Shrinks.of_window {u v : Aou} (m : v.openMark = u.openMark) (w : v.window = u.window) :
    u.Shrinks v :=
  ⟨m, w ▸ List.suffix_refl _⟩

theorem Aou.Shrinks.refl (u : Aou) : u.Shrinks u := .of_window rfl rfl

theorem Aou.Shrinks.trans {u v w : Aou} (h : u.Shrinks v) (k : v.Shrinks w) : u.Shrinks w :=
  ⟨k.mark.trans h.mark, k.window.trans h.window⟩

theorem Foot.shrinks {ps : List Part} {s t : State} (f : Foot ps s t)
    (n : Part.aou ∉ ps := by decide) : s.aou.Shrinks t.aou := by
  rw [f.aou n]
  exact .refl _

theorem drainWindow_shrinks (n : Nat) (s : State) : s.aou.Shrinks (drainWindow n s).aou := by
  induction n generalizing s with
  | zero => exact .refl _
  | succ n ih =>
    unfold drainWindow
    split
    · exact .refl _
    next t rest window =>
      have oldest (v : Aou) (m : v.openMark = s.aou.openMark) (w : v.window = rest) :
          s.aou.Shrinks v := by
        refine ⟨m, ?_⟩
        rw [w, window]
        exact List.suffix_cons _ _
      split
      · exact .refl _
      · split
        · exact .trans (oldest (removeSlot rest s).aou rfl rfl) (ih _)
        · split
          next cause _ _ _ => exact .trans (oldest (emitSlot t cause rest s).aou rfl rfl) (ih _)
          · exact .refl _

theorem startFeed_shrinks (s : State) : s.aou.Shrinks (startFeed s).aou := by
  unfold startFeed
  split
  · exact .of_window rfl rfl
  · exact .refl _

theorem Aou.Shrinks.started {u : Aou} {s : State} (h : u.Shrinks s.aou) :
    u.Shrinks (startFeed s).aou :=
  h.trans (startFeed_shrinks s)

theorem Aou.Shrinks.settled {u : Aou} {s : State} (h : u.Shrinks s.aou) :
    u.Shrinks (feedSettle s).aou :=
  (h.trans (drainWindow_shrinks _ _)).started

theorem updateSlot_indices (n : Index) (f : Slot → Slot) (ts : List Slot)
    (h : ∀ t, (f t).index = t.index) : (updateSlot n f ts).map (·.index) = ts.map (·.index) := by
  rw [updateSlot, List.map_map]
  refine List.map_congr_left fun t _ => ?_
  show (if t.index = n then f t else t).index = t.index
  split
  · exact h t
  · rfl

theorem Slot.store_index (a : Arrival) (t : Slot) : (t.store a).index = t.index := by
  unfold Slot.store
  dsimp only
  split <;> rfl

theorem Aou.Shrinks.updated {u v : Aou} (n : Index) (f : Slot → Slot) (h : ∀ t, (f t).index = t.index)
    (m : v.openMark = u.openMark) (w : v.window = updateSlot n f u.window) : u.Shrinks v := by
  have same := updateSlot_indices n f u.window h
  rw [← w] at same
  exact ⟨m, same ▸ List.suffix_refl _⟩

theorem takeArrival_shrinks (a : Arrival) (s : State) : s.aou.Shrinks (takeArrival a s).aou := by
  unfold takeArrival
  dsimp only
  split
  · exact .settled (.updated a.index (Slot.store a) (Slot.store_index a) rfl rfl)
  · exact .of_window rfl rfl

theorem Aou.stopFeed_shrinks (m : CutMode) (u : Aou) : u.Shrinks (u.stopFeed m) := by
  cases m <;> exact .of_window rfl rfl

theorem cutTrigger_shrinks (f : Configuration → Bool) (c : CutCause) (s : State) :
    s.aou.Shrinks (cutTrigger f c s).aou := by
  unfold cutTrigger
  split
  · dsimp only
    split
    · exact .of_window rfl rfl
    · refine .settled ?_
      rw [raiseAttn_aou]
      refine .trans ?_ (Aou.stopFeed_shrinks _ _)
      exact .of_window rfl rfl
  · exact .refl _

theorem leaveCut_shrinks (s : State) : s.aou.Shrinks (leaveCut s).aou :=
  .settled (.of_window rfl rfl)

theorem reportFinished_shrinks (s : State) : s.aou.Shrinks (reportFinished s).aou := by
  unfold reportFinished
  split
  · exact .of_window rfl rfl
  · exact .refl _

theorem deadlineExpires_shrinks (n : Index) (s : State) :
    s.aou.Shrinks (deadlineExpires n s).aou := by
  unfold deadlineExpires
  split
  · exact .refl _
  · exact .settled (.updated n (fun t => { t with state := .closed .deadline }) (fun _ => rfl) rfl rfl)

theorem feedRecordSent_shrinks (s : State) : s.aou.Shrinks (feedRecordSent s).aou := by
  unfold feedRecordSent
  split
  · exact .refl _
  · exact .settled (.of_window rfl rfl)

theorem programReady_shrinks (s : State) : s.aou.Shrinks (programReady s).aou :=
  .started (.of_window rfl rfl)

theorem driverAt_shrinks (e : Bool) (s : State) : s.aou.Shrinks (driverAt e s).aou := by
  unfold driverAt
  split
  · exact .settled (.of_window rfl rfl)
  · exact .refl _

/-- A law of the window, kept where it only loses its oldest slots and no other block that the law reads
changes. -/
theorem OutletOps.of_shrinks {P : State → Prop}
    (f : ∀ s t, Foot [.now, .aou, .attn] s t → s.aou.Shrinks t.aou → P s → P t) : OutletOps P where
  arrival a s := f _ _ (takeArrival_foot a s).grow (takeArrival_shrinks a s)
  cut g c s := f _ _ (cutTrigger_foot g c s).grow (cutTrigger_shrinks g c s)
  leaveCut s := f _ _ (leaveCut_foot s).grow (leaveCut_shrinks s)
  finished s := f _ _ (reportFinished_foot s).grow (reportFinished_shrinks s)
  deadline n s := f _ _ (deadlineExpires_foot n s).grow (deadlineExpires_shrinks n s)
  record s := f _ _ (feedRecordSent_foot s).grow (feedRecordSent_shrinks s)
  ready s := f _ _ (programReady_foot s).grow (programReady_shrinks s)
  notReady s := f _ _ (programNotReady_foot s).grow (.of_window rfl rfl)

/-! ### The window law, between boundaries -/

/-- The window law for a window's indices: strictly ascending, none above the open mark. -/
def indicesLaw (mark : Option Index) (ns : List Index) : Prop :=
  (ns.Pairwise fun a b => a.toInt < b.toInt) ∧ ∀ n ∈ ns, ∃ m, mark = some m ∧ n.toInt ≤ m.toInt

theorem windowLaw_iff (s : State) : WindowLaw s ↔
    indicesLaw s.aou.openMark (s.aou.window.map (·.index)) ∧
    (s.tlu.station = .armed → s.aou.openMark = none) ∧
    (s.performing = true → ∀ m, s.aou.openMark = some m →
      ∃ h, s.tlu.high = some h ∧ m.toInt ≤ h.toInt) := by
  rw [indicesLaw, List.pairwise_map, List.forall_mem_map]
  exact ⟨fun h => ⟨⟨h.ascending, h.marked⟩, h.armed, h.high⟩,
    fun ⟨⟨a, m⟩, r, g⟩ => ⟨a, m, r, g⟩⟩

theorem indicesLaw.suffix {mark : Option Index} {ns ms : List Index} (h : indicesLaw mark ns)
    (k : ms <:+ ns) : indicesLaw mark ms :=
  ⟨h.1.sublist k.sublist, fun n m => h.2 n (k.subset m)⟩

/-- Where the window only shrinks, and the station is where it was, the law stays. -/
theorem WindowLaw.of_shrinks {s t : State} (h : WindowLaw s) (k : s.aou.Shrinks t.aou)
    (armed : t.tlu.station = .armed → s.tlu.station = .armed)
    (high : t.performing = true → s.performing = true ∧ t.tlu.high = s.tlu.high) : WindowLaw t := by
  rw [windowLaw_iff] at h ⊢
  obtain ⟨indices, unopened, below⟩ := h
  rw [k.mark]
  refine ⟨indices.suffix k.window, fun a => unopened (armed a), fun p m mark => ?_⟩
  obtain ⟨performing, same⟩ := high p
  rw [same]
  exact below performing m mark

theorem WindowLaw.of_tlu {s t : State} (h : WindowLaw s) (k : s.aou.Shrinks t.aou)
    (e : t.tlu = s.tlu) : WindowLaw t :=
  h.of_shrinks k (by rw [e]; exact id) (by rw [State.performing, e]; exact fun p => ⟨p, rfl⟩)

theorem frames_windowLaw (ps : List Part) (a : Part.aou ∉ ps := by decide)
    (b : Part.tlu ∉ ps := by decide) : Frames ps WindowLaw :=
  fun _ _ f h => h.of_tlu (f.shrinks a) (f.tlu b)

theorem performing_of_running {s : State} (h : s.tlu.station = .running) : s.performing = true := by
  rw [State.performing, h]
  rfl

theorem not_performing_of_armed {s : State} (h : s.tlu.station = .armed) : s.performing = false := by
  rw [State.performing, h]
  rfl

theorem endTaken_windowLaw (b : Word) (l : Index) (s : State) (h : WindowLaw s) :
    WindowLaw (endTaken b l s) := by
  have ignored : WindowLaw (ignoreEnd s) := h.of_shrinks (.refl _) id fun p => ⟨p, rfl⟩
  unfold endTaken
  split
  next running _ =>
    split
    · exact h.of_shrinks (.refl _) nofun fun _ => ⟨performing_of_running running, rfl⟩
    · exact ignored
  · split
    · exact h.of_shrinks (.refl _) id fun p => ⟨p, rfl⟩
    · exact ignored
  next armed _ =>
    split
    · refine h.of_shrinks (.refl _) id fun p => ?_
      exact nomatch (not_performing_of_armed armed).symm.trans p
    · exact ignored
  · exact ignored

theorem timelineOps_windowLaw : TimelineOps WindowLaw where
  note s u e h := h.of_shrinks (.refl _) (by rw [e]; exact id)
    (by rw [State.performing, e]; exact fun p => ⟨p, rfl⟩)
  adopt _ _ _ _ h := h.of_shrinks (.refl _) id fun p => ⟨p, rfl⟩
  enterEnding _ _ running h := h.of_shrinks (.refl _) nofun fun _ =>
    ⟨performing_of_running running, rfl⟩
  endTaken := endTaken_windowLaw
  marked _ _ _ _ _ _ _ h := h.of_shrinks (.refl _) id fun p => ⟨p, rfl⟩
  lostRef _ _ h := h.of_shrinks (.refl _) id fun p => ⟨p, rfl⟩
  drainTimer s h := by
    unfold drainTimerExpires
    split
    · exact h.of_shrinks (.refl _) id fun p => ⟨p, rfl⟩
    · exact h
    · exact h
  done _ _ _ h := h.of_shrinks (.refl _) nofun nofun

/-! ### A boundary -/

/-- A slot joins the window behind every other. -/
theorem indicesLaw.join {mark : Option Index} {ns : List Index} {n : Index} (h : indicesLaw mark ns)
    (above : ∀ m, mark = some m → m.toInt < n.toInt) : indicesLaw (some n) (ns ++ [n]) := by
  obtain ⟨ascending, marked⟩ := h
  have below : ∀ a ∈ ns, a.toInt < n.toInt := fun a mem => by
    obtain ⟨m, mark, le⟩ := marked a mem
    exact Int.lt_of_le_of_lt le (above m mark)
  refine ⟨List.pairwise_append.2 ⟨ascending, List.pairwise_singleton _ _, fun a mem b last => ?_⟩,
    fun a mem => ⟨n, rfl, ?_⟩⟩
  · rw [List.mem_singleton.1 last]
    exact below a mem
  · obtain old | new := List.mem_append.1 mem
    · exact Int.le_of_lt (below a old)
    · exact Int.le_of_eq (congrArg BitVec.toInt (List.mem_singleton.1 new))

/-- A refused slot moves the open mark (R130). -/
theorem indicesLaw.raise {mark : Option Index} {ns : List Index} {n : Index} (h : indicesLaw mark ns)
    (above : ∀ m, mark = some m → m.toInt < n.toInt) : indicesLaw (some n) ns :=
  ⟨(h.join above).1.sublist (List.sublist_append_left _ _),
    fun a m => (h.join above).2 a (List.mem_append_left _ m)⟩

theorem openSlot_indices (n : Index) (e : List Expected) (s : State)
    (h : indicesLaw s.aou.openMark (s.aou.window.map (·.index)))
    (above : ∀ m, s.aou.openMark = some m → m.toInt < n.toInt) :
    (openSlot n e s).aou.openMark = some n ∧
      indicesLaw (some n) ((openSlot n e s).aou.window.map (·.index)) := by
  have joined (u : State) (k : indicesLaw s.aou.openMark (u.aou.window.map (·.index))) :
      indicesLaw (some n) ((joinSlot n e u).aou.window.map (·.index)) := by
    show indicesLaw (some n) (List.map (·.index) (u.aou.window ++
      [({ index := n, state := .opened u.slotDeadline, expected := e } : Slot)]))
    rw [List.map_append]
    exact k.join above
  unfold openSlot
  split
  · exact ⟨rfl, joined s h⟩
  · split
    · exact ⟨rfl, joined s h⟩
    next t rest window =>
      split
      · exact ⟨rfl, h.raise above⟩
      · refine ⟨rfl, joined _ (h.suffix ?_)⟩
        rw [window]
        exact List.suffix_cons _ _

theorem indexLe_iff (a b : Index) : indexLe a b = true ↔ a.toInt ≤ b.toInt := decide_eq_true_iff

theorem indexLt_iff (a b : Index) : indexLt a b = true ↔ a.toInt < b.toInt := decide_eq_true_iff

/-- The Timeline Unit performs: its station is RUNNING or ENDING. -/
def Tlu.performs (t : Tlu) : Bool := t.station == .running || t.station == .ending

theorem State.performing_eq (s : State) : s.performing = s.tlu.performs := rfl

theorem Tlu.presents_some {t : Tlu} {n : Word} {i : Index} (h : t.presents n = some i) :
    t.indexAt n = some i ∧ t.isVoid i = false := by
  obtain ⟨index, valid⟩ := Option.filter_eq_some_iff.1 h
  exact ⟨index, by simpa using valid⟩

/-- An index presented in RUNNING or ENDING is above H (R5). -/
theorem Tlu.high_lt_presented {t : Tlu} {n : Word} {i h : Index} (p : t.presents n = some i)
    (performs : t.performs = true) (high : t.high = some h) : h.toInt < i.toInt := by
  obtain ⟨-, valid⟩ := Tlu.presents_some p
  rw [Tlu.isVoid, show (t.station == .running || t.station == .ending) = true from performs, high,
    Bool.true_and] at valid
  exact Int.not_le.1 fun le => nomatch ((indexLe_iff i h).2 le).symm.trans valid

/-- After a boundary the station performs if it entered RUNNING at it, or performed before. -/
theorem Tlu.performs_atBoundary {t : Tlu} {n : Word} (h : (t.atBoundary n).performs = true) :
    t.entersAt n = true ∨ t.performs = true := by
  by_cases enters : t.entersAt n = true
  · exact .inl enters
  · rw [Tlu.performs, show (t.atBoundary n).station = t.station from if_neg enters] at h
    exact .inr h

theorem Tlu.highAt_presented {t : Tlu} {n : Word} {i : Index} (p : t.presents n = some i)
    (h : (t.atBoundary n).performs = true) : t.highAt n = some i := by
  obtain ⟨index, valid⟩ := Tlu.presents_some p
  have raises : t.raisesHigh n = true := by
    rw [Tlu.raisesHigh, Tlu.voidAt, index, Bool.or_eq_true]
    refine (Tlu.performs_atBoundary h).imp_right fun performs => ?_
    rw [show (t.station == .running || t.station == .ending) = true from performs]
    show (true && !t.isVoid i) = true
    rw [valid]
    rfl
  rw [Tlu.highAt, index]
  exact if_pos raises

/-- A boundary that presents no index changes neither the station nor H (R5, R9). -/
theorem Tlu.atBoundary_of_void {t : Tlu} {n : Word} (p : t.presents n = none) :
    (t.atBoundary n).station = t.station ∧ (t.atBoundary n).high = t.high := by
  cases index : t.indexAt n with
  | none =>
    have enters : t.entersAt n = false := by
      rw [Tlu.entersAt, index]
      exact Bool.and_false _
    refine ⟨if_neg (by rw [enters]; exact nofun), ?_⟩
    show t.highAt n = t.high
    rw [Tlu.highAt, index]
  | some i =>
    have void : t.isVoid i = true := by
      refine Classical.byContradiction fun valid => ?_
      rw [Tlu.presents, index, Option.filter_some, Bool.eq_false_iff.2 valid] at p
      exact nomatch p
    have performs : t.performs = true := (Bool.and_eq_true_iff.1 void).1
    have enters : t.entersAt n = false := by
      refine Classical.byContradiction fun enters => ?_
      have armed := Tlu.armed_of_entersAt (Bool.not_eq_false _ ▸ enters)
      rw [Tlu.performs, armed] at performs
      exact nomatch performs
    refine ⟨if_neg (by rw [enters]; exact nofun), ?_⟩
    show t.highAt n = t.high
    rw [Tlu.highAt, index]
    refine if_neg ?_
    rw [Tlu.raisesHigh, enters, Tlu.voidAt, index, Bool.false_or]
    show ¬ ((_ && !t.isVoid i) = true)
    rw [void, Bool.not_true, Bool.and_false]
    exact nofun

/-- The slot at a boundary that opens one: RUNNING or ENDING. -/
theorem State.performing_of_opensSlot {s : State} {n : Index} (h : s.opensSlot n = true) :
    s.performing = true := by
  obtain ⟨-, opens⟩ := Bool.and_eq_true_iff.1 h
  rw [State.performing, Bool.or_eq_true]
  exact (Bool.or_eq_true_iff.1 opens).imp_right fun e => (Bool.and_eq_true_iff.1 e).1

/-- The state in which the slot of a boundary opens. -/
def boundaryBefore (n : Word) (s : State) : State :=
  driverAt (s.tlu.entersAt n) (ageAt (s.tlu.presents n) (openPeriod (s.tlu.presents n)
    (closePeriod (s.tlu.presents n) (gradeAt (s.tlu.presents n) (s.tlu.entersAt n)
      (tluBoundary n s)))))

theorem boundaryFrom_eq (n : Word) (s : State) : boundaryFrom n s =
    feedSettle (slotAt (s.tlu.presents n) s.expectedSet (boundaryBefore n s)) := rfl

theorem boundaryBefore_shrinks (n : Word) (s : State) :
    s.aou.Shrinks (boundaryBefore n s).aou := by
  refine .trans ?_ (driverAt_shrinks _ _)
  refine .trans (v := (gradeAt (s.tlu.presents n) (s.tlu.entersAt n) (tluBoundary n s)).aou) ?_ ?_
  · exact (tluBoundary_foot n s).shrinks.trans (gradeAt_foot _ _ _).shrinks
  · exact (closePeriod_foot _ _).shrinks.trans
      ((openPeriod_foot _ _).shrinks.trans (ageAt_foot _ _).shrinks)

theorem boundaryBefore_tlu (n : Word) (s : State) :
    ∃ i, (boundaryBefore n s).tlu = { s.tlu.atBoundary n with codedIndex := i } := by
  obtain ⟨i, tlu⟩ := boundaryFrom_tlu n s
  rw [boundaryFrom_eq, (feedSettle_foot _).tlu (by decide), (slotAt_foot _ _ _).tlu (by decide)] at tlu
  exact ⟨i, tlu⟩

theorem slotAt_none (e : List Expected) (s : State) : slotAt none e s = s := rfl

/-- A boundary keeps the window law: the slot it opens is above H, and H moves to it (R5, R129). -/
theorem boundaryFrom_windowLaw (n : Word) (s : State) (h : WindowLaw s) :
    WindowLaw (boundaryFrom n s) := by
  obtain ⟨i, tlu⟩ := boundaryBefore_tlu n s
  have shrinks := boundaryBefore_shrinks n s
  rw [boundaryFrom_eq]
  generalize boundaryBefore n s = v at tlu shrinks ⊢
  have station : v.tlu.station = (s.tlu.atBoundary n).station := by rw [tlu]
  have high : v.tlu.high = s.tlu.highAt n := by rw [tlu]; rfl
  have performs : v.performing = (s.tlu.atBoundary n).performs := by
    rw [State.performing, station]
    rfl
  have armed : v.tlu.station = .armed → s.tlu.station = .armed := by
    rw [station]
    show (if s.tlu.entersAt n then StationState.running else s.tlu.station) = .armed → _
    split
    · exact nofun
    · exact id
  cases p : s.tlu.presents n with
  | none =>
    obtain ⟨same, sameHigh⟩ := Tlu.atBoundary_of_void p
    have stays : (feedSettle v).tlu = v.tlu := (feedSettle_foot v).tlu (by decide)
    refine h.of_shrinks shrinks.settled (by rw [slotAt_none, stays]; exact armed) ?_
    rw [slotAt_none, State.performing, stays, station, same, high]
    exact fun q => ⟨q, sameHigh⟩
  | some index =>
    have settled := h
    rw [windowLaw_iff] at settled
    obtain ⟨indices, unopened, below⟩ := settled
    rw [← shrinks.mark] at indices unopened below
    have above (q : v.performing = true) (m : Index) (mark : v.aou.openMark = some m) :
        m.toInt < index.toInt := by
      obtain enters | performing := Tlu.performs_atBoundary (performs.symm.trans q)
      · exact nomatch (unopened (Tlu.armed_of_entersAt enters)).symm.trans mark
      · obtain ⟨old, was, le⟩ := below performing m mark
        exact Int.lt_of_le_of_lt le (Tlu.high_lt_presented p performing was)
    have raised (q : v.performing = true) : v.tlu.high = some index :=
      high.trans (Tlu.highAt_presented p (performs.symm.trans q))
    unfold slotAt
    dsimp only
    have law : WindowLaw (if v.opensSlot index then openSlot index s.expectedSet v else v) := by
      rw [windowLaw_iff]
      split
      next opens =>
        have performing := State.performing_of_opensSlot opens
        obtain ⟨mark, joined⟩ := openSlot_indices index s.expectedSet v
          (indices.suffix shrinks.window) (above performing)
        rw [mark, State.performing, (openSlot_foot _ _ _).tlu (by decide)]
        refine ⟨joined, fun a => ?_, fun q m same => ?_⟩
        · exact nomatch (not_performing_of_armed a).symm.trans performing
        · exact ⟨index, raised q, Int.le_of_eq (congrArg BitVec.toInt (Option.some.inj same).symm)⟩
      next => exact ⟨indices.suffix shrinks.window, fun a => unopened (armed a),
          fun q m mark => ⟨index, raised q, Int.le_of_lt (above q m mark)⟩⟩
    exact law.of_tlu (.settled (.refl _)) ((feedSettle_foot _).tlu (by decide))

/-! ### Every step -/

theorem ops_windowLaw : Ops WindowLaw where
  toPortOps := .of_frames (frames_windowLaw _)
  toTimelineOps := timelineOps_windowLaw
  toCaptureOps := .of_frames (frames_windowLaw _)
  toDeliveryOps := .of_frames (frames_windowLaw _)
  toRosterOps := rosterOps_outlet (frames_windowLaw _) fun a s h =>
    h.of_tlu (takeArrival_shrinks a s) ((takeArrival_foot a s).tlu (by decide))
  toCueOps := .of_frames (frames_windowLaw _)
  toOutletOps := .of_shrinks fun _ _ f k h => h.of_tlu k (f.tlu (by decide))
  toKeepOps := .of_frames (frames_windowLaw _)
  toConsoleOps := .of_frames (frames_windowLaw _)
  reach _ _ h := h.of_tlu (.refl _) rfl
  boundary := boundaryFrom_windowLaw
  queue _ _ h := h.of_tlu (.refl _) rfl
  reset _ _ _ := ⟨.nil, nofun, fun _ => rfl, nofun⟩
  loaded _ c d s _ _ h := by
    refine (frames_windowLaw _).of (applyLoad_foot_blocks c d _) (h.of_shrinks ?_ nofun nofun)
    exact .of_window rfl rfl
  armed s _ _ _ := (frames_windowLaw _).of (s := armBlocks s) (armed_foot_blocks s)
    ⟨.nil, nofun, fun _ => rfl, nofun⟩
  zeroed _ h := h.of_shrinks (.of_window rfl rfl) id fun p => ⟨p, rfl⟩
  clearAttn _ _ h := h.of_tlu (.refl _) rfl

/-- Settles O60: the window law is kept by each operation of each block (`ops_windowLaw`). -/
theorem windowLawKept : Obligations.WindowLawKept :=
  ops_windowLaw.step

end Sys2Proof.Machine
end

section
/-! The station's life: every step keeps what the station states go with (O58). -/

namespace Sys2Proof.Machine

/-! ### The law in three parts -/

/-- What is present and what is enabled goes with the station state. -/
structure State.Settings (s : State) : Prop where
  config : s.csu.config.isSome = !s.unconfigured
  cues : s.pcu.cues.isSome = !s.unconfigured
  locked : s.csu.locked = s.armedOnward
  enabled : s.lku.enabled = s.armedOnward
  loading : s.armedOnward = true → s.csu.load = .idle
  incarnation : s.tlu.incarnation.isSome = s.armedOnward
  beacon : s.pcu.beaconAt.isSome = s.armedOnward

/-- What the Timeline Unit holds goes with its station state. -/
structure Tlu.Life (t : Tlu) : Prop where
  epoch : t.performs = true ∨ t.station = .done → t.epoch.isSome = true ∧ t.high.isSome = true
  last : t.station = .ending ∨ t.station = .done → t.last.isSome = true
  drainTimer : t.station ≠ .ending → t.endTimer = .stopped
  lossTimer : t.lossTimer.isSome = (t.ref == .acquiring || t.ref == .locked)
  reference : t.station = .unconfigured → t.ref = .noRef

/-- Nothing of a performance: what holds before ARM. -/
structure State.Fresh (s : State) : Prop where
  roster : s.rst.entries = []
  spool : s.ksp = { counts := s.ksp.counts }
  window : s.aou.window = []
  mark : s.aou.openMark = none
  batch : s.sgc.batch = none
  grade : s.sgc.grade = 0
  period : s.cfr.period = none
  sequence : s.dlu.nextSeq = 0

theorem State.unconfigured_iff (s : State) :
    s.unconfigured = true ↔ s.tlu.station = .unconfigured := beq_iff_eq

theorem State.past_armed_iff (s : State) : s.armedOnward = true ∧ s.tlu.station ≠ .armed ↔
    s.tlu.performs = true ∨ s.tlu.station = .done := by
  rw [State.armedOnward, Tlu.performs]
  cases s.tlu.station <;> decide

theorem lifecycle_iff (s : State) :
    Lifecycle s ↔ s.Settings ∧ s.tlu.Life ∧ (s.armedOnward = false → s.Fresh) := by
  constructor
  · intro h
    refine ⟨{ h with }, ⟨fun past => ?_, h.last, h.drainTimer, h.lossTimer, fun u =>
      h.reference (s.unconfigured_iff.2 u)⟩, fun before => ?_⟩
    · obtain ⟨armed, other⟩ := s.past_armed_iff.2 past
      exact h.epoch armed other
    · obtain ⟨roster, spool, window, mark, batch, grade, period, sequence⟩ := h.idle before
      exact ⟨roster, spool, window, mark, batch, grade, period, sequence⟩
  · rintro ⟨settings, life, fresh⟩
    exact { settings with
      epoch := fun armed other => life.epoch (s.past_armed_iff.1 ⟨armed, other⟩)
      last := life.last
      drainTimer := life.drainTimer
      lossTimer := life.lossTimer
      reference := fun u => life.reference (s.unconfigured_iff.1 u)
      idle := fun before =>
        have f := fresh before
        ⟨f.roster, f.spool, f.window, f.mark, f.batch, f.grade, f.period, f.sequence⟩ }

/-- What `Settings` reads is the same in two states. -/
structure State.SameSettings (s t : State) : Prop where
  unconfigured : t.unconfigured = s.unconfigured
  armedOnward : t.armedOnward = s.armedOnward
  config : t.csu.config.isSome = s.csu.config.isSome
  cues : t.pcu.cues.isSome = s.pcu.cues.isSome
  locked : t.csu.locked = s.csu.locked
  enabled : t.lku.enabled = s.lku.enabled
  loading : s.csu.load = .idle → t.csu.load = .idle
  incarnation : t.tlu.incarnation.isSome = s.tlu.incarnation.isSome
  beacon : t.pcu.beaconAt.isSome = s.pcu.beaconAt.isSome

theorem State.Settings.same {s t : State} (h : s.Settings) (k : s.SameSettings t) : t.Settings where
  config := by rw [k.config, k.unconfigured]; exact h.config
  cues := by rw [k.cues, k.unconfigured]; exact h.cues
  locked := by rw [k.locked, k.armedOnward]; exact h.locked
  enabled := by rw [k.enabled, k.armedOnward]; exact h.enabled
  loading a := k.loading (h.loading (k.armedOnward ▸ a))
  incarnation := by rw [k.incarnation, k.armedOnward]; exact h.incarnation
  beacon := by rw [k.beacon, k.armedOnward]; exact h.beacon

theorem Foot.armedOnward {ps : List Part} {s t : State} (f : Foot ps s t)
    (n : Part.tlu ∉ ps := by decide) : t.armedOnward = s.armedOnward := by
  rw [State.armedOnward, f.tlu n]
  rfl

theorem Foot.sameSettings {ps : List Part} {s t : State} (f : Foot ps s t)
    (a : Part.tlu ∉ ps := by decide) (b : Part.link ∉ ps := by decide)
    (c : Part.pcu ∉ ps := by decide) (d : Part.console ∉ ps := by decide) : s.SameSettings t := by
  have csu := f.console d
  have pcu := f.pcu c
  exact ⟨f.unconfigured a, f.armedOnward a, by rw [csu], by rw [pcu], by rw [csu], (f.link b).1,
    by rw [csu]; exact id, by rw [f.tlu a], by rw [pcu]⟩

theorem Foot.fresh {ps : List Part} {s t : State} (f : Foot ps s t) (h : s.Fresh)
    (a : Part.rst ∉ ps := by decide) (b : Part.ksp ∉ ps := by decide)
    (c : Part.aou ∉ ps := by decide) (d : Part.sgc ∉ ps := by decide)
    (e : Part.cfr ∉ ps := by decide) (g : Part.dlu ∉ ps := by decide) : t.Fresh := by
  have ksp := f.ksp b
  have aou := f.aou c
  have sgc := f.sgc d
  exact ⟨by rw [f.rst a]; exact h.roster, by rw [ksp]; exact h.spool, by rw [aou]; exact h.window,
    by rw [aou]; exact h.mark, by rw [sgc]; exact h.batch, by rw [sgc]; exact h.grade,
    by rw [f.cfr e]; exact h.period, by rw [(f.dlu g).2.1]; exact h.sequence⟩

/-- An operation that changes none of the settings. -/
theorem Lifecycle.same {s t : State} (h : Lifecycle s) (k : s.SameSettings t)
    (life : s.tlu.Life → t.tlu.Life) (fresh : s.armedOnward = false → s.Fresh → t.Fresh) :
    Lifecycle t := by
  rw [lifecycle_iff] at h ⊢
  obtain ⟨settings, old, new⟩ := h
  exact ⟨settings.same k, life old, fun b => fresh (k.armedOnward ▸ b) (new (k.armedOnward ▸ b))⟩

/-- An operation that leaves the Timeline Unit too. -/
theorem Lifecycle.of_foot {ps : List Part} {s t : State} (h : Lifecycle s) (f : Foot ps s t)
    (fresh : s.armedOnward = false → s.Fresh → t.Fresh) (a : Part.tlu ∉ ps := by decide)
    (b : Part.link ∉ ps := by decide) (c : Part.pcu ∉ ps := by decide)
    (d : Part.console ∉ ps := by decide) : Lifecycle t :=
  h.same (f.sameSettings a b c d) (by rw [f.tlu a]; exact id) fresh

theorem Lifecycle.life {s : State} (h : Lifecycle s) : s.tlu.Life :=
  ((lifecycle_iff s).1 h).2.1

theorem frames_lifecycle (ps : List Part) (a : Part.tlu ∉ ps := by decide)
    (b : Part.link ∉ ps := by decide) (c : Part.pcu ∉ ps := by decide)
    (d : Part.console ∉ ps := by decide) (e : Part.rst ∉ ps := by decide)
    (f : Part.ksp ∉ ps := by decide) (g : Part.aou ∉ ps := by decide)
    (i : Part.sgc ∉ ps := by decide) (j : Part.cfr ∉ ps := by decide)
    (k : Part.dlu ∉ ps := by decide) : Frames ps Lifecycle :=
  fun _ _ foot h => h.of_foot foot (fun _ fresh => foot.fresh fresh e f g i j k) a b c d

/-! ### The ports -/

theorem portOps_lifecycle : PortOps Lifecycle where
  countPort _ _ _ := (frames_lifecycle _).of (State.countPort_foot _ _ _)
  offer _ _ _ _ := (frames_lifecycle _).of (offerFrame_foot _ _ _ _)
  helloTaken _ _ _ := (frames_lifecycle _).of (helloTaken_foot _ _ _)
  holdTaken _ _ _ := (frames_lifecycle _).of (holdTaken_foot _ _ _)
  helloDue s h := by
    have f := helloDue_foot s
    have same := helloDue_sameLink s
    refine h.same ⟨same.unconfigured, f.armedOnward, ?_, ?_, ?_, same.enabled, ?_, ?_, ?_⟩ ?_
      fun _ k => f.fresh k
    · rw [f.csu_eq]
    · rw [f.pcu (by decide)]
    · rw [f.csu_eq]
    · rw [f.csu_eq]; exact id
    · rw [f.tlu (by decide)]
    · rw [f.pcu (by decide)]
    · rw [f.tlu (by decide)]; exact id
  appears _ _ := (frames_lifecycle _).of (carrierAppears_foot _ _)
  lost _ _ := (frames_lifecycle _).of (carrierLost_foot _ _)
  silent _ _ := (frames_lifecycle _).of (silenceExpires_foot _ _)
  holdExpires _ _ := (frames_lifecycle _).of (holdExpires_foot _ _)
  refresh _ _ := (frames_lifecycle _).of (refreshExpires_foot _ _)
  sentFrame _ _ := (frames_lifecycle _).of (frameSent_foot _ _)

/-! ### The Timeline Unit -/

/-- A change of the Timeline Unit alone that keeps ARMED onward ARMED onward, and the incarnation. -/
theorem Lifecycle.onTlu {ps : List Part} {s t : State} (h : Lifecycle s) (f : Foot ps s t)
    (u : t.unconfigured = s.unconfigured) (a : t.armedOnward = s.armedOnward)
    (i : t.tlu.incarnation = s.tlu.incarnation) (life : t.tlu.Life)
    (m : ∀ x ∈ ps, x = .now ∨ x = .tlu := by decide) : Lifecycle t := by
  have g : Foot [.now, .tlu] s t := f.grow fun x n => by
    rcases m x n with rfl | rfl <;> decide
  refine h.same ⟨u, a, ?_, ?_, ?_, (g.link (by decide)).1, ?_, by rw [i], ?_⟩ (fun _ => life)
    fun _ k => g.fresh k
  · rw [g.csu_eq]
  · rw [g.pcu (by decide)]
  · rw [g.csu_eq]
  · rw [g.csu_eq]; exact id
  · rw [g.pcu (by decide)]

theorem endTaken_lifecycle (b : Word) (l : Index) (s : State) (h : Lifecycle s) :
    Lifecycle (endTaken b l s) := by
  have life := h.life
  have ignored : Lifecycle (ignoreEnd s) :=
    h.onTlu (State.onTlu_foot _ _) rfl rfl rfl { life with }
  unfold endTaken
  split
  next running _ =>
    have performs : s.tlu.performs = true := by rw [Tlu.performs, running]; rfl
    split
    · refine h.onTlu (enterEnding_foot _ _) ?_ ?_ rfl { life with
        epoch := fun _ => life.epoch (.inl performs)
        last := fun _ => rfl
        drainTimer := fun n => absurd rfl n
        reference := nofun }
      · rw [State.unconfigured, State.unconfigured, running]; rfl
      · rw [State.armedOnward, State.armedOnward, running]; rfl
    · exact ignored
  · split
    · exact h.onTlu (State.onTlu_foot _ _) rfl rfl rfl { life with last := fun _ => rfl }
    · exact ignored
  next armed _ =>
    split
    · refine h.onTlu (State.onTlu_foot _ _) rfl rfl rfl { life with
        epoch := fun past => ?_
        last := fun past => ?_ }
      · have not : ¬ (s.tlu.performs = true ∨ s.tlu.station = .done) := by
          rw [Tlu.performs, armed]
          decide
        exact absurd past not
      · have not : ¬ (s.tlu.station = .ending ∨ s.tlu.station = .done) := by
          rw [armed]
          decide
        exact absurd past not
    · exact ignored
  · exact ignored

theorem timelineOps_lifecycle : TimelineOps Lifecycle where
  note s u e h := by
    have life := h.life
    rw [e]
    exact h.onTlu (State.onTlu_foot (fun _ => _) s) rfl rfl rfl { life with }
  adopt b o s armed h := by
    have life := h.life
    refine h.onTlu (adoptEpoch_foot _ _ _) rfl rfl rfl { life with
      epoch := fun past => ?_ }
    have not : ¬ (s.tlu.performs = true ∨ s.tlu.station = .done) := by
      rw [Tlu.performs, armed]
      decide
    exact absurd past not
  enterEnding l s running h := by
    have life := h.life
    have performs : s.tlu.performs = true := by rw [Tlu.performs, running]; rfl
    refine h.onTlu (enterEnding_foot _ _) ?_ ?_ rfl { life with
      epoch := fun _ => life.epoch (.inl performs)
      last := fun _ => rfl
      drainTimer := fun n => absurd rfl n
      reference := nofun }
    · rw [State.unconfigured, State.unconfigured, running]; rfl
    · rw [State.armedOnward, State.armedOnward, running]; rfl
  endTaken := endTaken_lifecycle
  marked n d r k s configured ref h := by
    have life := h.life
    refine h.onTlu (State.onTlu_foot _ _) rfl rfl rfl { life with
      lossTimer := ?_
      reference := fun u => ?_ }
    · obtain rfl | rfl := ref <;> rfl
    · exact nomatch configured.symm.trans (s.unconfigured_iff.2 u)
  lostRef s runs h := by
    have life := h.life
    refine h.onTlu (State.onTlu_foot _ _) rfl rfl rfl { life with
      lossTimer := rfl
      reference := fun u => ?_ }
    have timed := life.lossTimer
    rw [runs, life.reference u] at timed
    exact nomatch timed
  drainTimer s h := by
    have life := h.life
    have foot := drainTimerExpires_foot s
    unfold drainTimerExpires at foot ⊢
    split at foot
    next t runs =>
      refine h.onTlu foot rfl rfl rfl { life with drainTimer := fun n => ?_ }
      exact nomatch runs.symm.trans (life.drainTimer n)
    · exact h
    · exact h
  done s c ending h := by
    have life := h.life
    have performs : s.tlu.performs = true := by rw [Tlu.performs, ending]; rfl
    refine h.onTlu (State.onTlu_foot _ _) ?_ ?_ rfl { life with
      epoch := fun _ => life.epoch (.inl performs)
      last := fun _ => life.last (.inl ending)
      drainTimer := fun _ => rfl
      reference := nofun }
    · rw [State.unconfigured, State.unconfigured, ending]; rfl
    · rw [State.armedOnward, State.armedOnward, ending]; rfl

/-! ### The Capture Front and the Segment Coder -/

theorem lineError_period (k : Nat) (f : CaptureFlag) (s : State) :
    (lineError k f s).cfr.period = s.cfr.period := by
  rw [lineError_cfr]
  rfl

theorem receiveBits_period (k n : Nat) (bits : List Bool) (s : State) :
    (receiveBits k n bits s).cfr.period = s.cfr.period := by
  induction n generalizing bits s with
  | zero => rfl
  | succ n ih =>
    unfold receiveBits
    split
    · rfl
    · dsimp only
      split
      · rfl
      · exact ih _ _
    · split
      · rw [ih]
        exact lineError_period _ _ _
      · split
        · rfl
        · rw [ih]
          unfold frameComplete
          split
          · rfl
          · exact lineError_period _ _ _

theorem lineErrors_period (k : Nat) (f : CaptureFlag) (n : Nat) (s : State) :
    (lineErrors k f n s).cfr.period = s.cfr.period := by
  induction n generalizing s with
  | zero => rfl
  | succ n ih => exact (ih _).trans (lineError_period _ _ _)

theorem afterTake_period (k : Nat) (s : State) : (afterTake k s).cfr.period = s.cfr.period := by
  unfold afterTake
  dsimp only
  split
  · rfl
  · rfl
  · exact lineError_period _ _ _
  · exact lineErrors_period _ _ _ _

theorem takeLine_period_none (k : Nat) (s : State) (h : s.cfr.period = none) :
    (takeLine k s).cfr.period = none := by
  rw [takeLine, afterTake_period]
  show Option.map _ s.cfr.period = none
  rw [h]
  rfl

/-- A change of the Capture Front that opens no accumulation. -/
theorem Lifecycle.onCfr {ps : List Part} {s t : State} (h : Lifecycle s) (f : Foot ps s t)
    (p : s.cfr.period = none → t.cfr.period = none)
    (m : ∀ x ∈ ps, x = .cfr ∨ x = .attn := by decide) : Lifecycle t := by
  have g : Foot [.cfr, .attn] s t := f.grow fun x n => by
    rcases m x n with rfl | rfl <;> decide
  refine h.of_foot g fun _ k => ⟨?_, ?_, ?_, ?_, ?_, ?_, p k.period, ?_⟩
  · rw [g.rst (by decide)]; exact k.roster
  · rw [g.ksp (by decide)]; exact k.spool
  · rw [g.aou (by decide)]; exact k.window
  · rw [g.aou (by decide)]; exact k.mark
  · rw [g.sgc (by decide)]; exact k.batch
  · rw [g.sgc (by decide)]; exact k.grade
  · rw [(g.dlu (by decide)).2.1]; exact k.sequence

theorem captureOps_lifecycle : CaptureOps Lifecycle where
  bits k b s h := h.onCfr (lineBits_foot k b s) (by rw [lineBits, receiveBits_period]; exact id)
  stop k s h := by
    refine h.onCfr (clockStops_foot k s) fun none => ?_
    unfold clockStops
    split <;> exact none
  take s h := by
    refine h.onCfr (takeAll_foot s) fun none => ?_
    unfold takeAll
    split
    · exact none
    · exact takeLine_period_none _ _ (takeLine_period_none _ _ (takeLine_period_none _ _
        (takeLine_period_none _ _ none)))
  discard s h := by
    refine h.onCfr (discardPeriod_foot s) fun none => ?_
    unfold discardPeriod
    rw [none]
    exact none
  clearFlags _ _ h := h.onCfr (State.onCfr_foot _ _) id
  coder s u grade batch h := by
    have foot : Foot [.sgc] s { s with sgc := u } := State.onSgc_foot (fun _ => u) s
    refine h.of_foot foot fun _ k => { k with
      batch := ?_
      grade := grade.trans k.grade }
    obtain none | some := batch
    · exact none
    · rw [k.batch] at some
      exact nomatch some

/-! ### The other blocks -/

theorem Lifecycle.fresh {s : State} (h : Lifecycle s) (b : s.armedOnward = false) : s.Fresh :=
  ((lifecycle_iff s).1 h).2.2 b

theorem Lifecycle.settings {s : State} (h : Lifecycle s) : s.Settings :=
  ((lifecycle_iff s).1 h).1

/-- Before ARM nothing may issue a ring sequence. -/
theorem Lifecycle.armed_of_mayIssue {s : State} (h : Lifecycle s) (m : s.mayIssue) :
    s.armedOnward = true := by
  refine Classical.byContradiction fun before => ?_
  have b : s.armedOnward = false := Bool.eq_false_iff.2 before
  obtain armed | batch | beacon := m
  · exact before armed
  · rw [(h.fresh b).batch] at batch
    exact nomatch batch
  · rw [h.settings.beacon] at beacon
    exact before beacon

theorem deliveryOps_lifecycle : DeliveryOps Lifecycle where
  delivery s u issued _ _ h := by
    have foot : Foot [.dlu, .muted] s { s with dlu := u } := State.onDlu_foot (fun _ => u) s
    refine h.of_foot foot fun b k => { k with sequence := ?_ }
    obtain same | ⟨may, -⟩ := issued
    · exact same.trans k.sequence
    · exact nomatch b.symm.trans (h.armed_of_mayIssue may)

/-- Where an operation does nothing before ARM, the law asks nothing of it. -/
theorem Lifecycle.armed {ps : List Part} {s t : State} (h : Lifecycle s) (f : Foot ps s t)
    (a : s.armedOnward = false → t = s) (b : Part.tlu ∉ ps := by decide)
    (c : Part.link ∉ ps := by decide) (d : Part.pcu ∉ ps := by decide)
    (e : Part.console ∉ ps := by decide) : Lifecycle t :=
  h.of_foot f (fun before k => (a before).symm ▸ k) b c d e

theorem rosterAir_before {s : State} (o : Nat) (a : AirBody) (b : s.armedOnward = false) :
    rosterAir o a s = s := by
  unfold rosterAir
  rw [b]
  rfl

theorem rosterCue_before {s : State} (i : Nat) (v : CueValue) (b : s.armedOnward = false) :
    rosterCue i v s = s := by
  unfold rosterCue
  rw [b]
  rfl

theorem rosterOps_lifecycle : RosterOps Lifecycle where
  air o a s h := h.armed (rosterAir_foot o a s) (rosterAir_before o a)
  cue i v s h := h.armed (rosterCue_foot i v s) (rosterCue_before i v)
  flush st s h := h.of_foot (flushPeer_foot st s) fun _ k => { k with
    roster := by
      show s.rst.entries.filter _ = []
      rw [k.roster]
      rfl }

theorem cueOps_lifecycle : CueOps Lifecycle where
  peers s u cues _ beacon h := by
    refine h.same ⟨rfl, rfl, rfl, ?_, rfl, rfl, id, rfl, beacon⟩ id fun _ k => { k with }
    have sizes := congrArg Option.isSome cues
    rw [Option.isSome_map, Option.isSome_map] at sizes
    exact sizes

theorem Aou.Shrinks.fresh {u v : Aou} (h : u.Shrinks v) (w : u.window = []) : v.window = [] := by
  have suffix := h.window
  rw [w] at suffix
  exact List.map_eq_nil_iff.1 (List.suffix_nil.1 suffix)

theorem outletOps_lifecycle : OutletOps Lifecycle := .of_shrinks fun s t f k h => by
  refine h.of_foot f fun _ g => ⟨?_, ?_, k.fresh g.window, k.mark.trans g.mark, ?_, ?_, ?_, ?_⟩
  · rw [f.rst (by decide)]; exact g.roster
  · rw [f.ksp (by decide)]; exact g.spool
  · rw [f.sgc (by decide)]; exact g.batch
  · rw [f.sgc (by decide)]; exact g.grade
  · rw [f.cfr (by decide)]; exact g.period
  · rw [(f.dlu (by decide)).2.1]; exact g.sequence

/-- Without an incarnation no outlet counts for freeing. -/
theorem recomputeFree_before {s : State} (n : s.tlu.incarnation = none) : recomputeFree s = s := by
  have target : s.freeTarget = none := by
    rw [State.freeTarget, State.countedOutlets, n]
    rfl
  unfold recomputeFree
  rw [target]

theorem Lifecycle.incarnation_none {s : State} (h : Lifecycle s) (b : s.armedOnward = false) :
    s.tlu.incarnation = none := by
  have incarnation := h.settings.incarnation
  rw [b] at incarnation
  exact Option.isSome_eq_false_iff.1 incarnation |> Option.isNone_iff_eq_none.1

theorem tellOwnSpool_before {s : State} (o : Nat) (i : Word) (n : s.tlu.incarnation = none) :
    tellOwnSpool o i s = s := by
  unfold tellOwnSpool
  rw [if_neg]
  rw [n]
  exact fun both => nomatch both.2

/-- A change of the Keep Outlet and the spool that leaves the spool before ARM. -/
theorem Lifecycle.onKeep {ps : List Part} {s t : State} (h : Lifecycle s) (f : Foot ps s t)
    (p : s.armedOnward = false → t.ksp = s.ksp)
    (m : ∀ x ∈ ps, x = .kou ∨ x = .ksp ∨ x = .attn ∨ x = .now := by decide) : Lifecycle t := by
  have g : Foot [.kou, .ksp, .attn, .now] s t := f.grow fun x n => by
    rcases m x n with rfl | rfl | rfl | rfl <;> decide
  refine h.of_foot g fun b k => ⟨?_, ?_, ?_, ?_, ?_, ?_, ?_, ?_⟩
  · rw [g.rst (by decide)]; exact k.roster
  · rw [p b]; exact k.spool
  · rw [g.aou (by decide)]; exact k.window
  · rw [g.aou (by decide)]; exact k.mark
  · rw [g.sgc (by decide)]; exact k.batch
  · rw [g.sgc (by decide)]; exact k.grade
  · rw [g.cfr (by decide)]; exact k.period
  · rw [(g.dlu (by decide)).2.1]; exact k.sequence

theorem recordSent_before {s : State} (r : ArchiveRecord) (n : s.tlu.incarnation = none) :
    (recordSent r s).ksp = s.ksp := by
  unfold recordSent
  split
  · rfl
  · split
    · rfl
    · split
      · rw [tellOwnSpool_before _ _ (by exact n)]
        rfl
      · rfl

theorem keepOps_lifecycle : KeepOps Lifecycle where
  append b s h := h.onKeep (appendKeep_foot b s) fun before => by
    unfold appendKeep
    rw [before]
    rfl
  recompute s h := h.onKeep (recomputeFree_foot s) fun before => by
    rw [recomputeFree_before (h.incarnation_none before)]
  advance s performing h := h.onKeep (advanceDrain_foot s) fun before =>
    nomatch before.symm.trans (State.armedOnward_of_performing performing)
  resend s h := h.onKeep (resendExpires_foot s) fun before => by
    have idle : s.ksp.resendAt = none := by rw [(h.fresh before).spool]
    unfold resendExpires
    rw [idle]
  takeKeep o i b f s h := h.onKeep (takeKeep_foot o i b f s) fun before => by
    unfold takeKeep
    rw [before]
    rfl
  archived s h := h.onKeep (archiveRecordSent_foot s) fun before => by
    unfold archiveRecordSent
    split
    · rfl
    · rw [(archiveSettle_foot _).ksp (by decide)]
      exact recordSent_before (s := s.onKou _) _ (h.incarnation_none before)
  archive s h := h.onKeep (archiveReady_foot s) fun _ => rfl
  noArchive s h := h.onKeep (archiveNotReady_foot s) fun _ => rfl

theorem consoleOps_lifecycle : ConsoleOps Lifecycle where
  console s u e _ h := by
    refine h.same ⟨rfl, rfl, ?_, rfl, ?_, rfl, ?_, rfl, rfl⟩ id fun _ k => { k with }
    · rw [show ({ s with csu := u } : State).csu = u from rfl, e]
    · rw [show ({ s with csu := u } : State).csu = u from rfl, e]
    · rw [show ({ s with csu := u } : State).csu = u from rfl, e]; exact id
  loading s l _ before _ h := by
    have notArmed : s.armedOnward = false := by
      obtain busy | b := before
      · refine Classical.byContradiction fun armed => ?_
        exact busy (h.settings.loading (Bool.not_eq_false _ ▸ armed))
      · exact b
    rw [lifecycle_iff] at h ⊢
    obtain ⟨settings, life, fresh⟩ := h
    exact ⟨{ settings with loading := fun a => nomatch notArmed.symm.trans a }, life,
      fun b => { fresh b with }⟩
  loadEnds s h := h.same ⟨rfl, rfl, rfl, rfl, rfl, rfl, fun _ => rfl, rfl, rfl⟩ id fun _ k => { k with }
  raised _ _ _ := (frames_lifecycle _).of (raiseAttn_foot _ _ _)

/-! ### A boundary -/

theorem Tlu.highAt_isSome {t : Tlu} (n : Word) (h : t.high.isSome = true) :
    (t.highAt n).isSome = true := by
  unfold Tlu.highAt
  split
  · exact h
  · split
    · rfl
    · exact h

/-- The boundary that enters RUNNING has an epoch, and sets H (R5, R9). -/
theorem Tlu.epoch_of_entersAt {t : Tlu} {n : Word} (h : t.entersAt n = true) :
    t.epoch.isSome = true ∧ (t.highAt n).isSome = true := by
  cases epoch : t.epoch with
  | none =>
    rw [Tlu.entersAt, Tlu.indexAt, epoch, Option.map_none, Option.map_none] at h
    exact nomatch (Bool.and_eq_true_iff.1 h).2
  | some e =>
    have index : t.indexAt n = some (n - e.base) := by rw [Tlu.indexAt, epoch]; rfl
    refine ⟨rfl, ?_⟩
    rw [Tlu.highAt, index]
    show (if t.raisesHigh n then some (n - e.base) else t.high).isSome = true
    rw [if_pos (by rw [Tlu.raisesHigh, h]; rfl)]
    rfl

theorem Tlu.atBoundary_station (t : Tlu) (n : Word) : (t.atBoundary n).station = t.station ∨
    (t.entersAt n = true ∧ t.station = .armed ∧ (t.atBoundary n).station = .running) := by
  by_cases enters : t.entersAt n = true
  · exact .inr ⟨enters, Tlu.armed_of_entersAt enters, if_pos enters⟩
  · exact .inl (if_neg enters)

theorem Tlu.Life.atBoundary {t : Tlu} (h : t.Life) (n : Word) : (t.atBoundary n).Life := by
  obtain same | ⟨enters, armed, running⟩ := t.atBoundary_station n
  · refine ⟨fun past => ?_, ?_, ?_, h.lossTimer, ?_⟩
    · rw [Tlu.performs, same] at past
      obtain ⟨epoch, high⟩ := h.epoch past
      exact ⟨epoch, Tlu.highAt_isSome n high⟩
    · rw [same]; exact h.last
    · rw [same]; exact h.drainTimer
    · rw [same]; exact h.reference
  · refine ⟨fun _ => Tlu.epoch_of_entersAt enters, ?_, fun _ => ?_, h.lossTimer, ?_⟩
    · rw [running]; exact fun past => past.elim nofun nofun
    · exact h.drainTimer (by rw [armed]; exact nofun)
    · rw [running]; exact nofun

theorem Tlu.Life.coded {t : Tlu} (h : t.Life) (i : Option Index) :
    Tlu.Life { t with codedIndex := i } := { h with }

/-- Before ARM a boundary opens nothing. -/
theorem opensPeriod_before {s : State} (b : s.armedOnward = false) (l g p : Option Index) :
    opensPeriod s.tlu.station l g p = none := by
  unfold State.armedOnward at b
  split at b
  next station => rw [station]; rfl
  next station => rw [station]; rfl
  all_goals exact nomatch b

theorem performing_before {s : State} (b : s.armedOnward = false) : s.performing = false :=
  Bool.eq_false_iff.2 fun p => nomatch b.symm.trans (State.armedOnward_of_performing p)

theorem ageAt_before {s : State} (b : s.armedOnward = false) (p : Option Index) : ageAt p s = s := by
  cases p with
  | none => rfl
  | some n => exact if_neg (by rw [b]; exact nofun)

theorem slotAt_before {s : State} (b : s.armedOnward = false) (p : Option Index) (e : List Expected) :
    slotAt p e s = s := by
  cases p with
  | none => rfl
  | some n =>
    refine if_neg fun opens => ?_
    exact nomatch (performing_before b).symm.trans (State.performing_of_opensSlot opens)

theorem gradeAt_before {s : State} (b : s.armedOnward = false) (p : Option Index) (e : Bool) :
    gradeAt p e s = s := by
  refine if_neg ?_
  rw [performing_before b, Bool.and_false]
  exact nofun

theorem boundaryFrom_before {s : State} (n : Word) (b : s.armedOnward = false) (k : s.Fresh) :
    (boundaryFrom n s).Fresh := by
  have notArmed : s.tlu.entersAt n = false := by
    refine Classical.byContradiction fun enters => ?_
    rw [State.armedOnward, Tlu.armed_of_entersAt (Bool.not_eq_false _ ▸ enters)] at b
    exact nomatch b
  have still : (tluBoundary n s).armedOnward = false :=
    (armedOnward_atBoundary (i := (s.tlu.atBoundary n).codedIndex) (tluBoundary_tlu n s)).trans b
  have fresh : (tluBoundary n s).Fresh := (tluBoundary_foot n s).fresh k
  unfold boundaryFrom
  dsimp only
  generalize tluBoundary n s = u at still fresh ⊢
  rw [notArmed, gradeAt_before still]
  have closed (p : Option Index) : closePeriod p u = u := by
    unfold closePeriod
    rw [fresh.period]
  rw [closed]
  have opened (p : Option Index) : (openPeriod p u).Fresh := { fresh with
    period := by
      show Option.map _ (opensPeriod _ _ _ _) = none
      rw [opensPeriod_before still]
      rfl }
  have settled (v : State) (f : v.Fresh) : (feedSettle v).Fresh := by
    have foot := feedSettle_foot v
    have shrinks := Aou.Shrinks.settled (.refl v.aou)
    refine ⟨?_, ?_, shrinks.fresh f.window, shrinks.mark.trans f.mark, ?_, ?_, ?_, ?_⟩
    · rw [foot.rst (by decide)]; exact f.roster
    · rw [foot.ksp (by decide)]; exact f.spool
    · rw [foot.sgc (by decide)]; exact f.batch
    · rw [foot.sgc (by decide)]; exact f.grade
    · rw [foot.cfr (by decide)]; exact f.period
    · rw [(foot.dlu (by decide)).2.1]; exact f.sequence
  have openStill (p : Option Index) : (openPeriod p u).armedOnward = false := still
  rw [ageAt_before (openStill _), driverAt, if_neg nofun, slotAt_before (openStill _)]
  exact settled _ (opened _)

theorem boundaryFrom_lifecycle (n : Word) (s : State) (h : Lifecycle s) :
    Lifecycle (boundaryFrom n s) := by
  obtain ⟨i, tlu⟩ := boundaryFrom_tlu n s
  have foot := boundaryFrom_foot n s
  refine h.same ⟨boundaryFrom_unconfigured n s, armedOnward_atBoundary tlu, ?_, ?_, ?_,
    (foot.link (by decide)).1, ?_, by rw [tlu]; rfl, ?_⟩ ?_ (boundaryFrom_before n)
  · rw [foot.console (by decide)]
  · rw [foot.pcu (by decide)]
  · rw [foot.console (by decide)]
  · rw [foot.console (by decide)]; exact id
  · rw [foot.pcu (by decide)]
  · rw [tlu]
    exact fun life => (life.atBoundary n).coded i

/-! ### LOAD, ARM, CLEAR COUNTS and a reset -/

/-- A LOAD is under way only before ARM. -/
theorem Lifecycle.before_of_load {s : State} (h : Lifecycle s) (busy : s.csu.load ≠ .idle) :
    s.armedOnward = false :=
  Bool.eq_false_iff.2 fun armed => busy (h.settings.loading armed)

theorem applyLoad_lifecycle (c : Configuration) (d : Word) (s : State) (h : Lifecycle s)
    (busy : s.csu.load ≠ .idle) :
    Lifecycle (applyLoad c d (s.onCsu fun u => { u with load := .idle })) := by
  have before := h.before_of_load busy
  have settings := h.settings
  rw [lifecycle_iff]
  have foot := applyLoad_foot_blocks c d (s.onCsu fun u => { u with load := .idle })
  have enabled : (applyLoad c d (s.onCsu fun u => { u with load := .idle })).lku.enabled =
      s.lku.enabled := by
    unfold applyLoad
    dsimp only
    rw [((archiveSettle_foot _).link (by decide)).1]
    split
    · exact startHello_enabled _
    · rfl
  have tlu := foot.tlu (by decide)
  have csu := foot.csu_eq
  have pcu := foot.pcu (by decide)
  refine ⟨⟨?_, ?_, ?_, ?_, ?_, ?_, ?_⟩, ?_, fun _ => foot.fresh { h.fresh before with }⟩
  · rw [csu, State.unconfigured, tlu]; rfl
  · rw [pcu, State.unconfigured, tlu]; rfl
  · rw [csu, State.armedOnward, tlu]
    exact settings.locked.trans before
  · rw [enabled, State.armedOnward, tlu]
    exact settings.enabled.trans before
  · rw [State.armedOnward, tlu]; exact nofun
  · rw [State.armedOnward, tlu]
    exact settings.incarnation.trans before
  · rw [pcu, State.armedOnward, tlu]
    exact settings.beacon.trans before
  · rw [tlu]
    have stopped : s.tlu.endTimer = .stopped := h.life.drainTimer fun ending => by
      rw [State.armedOnward, ending] at before
      exact nomatch before
    exact ⟨fun past => past.elim nofun nofun, fun past => past.elim nofun nofun, fun _ => stopped, rfl,
      nofun⟩

theorem enableLanes_enabled (s : State) : (enableLanes s).lku.enabled = true := by
  unfold enableLanes
  split
  next on => exact on
  next => rw [enablePort_enabled, enablePort_enabled]; rfl

theorem originate_beacon_pcu (body : Bytes) (s : State) :
    (originate .beacon body s).pcu = s.pcu :=
  (originate_foot .beacon body s).pcu (by decide)

/-- ARM is taken with a house count (R8). -/
theorem houseCount_of_arm {s : State} (r : refuseArm s = none) : s.tlu.houseCount.isSome = true := by
  unfold refuseArm at r
  split at r
  · exact nomatch r
  · split at r
    · exact nomatch r
    next taken =>
      obtain ⟨-, count⟩ := Classical.not_not.1 taken
      unfold State.armCount at count
      split at count
      · exact nomatch count
      next there _ => rw [there]; rfl
      next there _ => rw [there]; rfl

theorem armed_lifecycle (s : State) (l : s.csu.takesLines = true) (r : refuseArm s = none)
    (h : Lifecycle s) : Lifecycle (sendBeacon (enableLanes (fillRoster (armBlocks s)))) := by
  have settings := h.settings
  have configured := configured_of_arm r
  have foot := armed_foot_blocks s
  have tlu := foot.tlu (by decide)
  have csu := foot.console (by decide)
  have pcu : (sendBeacon (enableLanes (fillRoster (armBlocks s)))).pcu =
      { s.pcu with beaconAt := (sendBeacon (enableLanes (fillRoster (armBlocks s)))).pcu.beaconAt } := by
    unfold sendBeacon restartBeacon
    rw [State.onPcu_pcu, originate_beacon_pcu, (enableLanes_foot _).pcu (by decide),
      (fillRoster_foot _).pcu (by decide)]
    rfl
  have enabled : (sendBeacon (enableLanes (fillRoster (armBlocks s)))).lku.enabled = true := by
    rw [((sendBeacon_foot _).link (by decide)).1]
    exact enableLanes_enabled _
  rw [lifecycle_iff]
  refine ⟨⟨?_, ?_, ?_, ?_, fun _ => ?_, ?_, ?_⟩, ?_, ?_⟩
  · rw [csu, State.unconfigured, tlu]
    exact settings.config.trans (by rw [configured]; rfl)
  · rw [pcu, State.unconfigured, tlu]
    exact settings.cues.trans (by rw [configured]; rfl)
  · rw [csu, State.armedOnward, tlu]; rfl
  · rw [enabled, State.armedOnward, tlu]; rfl
  · rw [csu]
    obtain ⟨⟨idle, -⟩, -⟩ : (s.csu.load = .idle ∧ _) ∧ _ := by
      simpa only [Csu.takesLines, Bool.and_eq_true, decide_eq_true_eq] using l
    exact idle
  · rw [tlu, State.armedOnward, tlu]
    exact houseCount_of_arm r
  · rw [State.armedOnward, tlu]; rfl
  · rw [tlu]
    have life := h.life
    exact ⟨fun past => past.elim nofun nofun, fun past => past.elim nofun nofun, fun _ => rfl,
      life.lossTimer, nofun⟩
  · rw [State.armedOnward, tlu]; exact nofun

theorem zeroCounts_lifecycle (s : State) (h : Lifecycle s) : Lifecycle (zeroCounts s) :=
  h.same ⟨rfl, rfl, rfl, rfl, rfl, rfl, id, rfl, rfl⟩ (fun life => { life with })
    fun _ k => { k with
      spool := by
        show ({ s.ksp with counts := {} } : Ksp) = _
        rw [k.spool]
        rfl }

theorem resetWith_lifecycle (x : Cause) (s : State) : Lifecycle (resetWith x s) := by
  rw [lifecycle_iff]
  exact ⟨⟨rfl, rfl, rfl, rfl, nofun, rfl, rfl⟩,
    ⟨fun past => past.elim nofun nofun, fun past => past.elim nofun nofun, fun _ => rfl, rfl,
      fun _ => rfl⟩, fun _ => ⟨rfl, rfl, rfl, rfl, rfl, rfl, rfl, rfl⟩⟩

/-! ### Every step -/

theorem ops_lifecycle : Ops Lifecycle where
  toPortOps := portOps_lifecycle
  toTimelineOps := timelineOps_lifecycle
  toCaptureOps := captureOps_lifecycle
  toDeliveryOps := deliveryOps_lifecycle
  toRosterOps := rosterOps_lifecycle
  toCueOps := cueOps_lifecycle
  toOutletOps := outletOps_lifecycle
  toKeepOps := keepOps_lifecycle
  toConsoleOps := consoleOps_lifecycle
  reach _ _ := (frames_lifecycle _).of (State.reach_foot _ _)
  boundary := boundaryFrom_lifecycle
  queue _ _ := (frames_lifecycle _).of (withQueue_foot _ _)
  reset x s _ := resetWith_lifecycle x s
  loaded _ c d s busy _ h := applyLoad_lifecycle c d s h busy
  armed := armed_lifecycle
  zeroed := zeroCounts_lifecycle
  clearAttn _ _ h := h.same ⟨rfl, rfl, rfl, rfl, rfl, rfl, id, rfl, rfl⟩ id fun _ k => { k with }

/-- Settles O58: what the station states go with is kept by each operation of each block
(`ops_lifecycle`). -/
theorem lifecycleKept : Obligations.LifecycleKept :=
  ops_lifecycle.step

end Sys2Proof.Machine
end

section
/-! The roster: what putting an entry in its place does to the list; the laws of the roster's entries; and
every step keeps the roster law, the claim law and the kind law (O57). -/

namespace Sys2Proof.Machine

/-! ### An entry put in its place (R89) -/

/-- An entry of a track that has none joins the others. -/
theorem putEntry_perm {e : RosterEntry} {es : List RosterEntry} (h : findClaim e.track es = none) :
    (putEntry e es).Perm (e :: es) := by
  induction es with
  | nil => exact .refl _
  | cons x rest ih =>
    rw [findClaim, Option.map_eq_none_iff, List.find?_cons] at h
    split at h
    · exact nomatch h
    next other =>
      have apart : e.track ≠ x.track := fun same => by
        rw [same, beq_self_eq_true] at other
        exact nomatch other
      unfold putEntry
      split
      · exact .refl _
      · have joined := ih (by rw [findClaim, h]; rfl)
        exact (joined.cons x).trans (.swap e x rest)

/-- An entry of a track that has one takes its place. -/
theorem putEntry_found {e : RosterEntry} {es : List RosterEntry} {c : Claim}
    (o : es.Pairwise fun a b => a.track < b.track) (h : findClaim e.track es = some c) :
    ∃ l r, es = l ++ { track := e.track, claim := c } :: r ∧ putEntry e es = l ++ e :: r := by
  induction es with
  | nil => exact nomatch h
  | cons x rest ih =>
    obtain ⟨above, ordered⟩ := List.pairwise_cons.1 o
    obtain ⟨y, found, rfl⟩ := Option.map_eq_some_iff.1 h
    have track : y.track = e.track := by
      have := List.find?_some found
      exact eq_of_beq this
    rw [List.find?_cons] at found
    split at found
    next same =>
      obtain rfl := Option.some.inj found
      refine ⟨[], rest, by rw [← track]; rfl, ?_⟩
      unfold putEntry
      rw [if_neg (by rw [track]; exact Nat.lt_irrefl _), if_pos track.symm]
      rfl
    next other =>
      have lower : x.track < e.track := track ▸ above y (List.mem_of_find?_eq_some found)
      obtain ⟨l, r, split_, put⟩ := ih ordered (by rw [findClaim, found]; rfl)
      refine ⟨x :: l, r, by rw [split_]; rfl, ?_⟩
      unfold putEntry
      rw [if_neg (Nat.lt_asymm lower), if_neg (Nat.ne_of_gt lower), put]
      rfl

theorem learnedCount_cons (st : Nat) (e : RosterEntry) (es : List RosterEntry) :
    learnedCount st (e :: es) = learnedCount st [e] + learnedCount st es := by
  rw [learnedCount, learnedCount, learnedCount, ← List.length_append, ← List.filter_append]
  rfl

theorem learnedCount_append (st : Nat) (l r : List RosterEntry) :
    learnedCount st (l ++ r) = learnedCount st l + learnedCount st r := by
  rw [learnedCount, List.filter_append, List.length_append]
  rfl

theorem learnedCount_put_new {e : RosterEntry} {es : List RosterEntry} (st : Nat)
    (h : findClaim e.track es = none) :
    learnedCount st (putEntry e es) = learnedCount st [e] + learnedCount st es := by
  rw [← learnedCount_cons]
  exact ((putEntry_perm h).filter _).length_eq

theorem learnedCount_put_found {e : RosterEntry} {es : List RosterEntry} {c : Claim} (st : Nat)
    (o : es.Pairwise fun a b => a.track < b.track) (h : findClaim e.track es = some c) :
    learnedCount st (putEntry e es) + learnedCount st [{ track := e.track, claim := c }] =
      learnedCount st [e] + learnedCount st es := by
  obtain ⟨l, r, list, put⟩ := putEntry_found o h
  rw [put, list, learnedCount_append, learnedCount_append, learnedCount_cons st e r,
    learnedCount_cons st { track := e.track, claim := c } r]
  omega

theorem putEntry_length_found {e : RosterEntry} {es : List RosterEntry} {c : Claim}
    (o : es.Pairwise fun a b => a.track < b.track) (h : findClaim e.track es = some c) :
    (putEntry e es).length = es.length := by
  obtain ⟨l, r, list, put⟩ := putEntry_found o h
  rw [put, list, List.length_append, List.length_append]
  rfl

theorem learnedCount_single (st o g : Nat) (i : Index) (t : Nat) :
    learnedCount st [{ track := t, claim := .learned o g i }] = if o = st then 1 else 0 := by
  by_cases same : o = st
  · simp [learnedCount, Claim.learnedFrom, same]
  · simp [learnedCount, Claim.learnedFrom, same]

/-! ### What an AIR frame's judgement found (Table 6-3) -/

theorem judge_learn {s : State} {o t : Nat} (h : s.judge o t = .learn) :
    findClaim t s.rst.entries = none ∧ learnedCount o s.rst.entries < s.claimLimit o ∧
      s.rst.full = false := by
  unfold State.judge at h
  dsimp only at h
  split at h
  next new =>
    split at h
    · exact nomatch h
    · split at h
      · exact nomatch h
      next below =>
        split at h
        · exact nomatch h
        next room =>
          exact ⟨new, Nat.lt_of_not_le fun le => below (decide_eq_true le), Bool.eq_false_iff.2 room⟩
  · split at h
    · exact nomatch h
    · split at h
      · exact nomatch h
      · split at h <;> exact nomatch h
  · exact nomatch h
  · split at h <;> exact nomatch h
  · exact nomatch h

theorem judge_refresh {s : State} {o t : Nat} (h : s.judge o t = .refresh) :
    ∃ g i, findClaim t s.rst.entries = some (.learned o g i) := by
  unfold State.judge at h
  dsimp only at h
  split at h
  · split at h
    · exact nomatch h
    · split at h
      · exact nomatch h
      · split at h <;> exact nomatch h
  next g i found =>
    split at h
    next same => exact ⟨g, i, same ▸ found⟩
    · split at h
      · exact nomatch h
      · split at h <;> exact nomatch h
  · exact nomatch h
  · split at h <;> exact nomatch h
  · exact nomatch h

theorem judge_move {s : State} {o t : Nat} (h : s.judge o t = .move) :
    learnedCount o s.rst.entries < s.claimLimit o ∧
      ∃ x g i, findClaim t s.rst.entries = some (.learned x g i) := by
  unfold State.judge at h
  dsimp only at h
  split at h
  · split at h
    · exact nomatch h
    · split at h
      · exact nomatch h
      · split at h <;> exact nomatch h
  next x g i found =>
    split at h
    · exact nomatch h
    · split at h
      · exact nomatch h
      · split at h
        · exact nomatch h
        next below => exact ⟨Nat.lt_of_not_le fun le => below (decide_eq_true le), x, g, i, found⟩
  · exact nomatch h
  · split at h <;> exact nomatch h
  · exact nomatch h

/-! ### Laws of the entries -/

/-- The roster with the LOCAL entry of a patched channel. -/
def State.putLocal (e : PatchEntry) (s : State) : State :=
  s.onRst fun r => { r with
    entries := putEntry { track := e.track, claim := .localTrack e.group } r.entries }

/-- The roster with the entries of the static list alone (R92). -/
def State.putStatics (s : State) : State :=
  s.onRst fun r => { r with entries := s.statics.foldl (fun es x => putEntry (staticEntry x) es) [] }

/-- A law of the roster's entries under a configuration: kept as entries go, as one is learnt, and as the
LOCAL entry of a patched channel is made where there is room or a LEARNED one. -/
structure EntriesLaw (P : State → Prop) : Prop where
  congr : ∀ s t, t.rst.entries = s.rst.entries → t.csu.config = s.csu.config → P s → P t
  filter : ∀ p s, P s → P (s.onRst fun r => { r with entries := r.entries.filter p })
  learn : ∀ o a s, s.judge o a.track = .learn ∨ s.judge o a.track = .refresh ∨
    s.judge o a.track = .move → P s → P (s.onRst fun r => r.learnFrom o a)
  localNew : ∀ ch e s, (ch, e) ∈ s.patched → findClaim e.track s.rst.entries = none →
    s.rst.full = false → P s → P (s.putLocal e)
  localHeld : ∀ ch e s, (ch, e) ∈ s.patched →
    (∃ o g i, findClaim e.track s.rst.entries = some (.learned o g i)) → P s → P (s.putLocal e)
  statics : ∀ s, P s → P s.putStatics

namespace EntriesLaw

variable {P : State → Prop}

theorem of_foot (l : EntriesLaw P) {ps : List Part} {s t : State} (f : Foot ps s t) (h : P s)
    (a : Part.rst ∉ ps := by decide) (b : Part.console ∉ ps := by decide) : P t :=
  l.congr s t (by rw [f.rst a]) (by rw [f.console b]) h

theorem frames (l : EntriesLaw P) (ps : List Part) (a : Part.rst ∉ ps := by decide)
    (b : Part.console ∉ ps := by decide) : Frames ps P :=
  fun _ _ f h => l.of_foot f h a b

/-- Beside the entries the roster counts. -/
theorem counted (l : EntriesLaw P) (f : Rst → Rst) (s : State)
    (same : (f s.rst).entries = s.rst.entries) (h : P s) : P (s.onRst f) :=
  l.congr s _ same rfl h

/-- Entries go, and are counted. -/
theorem flushed (l : EntriesLaw P) (f : Rst → Rst) (p : RosterEntry → Bool) (s : State)
    (same : (f s.rst).entries = s.rst.entries.filter p) (h : P s) : P (s.onRst f) :=
  l.congr (s.onRst fun r => { r with entries := r.entries.filter p }) _ same rfl (l.filter p s h)

theorem acceptAir (l : EntriesLaw P) (o : Nat) (a : AirBody) (s : State) (h : P s) :
    P (acceptAir o a s) :=
  l.congr s _ (acceptAir_entries o a s) (by rw [(acceptAir_foot o a s).csu_eq]) h

theorem violate (l : EntriesLaw P) (v : Violation) (t st : Nat) (s : State) (h : P s) :
    P (violate v t st s) :=
  l.of_foot (raiseAttn_foot _ _ _) (l.counted _ s rfl h)

theorem air (l : EntriesLaw P) (o : Nat) (a : AirBody) (s : State) (h : P s) :
    P (rosterAir o a s) := by
  unfold rosterAir
  split
  · exact h
  split
  · exact l.counted _ s rfl h
  split
  · exact l.violate _ _ _ _ h
  next judged => exact l.acceptAir _ _ _ (l.congr (s.onRst fun r => r.learnFrom o a) _ rfl rfl
      (l.learn o a s (.inl judged) h))
  next judged => exact l.acceptAir _ _ _ (l.learn o a s (.inr (.inl judged)) h)
  next judged => exact l.acceptAir _ _ _ (l.congr (s.onRst fun r => r.learnFrom o a) _ rfl rfl
      (l.learn o a s (.inr (.inr judged)) h))
  · exact l.acceptAir _ _ _ h

theorem makeLocal (l : EntriesLaw P) (ch : Nat) (e : PatchEntry) (s : State)
    (m : (ch, e) ∈ s.patched) (h : P s) : P (makeLocal e s) := by
  unfold Machine.makeLocal
  dsimp only
  split
  next new =>
    split
    · exact l.violate _ _ _ _ h
    next room => exact l.localNew ch e s m new (Bool.eq_false_iff.2 room) h
  · exact h
  next o g i held => exact l.violate _ _ _ _ (l.localHeld ch e s m ⟨o, g, i, held⟩ h)
  · exact l.violate _ _ _ _ h
  · exact l.violate _ _ _ _ h

theorem makeLocals (l : EntriesLaw P) (es : List (Nat × PatchEntry)) (s : State)
    (m : ∀ x ∈ es, x ∈ s.patched) (h : P s) : P (makeLocals es s) := by
  induction es generalizing s with
  | nil => exact h
  | cons x es ih =>
    obtain ⟨ch, e⟩ := x
    obtain ⟨first, later⟩ := List.forall_mem_cons.1 m
    refine ih _ (fun y n => ?_) (l.makeLocal ch e s first h)
    have same : (Machine.makeLocal e s).patched = s.patched := by
      unfold State.patched State.patchOf
      rw [(makeLocal_foot e s).console (by decide)]
    rw [same]
    exact later y n

theorem cue (l : EntriesLaw P) (i : Nat) (v : CueValue) (s : State) (h : P s) :
    P (rosterCue i v s) := by
  unfold rosterCue
  split
  · exact h
  · split
    · exact l.makeLocals _ s (fun x m => (List.mem_filter.1 m).1) h
    · exact l.flushed _ _ s rfl h

theorem fillRoster (l : EntriesLaw P) (s : State) (h : P s) : P (fillRoster s) := by
  refine l.makeLocals _ s.putStatics (fun x m => ?_) (l.statics s h)
  exact (List.mem_filter.1 m).1

/-- At a boundary the roster ages (R102). -/
theorem boundary (l : EntriesLaw P) (n : Word) (s : State) (h : P s) : P (boundaryFrom n s) := by
  have aged : P (ageAt (s.tlu.presents n) (openPeriod (s.tlu.presents n) (closePeriod
      (s.tlu.presents n) (gradeAt (s.tlu.presents n) (s.tlu.entersAt n) (tluBoundary n s))))) := by
    have before : P (openPeriod (s.tlu.presents n) (closePeriod (s.tlu.presents n)
        (gradeAt (s.tlu.presents n) (s.tlu.entersAt n) (tluBoundary n s)))) :=
      l.of_foot (openPeriod_foot _ _) (l.of_foot (closePeriod_foot _ _)
        (l.of_foot (gradeAt_foot _ _ _) (l.of_foot (tluBoundary_foot _ _) h)))
    unfold ageAt ageRoster
    split
    · exact before
    · split
      · exact l.flushed _ _ _ rfl before
      · exact before
  exact l.of_foot (feedSettle_foot _) (l.of_foot (slotAt_foot _ _ _) (l.of_foot (driverAt_foot _ _)
    aged))

theorem blockOps (l : EntriesLaw P) : BlockOps P where
  toPortOps := .of_frames (l.frames _)
  toTimelineOps := .of_frames (l.frames _)
  toCaptureOps := .of_frames (l.frames _)
  toDeliveryOps := .of_frames (l.frames _)
  air := l.air
  cue := l.cue
  flush _ s h := l.flushed _ _ s rfl h
  toCueOps := .of_frames (l.frames _)
  toOutletOps := .of_frames (l.frames _)
  toKeepOps := .of_frames (l.frames _)
  console s u e _ h := l.congr s _ rfl (by rw [show ({ s with csu := u } : State).csu = u from rfl, e]) h
  loading s _ _ _ _ h := l.congr s _ rfl rfl h
  loadEnds s h := l.congr s _ rfl rfl h
  raised _ _ _ := (l.frames _).of (raiseAttn_foot _ _ _)
  reach _ _ := (l.frames _).of (State.reach_foot _ _)
  boundary := l.boundary

theorem armed (l : EntriesLaw P) (s : State) (h : P s) :
    P (sendBeacon (enableLanes (Machine.fillRoster (armBlocks s)))) :=
  l.of_foot (sendBeacon_foot _) (l.of_foot (enableLanes_foot _)
    (l.fillRoster _ (l.congr s (armBlocks s) rfl rfl h)))

/-- A law of the entries that a LOAD keeps, and that an empty roster without a configuration has. -/
theorem ops (l : EntriesLaw P) (reset : ∀ x s, P (resetWith x s))
    (loaded : ∀ bs c d s, s.csu.load ≠ .idle → checkBlock bs = .loaded c d → P s →
      P (applyLoad c d (s.onCsu fun u => { u with load := .idle }))) : Ops P where
  toBlockOps := l.blockOps
  queue _ s h := l.congr s _ rfl rfl h
  reset x s _ := reset x s
  loaded := loaded
  armed s _ _ := l.armed s
  zeroed s h := l.congr s _ rfl rfl h
  clearAttn _ s h := l.congr s _ rfl rfl h

end EntriesLaw

/-! ### The roster law -/

theorem rosterLaw_congr (s t : State) (e : t.rst.entries = s.rst.entries)
    (c : t.csu.config = s.csu.config) (h : RosterLaw s) : RosterLaw t := by
  refine ⟨?_, e ▸ h.bounded, ?_⟩
  · rw [Rst.Ordered, e]
    exact h.ordered
  · rw [State.statics, c]
    exact h.statics

theorem foldl_statics_ordered (xs : List StaticEntry) (es : List RosterEntry)
    (o : es.Pairwise fun a b => a.track < b.track) :
    (xs.foldl (fun es x => putEntry (staticEntry x) es) es).Pairwise fun a b => a.track < b.track := by
  induction xs generalizing es with
  | nil => exact o
  | cons x xs ih => exact ih _ (putEntry_ordered _ _ o)

theorem foldl_statics_length (xs : List StaticEntry) (es : List RosterEntry) :
    (xs.foldl (fun es x => putEntry (staticEntry x) es) es).length ≤ es.length + xs.length := by
  induction xs generalizing es with
  | nil => exact Nat.le_refl _
  | cons x xs ih =>
    have put := putEntry_length (staticEntry x) es
    have rest := ih (putEntry (staticEntry x) es)
    rw [List.foldl_cons, List.length_cons]
    omega

theorem foldl_statics_mem (xs : List StaticEntry) (es : List RosterEntry) (e : RosterEntry)
    (h : e ∈ xs.foldl (fun es x => putEntry (staticEntry x) es) es) :
    e ∈ es ∨ ∃ x ∈ xs, staticEntry x = e := by
  induction xs generalizing es with
  | nil => exact .inl h
  | cons x xs ih =>
    obtain m | ⟨y, m, same⟩ := ih _ h
    · obtain rfl | old := putEntry_mem _ _ _ m
      · exact .inr ⟨x, List.mem_cons_self, rfl⟩
      · exact .inl old
    · exact .inr ⟨y, List.mem_cons_of_mem _ m, same⟩

/-- An entry put where the roster has room, or in the place of another. -/
theorem RosterLaw.put {s : State} {e : RosterEntry} (h : RosterLaw s)
    (room : (findClaim e.track s.rst.entries = none ∧ s.rst.full = false) ∨
      ∃ c, findClaim e.track s.rst.entries = some c) (f : Rst → Rst)
    (put : (f s.rst).entries = putEntry e s.rst.entries) : RosterLaw (s.onRst f) := by
  have bounded : (putEntry e s.rst.entries).length ≤ rosterCapacity := by
    obtain ⟨-, notFull⟩ | ⟨c, found⟩ := room
    · have space : ¬ rosterCapacity ≤ s.rst.entries.length := of_decide_eq_false notFull
      exact Nat.le_trans (putEntry_length _ _) (Nat.lt_of_not_le space)
    · exact le_of_eq_of_le (putEntry_length_found h.ordered found) h.bounded
  refine ⟨?_, le_of_eq_of_le (congrArg List.length put) bounded, h.statics⟩
  show List.Pairwise _ (f s.rst).entries
  rw [put]
  exact putEntry_ordered _ _ h.ordered

/-- Where an AIR frame is learnt there is room for its entry, or its place is taken by one. -/
theorem room_of_judge {s : State} {o t : Nat} (j : s.judge o t = .learn ∨ s.judge o t = .refresh ∨
    s.judge o t = .move) : (findClaim t s.rst.entries = none ∧ s.rst.full = false) ∨
      ∃ c, findClaim t s.rst.entries = some c := by
  obtain j | j | j := j
  · obtain ⟨new, -, room⟩ := judge_learn j
    exact .inl ⟨new, room⟩
  · obtain ⟨g, i, found⟩ := judge_refresh j
    exact .inr ⟨_, found⟩
  · obtain ⟨-, x, g, i, found⟩ := judge_move j
    exact .inr ⟨_, found⟩

theorem entriesLaw_rosterLaw : EntriesLaw RosterLaw where
  congr := rosterLaw_congr
  filter _ s h := ⟨h.ordered.sublist List.filter_sublist, Nat.le_trans (List.length_filter_le _ _) h.bounded,
    h.statics⟩
  learn o a s j h := h.put (e := { track := a.track, claim := .learned o a.group a.index })
    (room_of_judge j) _ rfl
  localNew _ e s _ new room h := h.put (e := { track := e.track, claim := .localTrack e.group })
    (.inl ⟨new, room⟩) _ rfl
  localHeld _ e s _ held h := by
    obtain ⟨o, g, i, found⟩ := held
    exact h.put (e := { track := e.track, claim := .localTrack e.group }) (.inr ⟨_, found⟩) _ rfl
  statics s h := ⟨foldl_statics_ordered _ _ .nil,
    Nat.le_trans (Nat.le_trans (foldl_statics_length _ _) (Nat.add_le_add_left h.statics 0)) (by decide), h.statics⟩

/-- A block gives a static list of at most 64 (R92). -/
theorem decodeBlock_statics (bs : Bytes) : (decodeBlock bs).statics.length ≤ 64 := by
  show ((staticOffsets bs).map _).length ≤ 64
  rw [List.length_map, staticOffsets, offsets, List.length_map, List.length_range]
  exact Nat.min_le_right _ _

theorem checkBlock_statics {bs : Bytes} {c : Configuration} {d : Word}
    (h : checkBlock bs = .loaded c d) : c.statics.length ≤ 64 := by
  unfold checkBlock at h
  split at h
  · exact nomatch h
  · split at h
    · exact nomatch h
    · obtain ⟨rfl, -⟩ := LoadResult.loaded.inj h
      exact decodeBlock_statics bs

theorem applyLoad_entries (c : Configuration) (d : Word) (s : State) :
    (applyLoad c d s).rst.entries = s.rst.entries ∧ (applyLoad c d s).csu.config = some c := by
  have foot := applyLoad_foot_blocks c d s
  rw [foot.rst (by decide), foot.csu_eq]
  exact ⟨rfl, rfl⟩

theorem ops_rosterLaw : Ops RosterLaw :=
  entriesLaw_rosterLaw.ops (fun _ _ => ⟨.nil, Nat.zero_le _, Nat.zero_le _⟩)
    fun bs c d s _ checked h => by
      obtain ⟨entries, config⟩ := applyLoad_entries c d (s.onCsu fun u => { u with load := .idle })
      refine ⟨?_, entries ▸ h.bounded, ?_⟩
      · rw [Rst.Ordered, entries]
        exact h.ordered
      · rw [State.statics, config]
        exact checkBlock_statics checked

/-! ### The claim law (R96) -/

theorem claimLaw_congr (s t : State) (e : t.rst.entries = s.rst.entries)
    (c : t.csu.config = s.csu.config) (h : ClaimLaw s) : ClaimLaw t := by
  intro st
  have limit : t.claimLimit st = s.claimLimit st := by unfold State.claimLimit; rw [c]
  rw [e, limit]
  exact h st

/-- An entry that is LEARNED from a station below its claim limit, or is not LEARNED, keeps the claim law. -/
theorem claimLaw_put_new {s : State} {e : RosterEntry}
    (new : findClaim e.track s.rst.entries = none)
    (below : ∀ st, learnedCount st [e] + learnedCount st s.rst.entries ≤ s.claimLimit st)
    (f : Rst → Rst) (put : (f s.rst).entries = putEntry e s.rst.entries) : ClaimLaw (s.onRst f) := by
  intro st
  show learnedCount st (f s.rst).entries ≤ s.claimLimit st
  rw [put, learnedCount_put_new st new]
  exact below st

theorem claimLaw_put_found {s : State} {e : RosterEntry} {c : Claim} (o : s.rst.Ordered)
    (found : findClaim e.track s.rst.entries = some c)
    (below : ∀ st, learnedCount st [e] + learnedCount st s.rst.entries ≤
      s.claimLimit st + learnedCount st [{ track := e.track, claim := c }])
    (f : Rst → Rst) (put : (f s.rst).entries = putEntry e s.rst.entries) : ClaimLaw (s.onRst f) := by
  intro st
  show learnedCount st (f s.rst).entries ≤ s.claimLimit st
  have count := learnedCount_put_found st o found
  have limit := below st
  rw [put]
  omega

theorem learnedCount_local (st t g : Nat) :
    learnedCount st [{ track := t, claim := .localTrack g }] = 0 := rfl

/-- One more LEARNED entry of a station below its limit. -/
theorem claimLaw_below {s : State} {o g t : Nat} {i : Index} (h : ClaimLaw s)
    (below : learnedCount o s.rst.entries < s.claimLimit o) (st : Nat) :
    learnedCount st [{ track := t, claim := .learned o g i }] + learnedCount st s.rst.entries ≤
      s.claimLimit st := by
  rw [learnedCount_single]
  split
  next same =>
    subst same
    omega
  next => exact le_of_eq_of_le (Nat.zero_add _) (h st)

theorem claimLaw_learn (o : Nat) (a : AirBody) (s : State) (roster : RosterLaw s) (h : ClaimLaw s)
    (j : s.judge o a.track = .learn ∨ s.judge o a.track = .refresh ∨ s.judge o a.track = .move) :
    ClaimLaw (s.onRst fun r => r.learnFrom o a) := by
  obtain j | j | j := j
  · obtain ⟨new, below, -⟩ := judge_learn j
    exact claimLaw_put_new (e := { track := a.track, claim := .learned o a.group a.index }) new
      (claimLaw_below h below) _ rfl
  · obtain ⟨g, i, found⟩ := judge_refresh j
    refine claimLaw_put_found (e := { track := a.track, claim := .learned o a.group a.index })
      roster.ordered found (fun st => ?_) _ rfl
    have limit := h st
    rw [learnedCount_single, learnedCount_single]
    omega
  · obtain ⟨below, x, g, i, found⟩ := judge_move j
    exact claimLaw_put_found (e := { track := a.track, claim := .learned o a.group a.index })
      roster.ordered found (fun st => Nat.le_trans (claimLaw_below h below st) (Nat.le_add_right _ _)) _ rfl

theorem learnedCount_statics (st : Nat) (xs : List StaticEntry) :
    learnedCount st (xs.foldl (fun es x => putEntry (staticEntry x) es) []) = 0 := by
  rw [learnedCount, List.length_eq_zero_iff, List.filter_eq_nil_iff]
  intro e m
  obtain none | ⟨x, -, rfl⟩ := foldl_statics_mem xs [] e m
  · exact nomatch none
  · cases x <;> exact nofun

theorem entriesLaw_claimLaw : EntriesLaw fun s => RosterLaw s ∧ ClaimLaw s where
  congr s t e c h := ⟨rosterLaw_congr s t e c h.1, claimLaw_congr s t e c h.2⟩
  filter p s h := by
    obtain ⟨roster, claims⟩ := h
    refine ⟨entriesLaw_rosterLaw.filter p s roster, fun st => ?_⟩
    exact Nat.le_trans (List.filter_sublist.filter _).length_le (claims st)
  learn o a s j h := by
    obtain ⟨roster, claims⟩ := h
    exact ⟨entriesLaw_rosterLaw.learn o a s j roster, claimLaw_learn o a s roster claims j⟩
  localNew ch e s m new room h := by
    obtain ⟨roster, claims⟩ := h
    refine ⟨entriesLaw_rosterLaw.localNew ch e s m new room roster, ?_⟩
    exact claimLaw_put_new (e := { track := e.track, claim := .localTrack e.group }) new
      (fun st => le_of_eq_of_le (Nat.zero_add _) (claims st)) _ rfl
  localHeld ch e s m held h := by
    obtain ⟨roster, claims⟩ := h
    refine ⟨entriesLaw_rosterLaw.localHeld ch e s m held roster, ?_⟩
    obtain ⟨o, g, i, found⟩ := held
    exact claimLaw_put_found (e := { track := e.track, claim := .localTrack e.group }) roster.ordered
      found (fun st => le_of_eq_of_le (Nat.zero_add _) (Nat.le_trans (claims st) (Nat.le_add_right _ _))) _ rfl
  statics s h := by
    obtain ⟨roster, -⟩ := h
    refine ⟨entriesLaw_rosterLaw.statics s roster, fun st => ?_⟩
    exact le_of_eq_of_le (learnedCount_statics st s.statics) (Nat.zero_le _)

/-! ### The kind law (R90, R92, R104) -/

/-- Where the static and the LOCAL entries come from: the part of the kind law that the rest follows from. -/
structure State.Sourced (s : State) : Prop where
  listed : ∀ e ∈ s.rst.entries, e.claim.isPin = true ∨ e.claim.isBar = true →
    ∃ x ∈ s.statics, staticEntry x = e
  patched : ∀ e ∈ s.rst.entries, e.claim.isLocal = true → ∃ p ∈ s.patched, p.2.track = e.track

theorem KindLaw.sourced {s : State} (h : KindLaw s) : s.Sourced := ⟨h.listed, h.patched⟩

theorem State.Sourced.kindLaw {s : State} (h : s.Sourced) (roster : RosterLaw s) : KindLaw s :=
  .of_sources s roster.ordered roster.statics h.listed h.patched

theorem Claim.not_static {c : Claim} (h : c.isLearned = true ∨ c.isLocal = true) :
    ¬ (c.isPin = true ∨ c.isBar = true) := by
  cases c with
  | localTrack _ => exact fun k => k.elim nofun nofun
  | learned _ _ _ => exact fun k => k.elim nofun nofun
  | pin _ _ => exact h.elim nofun nofun
  | bar => exact h.elim nofun nofun

theorem Claim.not_local {c : Claim} (h : c.isLearned = true) : ¬ c.isLocal = true := by
  cases c with
  | learned _ _ _ => exact nofun
  | localTrack _ | pin _ _ | bar => exact nomatch h

/-- Entries that were there, or are sourced, are sourced. -/
theorem State.Sourced.of_mem {s t : State} (h : s.Sourced) (c : t.csu.config = s.csu.config)
    (m : ∀ e ∈ t.rst.entries, e ∈ s.rst.entries ∨ e.claim.isLearned = true ∨
      (e.claim.isLocal = true ∧ ∃ p ∈ s.patched, p.2.track = e.track)) : t.Sourced := by
  have statics : t.statics = s.statics := by rw [State.statics, c]; rfl
  have patched : t.patched = s.patched := by unfold State.patched State.patchOf; rw [c]
  refine ⟨fun e n k => ?_, fun e n k => ?_⟩
  · rw [statics]
    obtain old | learnt | ⟨own, -⟩ := m e n
    · exact h.listed e old k
    · exact absurd k (Claim.not_static (.inl learnt))
    · exact absurd k (Claim.not_static (.inr own))
  · rw [patched]
    obtain old | learnt | ⟨-, source⟩ := m e n
    · exact h.patched e old k
    · exact absurd k (Claim.not_local learnt)
    · exact source

theorem State.Sourced.putLocal {s : State} {ch : Nat} {e : PatchEntry} (h : s.Sourced)
    (m : (ch, e) ∈ s.patched) : (s.putLocal e).Sourced := by
  refine h.of_mem rfl fun x n => ?_
  obtain rfl | old := putEntry_mem _ _ _ n
  · exact .inr (.inr ⟨rfl, _, m, rfl⟩)
  · exact .inl old

theorem entriesLaw_sourced : EntriesLaw State.Sourced where
  congr s t e c h := h.of_mem c fun x m => .inl (e ▸ m)
  filter p s h := h.of_mem rfl fun x m => .inl (List.mem_filter.1 m).1
  learn o a s _ h := h.of_mem rfl fun x m => by
    obtain rfl | old := putEntry_mem _ _ _ m
    · exact .inr (.inl rfl)
    · exact .inl old
  localNew _ _ _ m _ _ h := h.putLocal m
  localHeld _ _ _ m _ h := h.putLocal m
  statics s _ := by
    have mem (e : RosterEntry) (m : e ∈ s.putStatics.rst.entries) :
        ∃ x ∈ s.statics, staticEntry x = e := by
      obtain none | there := foldl_statics_mem _ _ _ m
      · exact nomatch none
      · exact there
    refine ⟨fun e m _ => mem e m, fun e m k => ?_⟩
    obtain ⟨x, -, rfl⟩ := mem e m
    cases x <;> exact nomatch k

/-! ### Laws kept together -/

theorem PortOps.and {P Q : State → Prop} (o : PortOps P) (q : PortOps Q) :
    PortOps fun s => P s ∧ Q s where
  countPort p f s h := h.imp (o.countPort p f s) (q.countPort p f s)
  offer p l f s h := h.imp (o.offer p l f s) (q.offer p l f s)
  helloTaken p n s h := h.imp (o.helloTaken p n s) (q.helloTaken p n s)
  holdTaken p bs s h := h.imp (o.holdTaken p bs s) (q.holdTaken p bs s)
  helloDue s h := h.imp (o.helloDue s) (q.helloDue s)
  appears p s h := h.imp (o.appears p s) (q.appears p s)
  lost p s h := h.imp (o.lost p s) (q.lost p s)
  silent p s h := h.imp (o.silent p s) (q.silent p s)
  holdExpires p s h := h.imp (o.holdExpires p s) (q.holdExpires p s)
  refresh p s h := h.imp (o.refresh p s) (q.refresh p s)
  sentFrame p s h := h.imp (o.sentFrame p s) (q.sentFrame p s)

theorem TimelineOps.and {P Q : State → Prop} (o : TimelineOps P) (q : TimelineOps Q) :
    TimelineOps fun s => P s ∧ Q s where
  note s u e h := h.imp (o.note s u e) (q.note s u e)
  adopt b x s a h := h.imp (o.adopt b x s a) (q.adopt b x s a)
  enterEnding l s r h := h.imp (o.enterEnding l s r) (q.enterEnding l s r)
  endTaken b l s h := h.imp (o.endTaken b l s) (q.endTaken b l s)
  marked n d r k s u m h := h.imp (o.marked n d r k s u m) (q.marked n d r k s u m)
  lostRef s r h := h.imp (o.lostRef s r) (q.lostRef s r)
  drainTimer s h := h.imp (o.drainTimer s) (q.drainTimer s)
  done s c e h := h.imp (o.done s c e) (q.done s c e)

theorem CaptureOps.and {P Q : State → Prop} (o : CaptureOps P) (q : CaptureOps Q) :
    CaptureOps fun s => P s ∧ Q s where
  bits k b s h := h.imp (o.bits k b s) (q.bits k b s)
  stop k s h := h.imp (o.stop k s) (q.stop k s)
  take s h := h.imp (o.take s) (q.take s)
  discard s h := h.imp (o.discard s) (q.discard s)
  clearFlags m s h := h.imp (o.clearFlags m s) (q.clearFlags m s)
  coder s u g b h := h.imp (o.coder s u g b) (q.coder s u g b)

theorem OutletOps.and {P Q : State → Prop} (o : OutletOps P) (q : OutletOps Q) :
    OutletOps fun s => P s ∧ Q s where
  arrival a s h := h.imp (o.arrival a s) (q.arrival a s)
  cut f c s h := h.imp (o.cut f c s) (q.cut f c s)
  leaveCut s h := h.imp (o.leaveCut s) (q.leaveCut s)
  finished s h := h.imp (o.finished s) (q.finished s)
  deadline n s h := h.imp (o.deadline n s) (q.deadline n s)
  record s h := h.imp (o.record s) (q.record s)
  ready s h := h.imp (o.ready s) (q.ready s)
  notReady s h := h.imp (o.notReady s) (q.notReady s)

theorem KeepOps.and {P Q : State → Prop} (o : KeepOps P) (q : KeepOps Q) :
    KeepOps fun s => P s ∧ Q s where
  append b s h := h.imp (o.append b s) (q.append b s)
  recompute s h := h.imp (o.recompute s) (q.recompute s)
  advance s p h := h.imp (o.advance s p) (q.advance s p)
  resend s h := h.imp (o.resend s) (q.resend s)
  takeKeep x i b f s h := h.imp (o.takeKeep x i b f s) (q.takeKeep x i b f s)
  archived s h := h.imp (o.archived s) (q.archived s)
  archive s h := h.imp (o.archive s) (q.archive s)
  noArchive s h := h.imp (o.noArchive s) (q.noArchive s)

theorem ConsoleOps.and {P Q : State → Prop} (o : ConsoleOps P) (q : ConsoleOps Q) :
    ConsoleOps fun s => P s ∧ Q s where
  console s u e l h := h.imp (o.console s u e l) (q.console s u e l)
  loading s l n b f h := h.imp (o.loading s l n b f) (q.loading s l n b f)
  loadEnds s h := h.imp (o.loadEnds s) (q.loadEnds s)
  raised c x s h := h.imp (o.raised c x s) (q.raised c x s)

theorem BlockOps.and {P Q : State → Prop} (o : BlockOps P) (q : BlockOps Q) :
    BlockOps fun s => P s ∧ Q s where
  toPortOps := o.toPortOps.and q.toPortOps
  toTimelineOps := o.toTimelineOps.and q.toTimelineOps
  toCaptureOps := o.toCaptureOps.and q.toCaptureOps
  delivery s u i m l h := h.imp (o.delivery s u i m l) (q.delivery s u i m l)
  air x a s h := h.imp (o.air x a s) (q.air x a s)
  cue i v s h := h.imp (o.cue i v s) (q.cue i v s)
  flush st s h := h.imp (o.flush st s) (q.flush st s)
  peers s u c l b h := h.imp (o.peers s u c l b) (q.peers s u c l b)
  toOutletOps := o.toOutletOps.and q.toOutletOps
  toKeepOps := o.toKeepOps.and q.toKeepOps
  toConsoleOps := o.toConsoleOps.and q.toConsoleOps
  reach t s h := h.imp (o.reach t s) (q.reach t s)
  boundary n s h := h.imp (o.boundary n s) (q.boundary n s)

/-- A law of the entries with the station's life: a LOAD finds the roster empty. -/
theorem EntriesLaw.withLife {P : State → Prop} (l : EntriesLaw P)
    (empty : ∀ s, s.rst.entries = [] → s.statics.length ≤ 64 → P s) :
    Ops fun s => Lifecycle s ∧ P s where
  toBlockOps := ops_lifecycle.toBlockOps.and l.blockOps
  queue q s h := h.imp (ops_lifecycle.queue q s) (l.congr s _ rfl rfl)
  reset x s _ := ⟨resetWith_lifecycle x s, empty _ rfl (Nat.zero_le _)⟩
  loaded bs c d s busy checked h := by
    obtain ⟨life, -⟩ := h
    refine ⟨applyLoad_lifecycle c d s life busy, ?_⟩
    obtain ⟨entries, config⟩ := applyLoad_entries c d (s.onCsu fun u => { u with load := .idle })
    refine empty _ (entries.trans (life.fresh (life.before_of_load busy)).roster) ?_
    rw [State.statics, config]
    exact checkBlock_statics checked
  armed s t r h := h.imp (armed_lifecycle s t r) (l.armed s)
  zeroed s h := h.imp (zeroCounts_lifecycle s) (l.congr s _ rfl rfl)
  clearAttn m s h := h.imp (ops_lifecycle.clearAttn m s) (l.congr s _ rfl rfl)

theorem rosterLaw_of_empty {s : State} (e : s.rst.entries = []) (n : s.statics.length ≤ 64) :
    RosterLaw s :=
  ⟨by rw [Rst.Ordered, e]; exact .nil, by rw [e]; exact Nat.zero_le _, n⟩

theorem ops_claimLaw : Ops fun s => Lifecycle s ∧ RosterLaw s ∧ ClaimLaw s :=
  entriesLaw_claimLaw.withLife fun s e n =>
    ⟨rosterLaw_of_empty e n, fun st => by rw [e]; exact Nat.zero_le _⟩

theorem ops_sourced : Ops fun s => Lifecycle s ∧ s.Sourced :=
  entriesLaw_sourced.withLife fun s e _ =>
    ⟨fun x m => absurd m (by rw [e]; exact List.not_mem_nil),
      fun x m => absurd m (by rw [e]; exact List.not_mem_nil)⟩

/-- Settles O57: the roster law is kept by each operation; the claim law with it, and with the station's
life, by which a LOAD finds the roster empty; and the kind law follows from where the entries come from. -/
theorem rosterLawKept : Obligations.RosterLawKept := by
  intro s t roster e
  have kept := ops_rosterLaw.step s t roster e
  refine ⟨kept, fun life claims => ?_, fun life kinds => ?_⟩
  · obtain ⟨-, -, claims'⟩ := ops_claimLaw.step s t ⟨life, roster, claims⟩ e
    exact claims'
  · obtain ⟨-, sourced⟩ := ops_sourced.step s t ⟨life, kinds.sourced⟩ e
    exact sourced.kindLaw kept

end Sys2Proof.Machine
end

section
/-! What every command does: it completes, leaves the queue, and never sets local time back (O2); while MUTED
no sequence is issued (O39). -/

namespace Sys2Proof.Machine

/-! ### The queue and local time -/

/-- The queue is the same, and local time has not gone back. -/
structure State.Later (s t : State) : Prop where
  pending : t.pending = s.pending
  now : s.now ≤ t.now

theorem State.Later.refl (s : State) : s.Later s := ⟨rfl, Nat.le_refl _⟩

theorem State.Later.trans {s t u : State} (h : s.Later t) (k : t.Later u) : s.Later u :=
  ⟨k.pending.trans h.pending, Nat.le_trans h.now k.now⟩

theorem Foot.later {ps : List Part} {s t : State} (f : Foot ps s t)
    (a : Part.pending ∉ ps := by decide) (b : Part.now ∉ ps := by decide) : s.Later t :=
  ⟨f.pending a, Nat.le_of_eq (f.now b).symm⟩

theorem State.reach_later (t : Time) (s : State) : s.Later (s.reach t) := ⟨rfl, Nat.le_max_left _ _⟩

theorem helloDue_later (s : State) : s.Later (helloDue s) := by
  unfold helloDue
  split
  · exact .refl _
  · refine .trans ?_ ((offerHello_foot _ _).later.trans (offerHello_foot _ _).later)
    exact (State.reach_later _ _).trans (State.onLku_foot _ _).later

theorem silenceExpires_later (p : PortId) (s : State) : s.Later (silenceExpires p s) := by
  unfold silenceExpires
  split
  · exact .refl _
  · exact ((State.reach_later _ _).trans (State.countPort_foot _ _ _).later).trans
      (goDown_foot _ _).later

theorem holdExpires_later (p : PortId) (s : State) : s.Later (holdExpires p s) := by
  unfold holdExpires
  split
  · exact .refl _
  · exact ((State.reach_later _ _).trans (State.countPort_foot _ _ _).later).trans
      (releaseLane2_foot _ _).later

theorem refreshExpires_later (p : PortId) (s : State) : s.Later (refreshExpires p s) := by
  unfold refreshExpires
  split
  · exact .refl _
  · exact ((State.reach_later _ _).trans (State.onPort_foot _ _ _).later).trans
      (offerHold_foot _ _ _).later

theorem drainTimerExpires_later (s : State) : s.Later (drainTimerExpires s) := by
  unfold drainTimerExpires
  split
  · exact (State.reach_later _ _).trans (State.onTlu_foot _ _).later
  · exact .refl _
  · exact .refl _

theorem deadlineExpires_later (n : Index) (s : State) : s.Later (deadlineExpires n s) := by
  unfold deadlineExpires
  split
  · exact .refl _
  · exact ((State.reach_later _ _).trans (State.onAou_foot _ _).later).trans (feedSettle_foot _).later

theorem resendExpires_later (s : State) : s.Later (resendExpires s) := by
  unfold resendExpires
  split
  · exact .refl _
  · exact (State.reach_later _ _).trans (State.onKsp_foot _ _).later

/-- A law of the queue and local time, kept as time passes. -/
theorem BlockOps.of_later {P : State → Prop} (f : ∀ s t, s.Later t → P s → P t) : BlockOps P where
  countPort _ _ _ := f _ _ (State.countPort_foot _ _ _).later
  offer _ _ _ _ := f _ _ (offerFrame_foot _ _ _ _).later
  helloTaken _ _ _ := f _ _ (helloTaken_foot _ _ _).later
  holdTaken _ _ _ := f _ _ (holdTaken_foot _ _ _).later
  helloDue _ := f _ _ (helloDue_later _)
  appears _ _ := f _ _ (carrierAppears_foot _ _).later
  lost _ _ := f _ _ (carrierLost_foot _ _).later
  silent _ _ := f _ _ (silenceExpires_later _ _)
  holdExpires _ _ := f _ _ (holdExpires_later _ _)
  refresh _ _ := f _ _ (refreshExpires_later _ _)
  sentFrame _ _ := f _ _ (frameSent_foot _ _).later
  note s u _ := f _ _ (State.onTlu_foot (fun _ => u) s).later
  adopt _ _ _ _ := f _ _ (adoptEpoch_foot _ _ _).later
  enterEnding _ _ _ := f _ _ (enterEnding_foot _ _).later
  endTaken _ _ _ := f _ _ (endTaken_foot _ _ _).later
  marked _ _ _ _ _ _ _ := f _ _ (State.onTlu_foot _ _).later
  lostRef _ _ := f _ _ (State.onTlu_foot _ _).later
  drainTimer _ := f _ _ (drainTimerExpires_later _)
  done _ _ _ := f _ _ (State.onTlu_foot _ _).later
  toCaptureOps := .of_frames fun _ _ g => f _ _ g.later
  toDeliveryOps := .of_frames fun _ _ g => f _ _ g.later
  toRosterOps := .of_frames fun _ _ g => f _ _ g.later
  toCueOps := .of_frames fun _ _ g => f _ _ g.later
  arrival _ _ := f _ _ (takeArrival_foot _ _).later
  cut _ _ _ := f _ _ (cutTrigger_foot _ _ _).later
  leaveCut _ := f _ _ (leaveCut_foot _).later
  finished _ := f _ _ (reportFinished_foot _).later
  deadline _ _ := f _ _ (deadlineExpires_later _ _)
  record _ := f _ _ (feedRecordSent_foot _).later
  ready _ := f _ _ (programReady_foot _).later
  notReady _ := f _ _ (programNotReady_foot _).later
  append _ _ := f _ _ (appendKeep_foot _ _).later
  recompute _ := f _ _ (recomputeFree_foot _).later
  advance _ _ := f _ _ (advanceDrain_foot _).later
  resend _ := f _ _ (resendExpires_later _)
  takeKeep _ _ _ _ _ := f _ _ (takeKeep_foot _ _ _ _ _).later
  archived _ := f _ _ (archiveRecordSent_foot _).later
  archive _ := f _ _ (archiveReady_foot _).later
  noArchive _ := f _ _ (archiveNotReady_foot _).later
  toConsoleOps := .of_frames fun _ _ g => f _ _ g.later
  reach _ _ := f _ _ (State.reach_later _ _)
  boundary _ _ := f _ _ (boundaryFrom_foot _ _).later

theorem applyLoad_later (c : Configuration) (d : Word) (s : State) : s.Later (applyLoad c d s) :=
  have blocks : s.Later (loadBlocks c d s) := ⟨rfl, Nat.le_refl _⟩
  blocks.trans (applyLoad_foot_blocks c d s).later

theorem armed_later (s : State) :
    s.Later (sendBeacon (enableLanes (fillRoster (armBlocks s)))) :=
  have blocks : s.Later (armBlocks s) := ⟨rfl, Nat.le_refl _⟩
  blocks.trans (armed_foot_blocks s).later

theorem commandOps_later (c : Instr) (s : State) : CommandOps c s.Later where
  toBlockOps := .of_later fun _ _ k h => h.trans k
  loaded _ x d t _ _ h :=
    have idle : t.Later (t.onCsu fun u => { u with load := .idle }) := ⟨rfl, Nat.le_refl _⟩
    (h.trans idle).trans (applyLoad_later x d _)
  zeroed _ h := h.trans ⟨rfl, Nat.le_refl _⟩
  armed _ t _ _ h := h.trans (armed_later t)
  clearAttn _ _ _ h := h.trans ⟨rfl, Nat.le_refl _⟩
  reset _ _ _ h := h.trans ⟨rfl, Nat.le_refl _⟩

theorem exec_next (c : Instr) (s : State) : ∃ t, exec c s = .next t := by
  cases c <;> exact ⟨_, rfl⟩

/-- Settles O2: no command refuses or faults, and each operation leaves the queue and lets time pass. -/
theorem everyCommandCompletes : Obligations.EveryCommandCompletes := by
  intro c s
  obtain ⟨t, e⟩ := exec_next c s
  obtain ⟨pending, now⟩ := (commandOps_later c s).exec e (.refl s)
  exact ⟨t, e, pending, now⟩

/-! ### MUTED (R74, R77) -/

/-- MUTED is set as it was, and the next ring sequence meets a condition. -/
structure State.Mutes (m : MuteCause) (f : Word → Prop) (s : State) : Prop where
  muted : s.dlu.muted = some m
  sequence : f s.dlu.nextSeq

theorem frames_mutes (m : MuteCause) (f : Word → Prop) (ps : List Part)
    (a : Part.dlu ∉ ps := by decide) (b : Part.muted ∉ ps := by decide) :
    Frames ps (State.Mutes m f) := fun _ _ g h => by
  obtain ⟨-, sequence, -⟩ := g.dlu a
  exact ⟨(g.muted b).trans h.muted, sequence ▸ h.sequence⟩

theorem State.Mutes.isMuted {m : MuteCause} {f : Word → Prop} {s : State} (h : s.Mutes m f) :
    s.muted = true := by
  rw [State.muted, h.muted]
  rfl

theorem blockOps_mutes (m : MuteCause) (f : Word → Prop) : BlockOps (State.Mutes m f) where
  toPortOps := .of_frames (frames_mutes m f _)
  toTimelineOps := .of_frames (frames_mutes m f _)
  toCaptureOps := .of_frames (frames_mutes m f _)
  delivery s u issued changed _ h := by
    have speaks : ¬ s.muted = false := by rw [h.isMuted]; exact nofun
    have sequence : u.nextSeq = s.dlu.nextSeq := issued.resolve_right fun i => speaks i.2
    exact ⟨(changed.resolve_right speaks).trans h.muted, sequence ▸ h.sequence⟩
  toRosterOps := .of_frames (frames_mutes m f _)
  toCueOps := .of_frames (frames_mutes m f _)
  toOutletOps := .of_frames (frames_mutes m f _)
  toKeepOps := .of_frames (frames_mutes m f _)
  toConsoleOps := .of_frames (frames_mutes m f _)
  reach _ _ h := { h with }
  boundary _ _ := (frames_mutes m f _).of (boundaryFrom_foot _ _)

/-- A command other than a reset keeps MUTED; ARM sets the next sequence to 0 (R77). -/
theorem commandOps_mutes {c : Instr} (m : MuteCause) (f : Word → Prop)
    (quiet : c ≠ .powerOnReset ∧ c ≠ .consoleReset)
    (arm : c = .arm ∨ takesLine c → f 0) : CommandOps c (State.Mutes m f) where
  toBlockOps := blockOps_mutes m f
  loaded _ x d s _ _ h := (frames_mutes m f _).of (applyLoad_foot_blocks x d _) { h with }
  zeroed _ h := { h with }
  armed a s _ _ h := by
    have blocks : (armBlocks s).Mutes m f := ⟨h.muted, arm a⟩
    refine (blockOps_mutes m f).firstBeacon (armed_armedOnward s) (fun _ _ k => { k with }) ?_
    exact (frames_mutes m f _).of ((fillRoster_foot _).grow.seq (enableLanes_foot _).grow :
      Foot [.rst, .attn, .ports, .link] _ _) blocks
  clearAttn _ _ _ h := { h with }
  reset r := r.elim (absurd · quiet.1) (absurd · quiet.2)

/-- Settles O39: no operation changes MUTED while it is set, nor the next ring sequence, but for ARM. -/
theorem mutedLasts : Obligations.MutedLasts := by
  intro c s t muted power console e
  obtain ⟨m, there⟩ := Option.isSome_iff_exists.1 muted
  have zeroed := (commandOps_mutes m (fun n => n = s.dlu.nextSeq ∨ n = 0) ⟨power, console⟩
    fun _ => .inr rfl).exec e ⟨there, .inl rfl⟩
  refine ⟨zeroed.muted.trans there.symm, fun arm line brk => ?_, zeroed.sequence⟩
  have never : ¬ (c = .arm ∨ takesLine c) := by
    rintro (rfl | rfl | rfl)
    · exact arm rfl
    · exact line rfl
    · exact brk rfl
  exact ((commandOps_mutes m (fun n => n = s.dlu.nextSeq) ⟨power, console⟩
    fun a => absurd a never).exec e ⟨there, rfl⟩).sequence

end Sys2Proof.Machine
end

section
/-! The front of the queue and the passing of time (O1); the console commands with a short effect: reports (O4),
refusals (O6), the plain commands (O13). -/

namespace Sys2Proof.Machine

/-- With an empty queue one character time passes and one character is sent (log 1). -/
theorem idle_eq (s : State) : idle s = { s with
    now := s.now + 86800
    csu := { s.csu with tx := sendCharacter s.csu.tx } } := by
  have passes : max s.now (s.now + characterTime) = s.now + 86800 := Nat.max_eq_right (Nat.le_add_right _ _)
  rw [← passes]
  rfl

theorem step_of_empty {s : State} (empty : s.pending = []) : step s = .next (idle s) := by
  simp only [step, empty]

theorem step_of_waiting {s : State} {c : Instr} {q : List Instr} (waits : s.pending = c :: q) :
    step s = exec c (s.withQueue q) := by
  simp only [step, waits]

/-- Settles O1: both cases of the step function. -/
theorem stepRunsFrontCommand : Obligations.StepRunsFrontCommand := by
  intro s
  refine ⟨fun c q waits => step_of_waiting waits, fun empty => ?_⟩
  rw [step_of_empty empty, idle_eq]

/-! ### Reports -/

/-- A SHOW that is taken: its report and OK (R172). -/
theorem exec_show {s : State} (taken : s.csu.takesLines = true) (i : ShowItem) :
    exec (showOf i) s = .next (s.taken.replied (.report (s.taken.reportOf i) true)) := by
  have row : commandRow refuseNothing (showEffect i) s =
      s.taken.replied (.report (s.taken.reportOf i) true) := commandRow_of_taken _ taken rfl
  cases i <;> exact congrArg Host.Outcome.next row

/-- The current index of SHOW STATE, none outside an epoch (R17, log 15). -/
theorem reportState_index (s : State) : s.reportState.index = match s.tlu.epoch, s.tlu.curIndex, s.tlu.houseCount with
    | none, _, _ => none
    | some _, some n, _ => some n
    | some e, none, some count => some (count - e.base)
    | some _, none, none => none := by
  unfold State.reportState Tlu.currentIndex
  cases s.tlu.epoch <;> cases s.tlu.curIndex <;> cases s.tlu.houseCount <;> rfl

/-- SHOW CONFIG by whether a configuration is loaded (R179). -/
theorem reportConfig_eq (s : State) : s.reportConfig =
    { status := if s.csu.config = none then .absent else if s.csu.locked then .locked else .loaded
      fields := s.csu.config
      digest := if s.csu.config = none then none else s.lku.digest } := by
  unfold State.reportConfig
  cases s.csu.config <;> rfl

/-- Settles O4: each row is taken, and its report read from the state (`State.reportOf`) is the listed one. -/
theorem showReports : Obligations.ShowReports := by
  intro s taken
  have row (i : ShowItem) {r : Report} (e : s.taken.reportOf i = r) :
      exec (showOf i) s = .next (s.taken.replied (.report r true)) := by rw [exec_show taken, e]
  refine ⟨row .state ?_, row .ref rfl, row .ports rfl, row .lanes rfl, row .filter rfl, row .roster rfl,
    row .cues rfl, row .peers rfl, row .slots rfl, row .feed rfl, row .spool rfl, row .take rfl, row .capture rfl,
    row .counts rfl, row .attn rfl, row .config (congrArg Report.config (reportConfig_eq _))⟩
  exact congrArg (fun n => Report.state { s.reportState with index := n }) (reportState_index s)

/-! ### Refusals (Table 10-3) -/

theorem armCount_false_iff (s : State) : s.armCount = false ↔ s.tlu.houseCount = none ∨
    ∃ i n, s.tlu.incarnation = some i ∧ s.tlu.houseCount = some n ∧ newer n i = false := by
  unfold State.armCount
  cases s.tlu.houseCount <;> cases s.tlu.incarnation <;> simp

theorem cueCommandValue_none {i : Nat} {v : CueWord}
    (outside : 16 < i ∨ (i < 16 ∧ v ≠ .dark ∧ v ≠ .primed ∧ v ≠ .on) ∨ (i = 16 ∧ v ≠ .off ∧ v ≠ .on)) :
    cueCommandValue i v = none := by
  unfold cueCommandValue
  obtain above | ⟨group, dark, primed, on⟩ | ⟨rfl, off, on⟩ := outside
  · rw [if_neg (by omega), if_neg (by omega)]
  · rw [if_pos group]
    cases v <;> first | rfl | contradiction
  · cases v <;> first | rfl | contradiction

theorem cutPersists_of {s : State} {c : Configuration} (loaded : s.csu.config = some c)
    (on : (c.cutRef = true ∧ (s.tlu.ref ≠ .locked ∨ s.tlu.voidRun = true)) ∨
      (c.cutDup = true ∧ s.dlu.muted.isSome = true)) : s.cutPersists = true := by
  simp only [State.cutPersists, loaded, Bool.or_eq_true, Bool.and_eq_true]
  refine on.imp (fun ⟨field, ref⟩ => ⟨field, ?_⟩) fun ⟨field, muted⟩ => ⟨field, muted⟩
  simpa [State.refNotLocked, State.refLocked] using ref

/-- Settles O6: each refusal is the first of its row's tests that applies. -/
theorem commandsRefused : Obligations.CommandsRefused := by
  intro s taken
  have row {r : State → Option RefusalCode} {e : State → State} {c : RefusalCode}
      (h : r s = some c) (reads : r (repliesSent (speak s)) = r s := by rfl) :
      (.next (commandRow r e s) : Answer) = .next (s.turnedDown c) := by
    rw [commandRow_of_refused e taken (reads.trans h)]
  refine ⟨fun onward => row ?_, fun elsewhere => row ?_, fun here ref => row ?_, fun muted => row ?_,
    fun speaks other => row ?_, fun speaks armed fresh ref => row ?_, fun muted => row ?_, fun speaks other => row ?_,
    fun i v muted => row ?_, fun i v speaks before => row ?_, fun i v speaks onward outside => row ?_,
    fun off => row ?_, fun off => row ?_, fun c loaded cut on => row ?_, fun m above => row ?_,
    fun m above => row ?_⟩
  · exact if_pos onward
  · exact if_pos elsewhere
  · have placed : ¬ (s.tlu.station ≠ .configured ∧ s.tlu.station ≠ .done) := fun away => here.elim away.1 away.2
    have unready : ¬ (s.refLocked = true ∧ s.armCount = true) := by
      rintro ⟨locked, count⟩
      obtain unlocked | bad := ref
      · exact unlocked (by simpa [State.refLocked] using locked)
      · exact absurd ((armCount_false_iff s).2 bad) (by simp [count])
    exact (if_neg placed).trans (if_pos unready)
  · exact if_pos muted
  · have elsewhere : s.tlu.station ≠ .armed ∨ s.tlu.epoch.isSome = true :=
      other.imp_right Option.isSome_iff_ne_none.2
    exact (if_neg (by simp [speaks])).trans (if_pos elsewhere)
  · have here : ¬ (s.tlu.station ≠ .armed ∨ s.tlu.epoch.isSome = true) := by simp [armed, fresh]
    have unlocked : ¬ s.refLocked = true := by simpa [State.refLocked] using ref
    exact (if_neg (by simp [speaks])).trans ((if_neg here).trans (if_pos unlocked))
  · exact if_pos muted
  · exact (if_neg (by simp [speaks])).trans (if_pos other)
  · exact if_pos muted
  · exact (if_neg (by simp [speaks])).trans (if_pos (by simp [before]))
  · exact (if_neg (by simp [speaks])).trans ((if_neg (by simp [onward])).trans
      (if_pos (by simp [cueCommandValue_none outside])))
  · refine if_pos ?_
    obtain unconfigured | none | ⟨c, loaded, closed⟩ := off
    · exact .inl (by simpa [State.unconfigured] using unconfigured)
    · exact .inr (by simp [none])
    · exact .inr (by simp [loaded, closed])
  · exact if_pos (.inl (by simpa [State.unconfigured] using off))
  · exact if_pos (.inr ⟨cut, cutPersists_of loaded on⟩)
  · exact if_pos above
  · exact if_pos above
end Sys2Proof.Machine
end

section
/-! Reset (O3, O54), the plain commands (O13), WATCH (O5). -/

namespace Sys2Proof.Machine

/-! ### Reset -/

/-- Settles O3: the reset tables are the default values of the blocks, and `resetWith` writes them. -/
theorem resetValues : Obligations.ResetValues := by
  refine ⟨
    rfl, rfl, rfl, rfl, rfl, rfl, rfl, rfl, rfl, rfl, rfl, rfl, rfl, rfl, rfl, rfl, rfl, rfl, rfl, rfl,
    rfl, rfl,
    fun p => by cases p <;> exact ⟨rfl, rfl, rfl, rfl, rfl, rfl, rfl, rfl, rfl, rfl, rfl, rfl, rfl, rfl, rfl, rfl⟩,
    rfl, rfl, rfl, rfl, rfl, rfl, rfl, rfl, rfl, rfl, rfl, rfl, rfl, rfl, rfl, rfl, rfl, rfl, rfl, rfl,
    rfl, rfl, rfl, rfl, rfl, rfl, rfl, rfl, rfl, rfl, rfl, rfl, rfl, rfl, rfl, rfl, rfl, rfl, rfl, rfl,
    rfl, rfl, rfl, rfl, rfl, rfl, rfl,
    fun s => ⟨rfl, rfl⟩⟩

theorem fits_reset : Fits State.reset where
  portA := emptyPort_fits false
  portB := emptyPort_fits false
  lines := ⟨rfl, fun l m => by
    obtain rfl := List.eq_of_mem_replicate m
    exact ⟨Nat.zero_le _, Nat.succ_pos _⟩⟩
  window := Nat.zero_le _
  feed := Nat.zero_le _
  archive := Nat.zero_le _
  lineBuffers := Nat.zero_le _
  conceal := List.length_replicate
  stations := ⟨rfl, rfl, rfl⟩
  classes := ⟨rfl, rfl⟩
  line := Nat.zero_le _
  load := nofun
  cues := nofun

theorem windowLaw_reset : WindowLaw State.reset := ⟨.nil, nofun, nofun, nofun⟩

theorem kindLaw_reset : KindLaw State.reset := ⟨nofun, nofun, Nat.zero_le _, Nat.zero_le _⟩

/-- Settles O54: the reset tables are empty, and the laws that every reset keeps. -/
theorem lawsHoldAtReset : Obligations.LawsHoldAtReset :=
  ⟨atArm_law {}, fits_reset, rosterLaw_of_empty rfl (Nat.zero_le _), fun _ => Nat.zero_le _, kindLaw_reset,
    resetWith_lifecycle .powerOn State.reset, resetWith_linkLaw .powerOn State.reset, windowLaw_reset⟩

/-! ### Commands taken -/

/-- A command whose refusal does not apply: its effect on the state that has taken the line. -/
theorem commandRow_answers {refusal : State → Option RefusalCode} {effect : State → State} {s t : State}
    (taken : s.csu.takesLines = true) (granted : refusal (repliesSent (speak s)) = none)
    (does : effect s.taken = t) : (.next (commandRow refusal effect s) : Answer) = .next t := by
  rw [commandRow_of_taken effect taken granted, does]

/-- Settles O13: each is granted, and its effect is the listed one. -/
theorem plainCommandsTaken : Obligations.PlainCommandsTaken := by
  intro s taken
  refine ⟨fun before => commandRow_answers taken (if_neg (Bool.eq_false_iff.1 before)) rfl,
    commandRow_answers taken rfl rfl, fun m within classes => ?_, commandRow_answers taken rfl rfl⟩
  have masked : refuseMask 0x7FF m s = none := if_neg (by omega)
  refine ⟨clearClasses m s.csu.pendingAttn, commandRow_answers taken masked rfl, ?_,
    fun c => clearClasses_getD _ _ _⟩
  rw [clearClasses_length, classes]

/-! ### WATCH (R173) -/

theorem repeatWatch_silent {s : State} {w : Watch} {d : Time} (watch : s.csu.watch = some w)
    (at_ : w.repeatAt = some d) (quiet : s.csu.replying = false) :
    repeatWatch s = watchReport w.item (s.reach d) := by
  have quiet' : (s.reach d).csu.replying = false := quiet
  simp only [repeatWatch, watch, at_, quiet']
  rfl

theorem repeatWatch_replying {s : State} {w : Watch} {d : Time} (watch : s.csu.watch = some w)
    (at_ : w.repeatAt = some d) (busy : s.csu.replying = true) :
    repeatWatch s = (s.reach d).onCsu fun u => { u with watch := some { w with repeatAt := none, due := true } } := by
  have busy' : (s.reach d).csu.replying = true := busy
  simp only [repeatWatch, watch, at_, busy', if_true]

theorem reportDone_replying {s : State} {w : Watch} (watch : s.csu.watch = some w)
    (busy : s.csu.replying = true) : reportDone s =
      let t := s.onCsu fun u => { u with tx := dropFirstReply u.tx }
      if w.due then watchReport w.item t else t := by
  simp only [reportDone, watch, State.onCsu, busy, if_true]

theorem takeHolding_none {s : State} (free : s.csu.holding = none) : takeHolding s = s := by
  simp only [takeHolding, free]

/-- The holding character ends a WATCH outside LOAD (R173). -/
theorem takeHolding_watch {s : State} {w : Watch} {c : Byte} (watch : s.csu.watch = some w)
    (idle : s.csu.load = .idle) (holds : s.csu.holding = some c) :
    takeHolding s = endWatch (s.onCsu fun u => { u with holding := none }) := by
  simp only [takeHolding, holds, Csu.canTake, takeCharacter, State.onCsu, idle, watch, if_true]

/-- A character that completes with the holding character free is held, and taken if it may be (R169). -/
theorem completeCharacter_free {s : State} (c : Byte) (free : s.csu.holding = none) :
    completeCharacter c s = takeHolding (s.onCsu fun u => { u with holding := some c }) := by
  simp only [completeCharacter, takeHolding_none free, free, Option.isSome_none, Bool.false_eq_true, if_false]

/-- Settles O5: the first report and its repeats (`watchReport`), and the character that ends the WATCH. -/
theorem watchRuns : Obligations.WatchRuns := by
  intro s
  refine ⟨fun taken => ⟨fun i => commandRow_answers taken rfl rfl, ?_⟩, fun w d watch at_ quiet => ?_,
    fun w d watch at_ busy => ?_, fun w c watch idle => ⟨fun free => ?_, fun holds => ?_⟩, fun w watch busy => ?_⟩
  · exact congrArg Host.Outcome.next (commandRow_of_refused _ taken rfl)
  · exact congrArg Host.Outcome.next (repeatWatch_silent watch at_ quiet)
  · exact congrArg Host.Outcome.next (repeatWatch_replying watch at_ busy)
  · refine congrArg Host.Outcome.next ((completeCharacter_free c free).trans ?_)
    exact takeHolding_watch (s := s.onCsu fun u => { u with holding := some c }) watch idle rfl
  · exact congrArg Host.Outcome.next (takeHolding_watch watch idle holds)
  · have done := reportDone_replying watch busy
    refine ⟨fun waits => congrArg Host.Outcome.next (done.trans ?_),
      fun due => congrArg Host.Outcome.next (done.trans ?_)⟩
    · exact if_neg (Bool.eq_false_iff.1 waits)
    · exact if_pos due

end Sys2Proof.Machine
end

section
/-! The frames read back (O53): the fields of a string of fields, one after the other, then each body. -/

namespace Sys2Proof.Machine

/-! ### Fields in turn

A field is read where its string begins; a read further on skips it. -/

@[simp] theorem byteAt_skip8 (n : Nat) (rest : Bytes) (i : Nat) :
    byteAt (put8 n ++ rest) (i + 1) = byteAt rest i := rfl

@[simp] theorem byteAt_skip16 (n : Nat) (rest : Bytes) (i : Nat) :
    byteAt (put16 n ++ rest) (i + 2) = byteAt rest i := rfl

@[simp] theorem byteAt_skip32 (w : Word) (rest : Bytes) (i : Nat) :
    byteAt (put32 w ++ rest) (i + 4) = byteAt rest i := rfl

@[simp] theorem wordAt16_skip8 (n : Nat) (rest : Bytes) (i : Nat) :
    wordAt16 (put8 n ++ rest) (i + 1) = wordAt16 rest i := rfl

@[simp] theorem wordAt16_skip16 (n : Nat) (rest : Bytes) (i : Nat) :
    wordAt16 (put16 n ++ rest) (i + 2) = wordAt16 rest i := rfl

@[simp] theorem wordAt16_skip32 (w : Word) (rest : Bytes) (i : Nat) :
    wordAt16 (put32 w ++ rest) (i + 4) = wordAt16 rest i := rfl

@[simp] theorem wordAt32_skip8 (n : Nat) (rest : Bytes) (i : Nat) :
    wordAt32 (put8 n ++ rest) (i + 1) = wordAt32 rest i := rfl

@[simp] theorem wordAt32_skip16 (n : Nat) (rest : Bytes) (i : Nat) :
    wordAt32 (put16 n ++ rest) (i + 2) = wordAt32 rest i := rfl

@[simp] theorem wordAt32_skip32 (w : Word) (rest : Bytes) (i : Nat) :
    wordAt32 (put32 w ++ rest) (i + 4) = wordAt32 rest i := rfl

@[simp] theorem wordAt32_first (w : Word) (rest : Bytes) : wordAt32 (put32 w ++ rest) 0 = w :=
  wordAt32_put32 w rest

theorem byteAt_drop (bs : Bytes) (a i : Nat) : byteAt (bs.drop a) i = byteAt bs (a + i) := by
  simp [byteAt, List.getD_eq_getElem?_getD]

theorem wordAt16_drop (bs : Bytes) (a i : Nat) : wordAt16 (bs.drop a) i = wordAt16 bs (a + i) := by
  simp only [wordAt16, byteAt_drop, Nat.add_assoc]

theorem wordAt32_drop (bs : Bytes) (a i : Nat) : wordAt32 (bs.drop a) i = wordAt32 bs (a + i) := by
  simp only [wordAt32, wordAt16_drop, Nat.add_assoc]

/-! ### The CRC -/

theorem crcGood_withCrc (bs : Bytes) : crcGood (withCrc bs) = true := by
  have size : (withCrc bs).length = bs.length + 4 := by simp [withCrc]
  have field : wordAt32 (withCrc bs) bs.length = crc32 bs := by
    rw [withCrc, ← List.append_nil (put32 _)]
    exact wordAt32_field rfl
  have covered : (withCrc bs).take bs.length = bs := List.take_left
  simp [crcGood, size, field, covered]

/-! ### Flags -/

theorem bitIf_le (b : Bool) (v : Nat) : bitIf b v ≤ v := by
  cases b
  · exact Nat.zero_le _
  · exact Nat.le_refl _

theorem testBit_flag (a : Bool) : (bitIf a 1).testBit 0 = a := by cases a <;> rfl

/-- Two flags in a byte are read each by its bit. -/
theorem testBit_twoFlags (a b : Bool) :
    (bitIf a 1 + bitIf b 2).testBit 0 = a ∧ (bitIf a 1 + bitIf b 2).testBit 1 = b := by
  cases a <;> cases b <;> exact ⟨rfl, rfl⟩

/-- Three flags in a byte are read each by its bit. -/
theorem testBit_threeFlags (a b c : Bool) : (bitIf a 1 + bitIf b 2 + bitIf c 4).testBit 0 = a ∧
    (bitIf a 1 + bitIf b 2 + bitIf c 4).testBit 1 = b ∧ (bitIf a 1 + bitIf b 2 + bitIf c 4).testBit 2 = c := by
  cases a <;> cases b <;> cases c <;> exact ⟨rfl, rfl, rfl⟩

theorem flag_lt (a : Bool) : bitIf a 1 < 256 := Nat.lt_of_le_of_lt (bitIf_le _ _) (by decide)

theorem twoFlags_lt (a b : Bool) : bitIf a 1 + bitIf b 2 < 256 :=
  Nat.lt_of_le_of_lt (Nat.add_le_add (bitIf_le _ _) (bitIf_le _ _)) (by decide)

theorem threeFlags_lt (a b c : Bool) : bitIf a 1 + bitIf b 2 + bitIf c 4 < 256 :=
  Nat.lt_of_le_of_lt (Nat.add_le_add (Nat.add_le_add (bitIf_le _ _) (bitIf_le _ _)) (bitIf_le _ _)) (by decide)

/-! ### Link-local frames -/

theorem stateOfCode_code {st : StationState} (h : st ≠ .unconfigured) : stateOfCode st.code = some st := by
  cases st <;> first | rfl | contradiction

theorem portOfCode_portCode (p : PortId) : portOfCode (portCode p) = some p := by cases p <;> rfl

theorem code_lt (st : StationState) : st.code < 256 := by cases st <;> decide

theorem portCode_lt (p : PortId) : portCode p < 256 := by cases p <;> decide

theorem parseHello_helloBytes (s : State) (p : PortId) (now : Time) (low : 1 ≤ s.ownId) (top : s.ownId ≤ 16)
    (configured : s.unconfigured = false) : parseHello now (helloBytes s p) = some {
      station := s.ownId
      letter := p
      state := s.tlu.station
      digest := s.lku.digest.getD 0
      enable1 := s.lku.enabled
      enable2 := s.lku.enabled
      seen1 := (s.port p).seen1
      seen2 := (s.port p).seen2
      takenAt := now } := by
  have station : s.tlu.station ≠ .unconfigured := by simpa [State.unconfigured] using configured
  have size : (helloBytes s p).length = 14 := rfl
  have sender : byteAt (helloBytes s p) 1 = s.ownId := by
    simp [helloBytes, withCrc, List.append_assoc, byteAt_put8 (show s.ownId < 256 by omega)]
  have letter : byteAt (helloBytes s p) 2 = portCode p := by
    simp [helloBytes, withCrc, List.append_assoc, byteAt_put8 (portCode_lt p)]
  have code : byteAt (helloBytes s p) 3 = s.tlu.station.code := by
    simp [helloBytes, withCrc, List.append_assoc, byteAt_put8 (code_lt _)]
  have digest : wordAt32 (helloBytes s p) 4 = s.lku.digest.getD 0 := by
    simp [helloBytes, withCrc, List.append_assoc]
  have enable : byteAt (helloBytes s p) 8 = bitIf s.lku.enabled 1 + bitIf s.lku.enabled 2 := by
    simp [helloBytes, withCrc, List.append_assoc, byteAt_put8 (twoFlags_lt _ _)]
  have seen : byteAt (helloBytes s p) 9 = bitIf (s.port p).seen1 1 + bitIf (s.port p).seen2 2 := by
    simp [helloBytes, withCrc, List.append_assoc, byteAt_put8 (twoFlags_lt _ _)]
  have valid : (helloBytes s p).length = 14 ∧ 1 ≤ byteAt (helloBytes s p) 1 ∧ byteAt (helloBytes s p) 1 ≤ 16 :=
    ⟨size, sender ▸ low, sender ▸ top⟩
  obtain ⟨enable1, enable2⟩ := testBit_twoFlags s.lku.enabled s.lku.enabled
  obtain ⟨seen1, seen2⟩ := testBit_twoFlags (s.port p).seen1 (s.port p).seen2
  rw [parseHello, if_pos valid]
  simp only [sender, letter, portOfCode_portCode, code, stateOfCode_code station, digest,
    enable, seen, enable1, enable2, seen1, seen2]

theorem holdBytes_reads {sender time : Nat} (s : sender < 256) (t : time < 65536) :
    (holdBytes sender time).length = 8 ∧ byteAt (holdBytes sender time) 0 = 2 ∧
    byteAt (holdBytes sender time) 1 = sender ∧ wordAt16 (holdBytes sender time) 2 = time := by
  refine ⟨rfl, rfl, ?_, ?_⟩
  · simp [holdBytes, withCrc, List.append_assoc, byteAt_put8 s]
  · simp [holdBytes, withCrc, List.append_assoc, wordAt16_put16 t]

/-! ### Ring-wide frames -/

theorem ringKindOf_code (k : RingKind) : ringKindOf k.code = some k := by cases k <;> rfl

theorem ringBytes_sizeField {k : RingKind} {h : RingHeader} {body : Bytes} (short : body.length < 65000) :
    wordAt16 (ringBytes k h body) 12 = (ringBytes k h body).length := by
  obtain ⟨c, e⟩ := ringBytes_eq k h body
  rw [ringBytes_length, e, ringFront]
  simp only [List.append_assoc, wordAt16_skip8, wordAt16_skip32]
  exact wordAt16_put16 (by omega) _

/-- Behind its front a ring-wide frame reads as its body, with something behind it. -/
theorem ringBytes_drop (k : RingKind) (h : RingHeader) (body : Bytes) :
    ∃ crc : Bytes, (ringBytes k h body).drop 14 = body ++ crc := by
  obtain ⟨c, e⟩ := ringBytes_eq k h body
  exact ⟨put32 c, by rw [e]; rfl⟩

/-- The fields of a body, read in its frame. -/
structure ReadsBody (bs body : Bytes) : Prop where
  byte : ∀ i, byteAt bs (i + 14) = byteAt body i
  word16 : ∀ i, wordAt16 bs (i + 14) = wordAt16 body i
  word32 : ∀ i, wordAt32 bs (i + 14) = wordAt32 body i
  payload : ∀ i n, payloadAt bs (i + 14) n = (body.drop i).take n

theorem ringBytes_reads (k : RingKind) (h : RingHeader) (body : Bytes) :
    ∃ crc : Bytes, ReadsBody (ringBytes k h body) (body ++ crc) := by
  obtain ⟨c, e⟩ := ringBytes_drop k h body
  refine ⟨c, fun i => ?_, fun i => ?_, fun i => ?_, fun i n => ?_⟩
  · rw [Nat.add_comm, ← byteAt_drop, e]
  · rw [Nat.add_comm, ← wordAt16_drop, e]
  · rw [Nat.add_comm, ← wordAt32_drop, e]
  · rw [Nat.add_comm, payloadAt, ← List.drop_drop, e]

theorem parseCue_of_reads {bs crc : Bytes} {c : CueBody} (item : c.item < 256) (code : c.code < 256)
    (r : ReadsBody bs (cueBytes c ++ crc)) : parseCue bs = c := by
  simp only [parseCue, r.byte, r.word32, cueBytes, List.append_assoc, byteAt_put8 item, byteAt_skip8,
    byteAt_put8 code, wordAt32_skip8, wordAt32_first]

theorem payload_taken (front payload crc : Bytes) {i n : Nat} (place : front.length = i)
    (size : payload.length = n) : ((front ++ (payload ++ crc)).drop i).take n = payload := by
  rw [List.drop_left' place, List.take_left' size]

theorem parseAir_of_reads {bs crc : Bytes} {a : AirBody} (track : a.track < 65536) (group : a.group < 256)
    (grade : a.load.grade ≤ 7) (size : a.load.payload.length = gradeSize a.load.grade)
    (r : ReadsBody bs (airBytes a ++ crc)) : parseAir bs = a := by
  have payload : payloadAt bs 24 (gradeSize a.load.grade) = a.load.payload := by
    rw [r.payload 10, airBytes, List.append_assoc]
    exact payload_taken _ _ _ rfl size
  simp only [airBytes, List.append_assoc] at r
  simp only [parseAir, airIndex, r.byte, r.word16, r.word32, byteAt_skip32, byteAt_skip16, byteAt_skip8, wordAt16_skip32,
    wordAt32_first, wordAt16_put16 track, byteAt_put8 group, byteAt_put8 (show a.load.grade < 256 by omega),
    byteAt_put8 (flag_lt _), testBit_flag, payload]

theorem parseKeep_of_reads {bs crc : Bytes} {b : KeepBody} {floor : Word} (track : b.track < 65536)
    (damage : b.damage < 65536) (group : b.group < 256) (short : b.payload.length < 65000)
    (r : ReadsBody bs (keepBytes b floor ++ crc)) : parseKeep bs = b ∧ keepFloor bs = floor := by
  have payload : payloadAt bs 38 b.payload.length = b.payload := by
    rw [r.payload 24, keepBytes, List.append_assoc]
    exact payload_taken _ _ _ rfl rfl
  simp only [keepBytes, List.append_assoc] at r
  have size : b.payload.length < 65536 := by omega
  constructor
  · simp only [parseKeep, r.byte, r.word16, r.word32, byteAt_skip32, byteAt_skip16, wordAt16_skip16, wordAt16_skip32,
      wordAt32_skip32, wordAt32_first, wordAt16_put16 track, wordAt16_put16 damage, wordAt16_put16 size,
      byteAt_put8 group, payload]
  · simp only [keepFloor, r.word32, wordAt32_skip32, wordAt32_first]

/-! ### BEACON: two runs of fields of one size -/

theorem flatMap_size {α : Type} {f : α → Bytes} {n : Nat} (size : ∀ x, (f x).length = n) (xs : List α) :
    (xs.flatMap f).length = n * xs.length := by
  induction xs with
  | nil => rfl
  | cons x rest ih => rw [List.flatMap_cons, List.length_append, size, ih, List.length_cons, Nat.mul_succ, Nat.add_comm]

/-- In a run of fields of one size each stands at a multiple of the size. -/
theorem flatMap_drop {α : Type} {f : α → Bytes} {n : Nat} (size : ∀ x, (f x).length = n) (rest : Bytes)
    {xs : List α} {i : Nat} (h : i < xs.length) :
    ∃ more, (xs.flatMap f ++ rest).drop (n * i) = f xs[i] ++ more := by
  induction xs generalizing i with
  | nil => exact absurd h (Nat.not_lt_zero i)
  | cons x xs ih =>
    cases i with
    | zero => exact ⟨xs.flatMap f ++ rest, by simp⟩
    | succ i =>
      obtain ⟨more, e⟩ := ih (Nat.lt_of_succ_lt_succ h)
      refine ⟨more, ?_⟩
      rw [List.flatMap_cons, List.append_assoc, Nat.mul_succ, Nat.add_comm, ← List.drop_drop,
        List.drop_left' (size x), e]
      rfl

/-- A field of a run behind other fields, read in the frame. -/
theorem ReadsBody.run {α : Type} {f : α → Bytes} {n a : Nat} {bs front rest : Bytes} {xs : List α}
    (r : ReadsBody bs (front ++ (xs.flatMap f ++ rest))) (place : front.length = a) (size : ∀ x, (f x).length = n)
    {i : Nat} (h : i < xs.length) : ∃ more, ∀ j, byteAt bs (a + n * i + j + 14) = byteAt (f xs[i] ++ more) j ∧
      wordAt32 bs (a + n * i + j + 14) = wordAt32 (f xs[i] ++ more) j := by
  obtain ⟨more, e⟩ := flatMap_drop size rest h
  have found : (front ++ (xs.flatMap f ++ rest)).drop (a + n * i) = f xs[i] ++ more := by
    rw [← List.drop_drop, List.drop_left' place, e]
  exact ⟨more, fun j => ⟨by rw [r.byte, ← byteAt_drop, found], by rw [r.word32, ← wordAt32_drop, found]⟩⟩

/-- The fields of one item of the cue table in a BEACON (Table 11-7). -/
def BeaconItem.bytes (x : BeaconItem) : Bytes := put8 x.code ++ put8 x.origin ++ put32 x.number

/-- The fields of one kept entry in a BEACON (Table 11-7). -/
def KeptEntry.bytes (e : KeptEntry) : Bytes := put8 e.origin ++ put8 0 ++ put32 e.incarnation ++ put32 e.kept

/-- The fields of a BEACON before its cue table (Table 11-7). -/
def BeaconBody.front (b : BeaconBody) : Bytes :=
  put8 b.stateCode ++ (put8 (bitIf b.airRole 1 + bitIf b.keepRole 2) ++
    (put8 (bitIf b.cut 1 + bitIf b.refFlag 2 + bitIf b.mutedPeer 4) ++ (put8 b.grade ++
    (put8 (bitIf b.base.isSome 1 + bitIf b.index.isSome 2 + bitIf b.keptPresent 4) ++
    (put8 b.keptCount ++ (put16 0 ++ (put32 (b.base.getD 0) ++ put32 (b.index.getD 0))))))))

theorem beaconBytes_eq (b : BeaconBody) :
    beaconBytes b = b.front ++ (b.items.flatMap BeaconItem.bytes ++ b.kept.flatMap KeptEntry.bytes) := by
  simp only [BeaconBody.front, List.append_assoc]
  simp only [beaconBytes, List.append_assoc]
  rfl

theorem beaconItems_read {bs front rest : Bytes} {items : List BeaconItem} (place : front.length = 16)
    (count : items.length = 17) (small : ∀ x ∈ items, x.code < 256 ∧ x.origin < 256)
    (r : ReadsBody bs (front ++ (items.flatMap BeaconItem.bytes ++ rest))) :
    ((List.range 17).map fun i =>
      { code := byteAt bs (30 + 6 * i), origin := byteAt bs (31 + 6 * i),
        number := wordAt32 bs (32 + 6 * i) }) = items := by
  refine List.ext_getElem (by simp [count]) fun i _ h => ?_
  obtain ⟨more, read⟩ := r.run (n := 6) place (fun _ => rfl) h
  obtain ⟨code, origin⟩ := small _ (List.getElem_mem h)
  have at0 : 30 + 6 * i = 16 + 6 * i + 0 + 14 := by omega
  have at1 : 31 + 6 * i = 16 + 6 * i + 1 + 14 := by omega
  have at2 : 32 + 6 * i = 16 + 6 * i + 2 + 14 := by omega
  simp only [List.getElem_map, List.getElem_range, at0, at1, at2, (read 0).1, (read 1).1, (read 2).2, BeaconItem.bytes,
    List.append_assoc, byteAt_put8 code, byteAt_skip8, byteAt_put8 origin, wordAt32_skip8, wordAt32_first]

theorem kept_read {bs front rest : Bytes} {kept : List KeptEntry} {k : Nat} (place : front.length = 118)
    (count : kept.length = k) (small : ∀ e ∈ kept, e.origin < 256)
    (r : ReadsBody bs (front ++ (kept.flatMap KeptEntry.bytes ++ rest))) :
    ((List.range k).map fun i =>
      { origin := byteAt bs (132 + 10 * i), incarnation := wordAt32 bs (134 + 10 * i),
        kept := wordAt32 bs (138 + 10 * i) }) = kept := by
  refine List.ext_getElem (by simp [count]) fun i _ h => ?_
  obtain ⟨more, read⟩ := r.run (n := 10) place (fun _ => rfl) h
  have at0 : 132 + 10 * i = 118 + 10 * i + 0 + 14 := by omega
  have at2 : 134 + 10 * i = 118 + 10 * i + 2 + 14 := by omega
  have at6 : 138 + 10 * i = 118 + 10 * i + 6 + 14 := by omega
  simp only [List.getElem_map, List.getElem_range, at0, at2, at6, (read 0).1, (read 2).2, (read 6).2, KeptEntry.bytes,
    List.append_assoc, byteAt_put8 (small _ (List.getElem_mem h)), wordAt32_skip8, wordAt32_skip32, wordAt32_first]

theorem parseBeacon_of_reads {bs crc : Bytes} {b : BeaconBody} (code : b.stateCode < 256) (grade : b.grade < 256)
    (count : b.items.length = 17) (small : ∀ x ∈ b.items, x.code < 256 ∧ x.origin < 256)
    (length : b.kept.length = b.keptCount) (few : b.keptCount ≤ 16) (origins : ∀ e ∈ b.kept, e.origin < 256)
    (r : ReadsBody bs (beaconBytes b ++ crc)) : parseBeacon bs = b := by
  rw [beaconBytes_eq, List.append_assoc, List.append_assoc] at r
  have items := beaconItems_read rfl count small r
  have place : (b.front ++ b.items.flatMap BeaconItem.bytes).length = 118 := by
    rw [List.length_append, flatMap_size (n := 6) (fun _ => rfl), count]
    rfl
  have kept := kept_read place length origins (by rw [List.append_assoc]; exact r)
  simp only [BeaconBody.front, List.append_assoc] at r
  obtain ⟨air, keep⟩ := testBit_twoFlags b.airRole b.keepRole
  obtain ⟨cut, ref, muted⟩ := testBit_threeFlags b.cut b.refFlag b.mutedPeer
  obtain ⟨base, index, present⟩ := testBit_threeFlags b.base.isSome b.index.isSome b.keptPresent
  have held : byteAt bs 19 = b.keptCount := by
    simp only [r.byte, byteAt_skip8, byteAt_put8 (show b.keptCount < 256 by omega)]
  have presence : byteAt bs 18 = bitIf b.base.isSome 1 + bitIf b.index.isSome 2 + bitIf b.keptPresent 4 := by
    simp only [r.byte, byteAt_skip8, byteAt_put8 (threeFlags_lt _ _ _)]
  have base : (if b.base.isSome = true then some (wordAt32 bs 22) else none) = b.base := by
    rw [r.word32 8]
    simp only [wordAt32_first, wordAt32_skip8, wordAt32_skip16]
    cases b.base <;> rfl
  have index : (if b.index.isSome = true then some (wordAt32 bs 26) else none) = b.index := by
    rw [r.word32 12]
    simp only [wordAt32_skip32, wordAt32_first, wordAt32_skip8, wordAt32_skip16]
    cases b.index <;> rfl
  simp only [parseBeacon, presence, held, items, kept]
  simp only [r.byte, byteAt_skip8, byteAt_put8 code, byteAt_put8 (twoFlags_lt _ _), byteAt_put8 (threeFlags_lt _ _ _),
    byteAt_put8 grade, *]

/-- The check value of the CRC: that of the nine digits as characters. -/
theorem crc32_digits :
    crc32 [0x31, 0x32, 0x33, 0x34, 0x35, 0x36, 0x37, 0x38, 0x39] = 0xCBF43926#32 := by
  decide +kernel

/-- Settles O53: each field is read where its string begins, behind those it skips. -/
theorem framesRoundTrip : Obligations.FramesRoundTrip := by
  refine ⟨crc32_digits, crcGood_withCrc, parseHello_helloBytes, fun _ _ => holdBytes_reads,
    fun k h body origin short => ⟨ringHeader_ringBytes k h body origin, ?_, byteAt_ringLane k h body,
      ringBytes_sizeField short⟩, fun h w v => ⟨?_, ?_, ?_⟩, fun h c item code => ?_,
    fun h a track group grade size => ?_, fun h b floor track damage group short => ?_,
    fun h b code grade count small length few origins => ?_⟩
  · rw [byteAt_ringKind, ringKindOf_code]
  · obtain ⟨crc, r⟩ := ringBytes_reads .start h (put32 w)
    rw [r.word32 0, wordAt32_first]
  · obtain ⟨crc, r⟩ := ringBytes_reads .endFrame h (put32 w ++ put32 v)
    rw [r.word32 0, List.append_assoc, wordAt32_first]
  · obtain ⟨crc, r⟩ := ringBytes_reads .endFrame h (put32 w ++ put32 v)
    rw [r.word32 4, List.append_assoc, wordAt32_skip32 w _ 0, wordAt32_first]
  · obtain ⟨crc, r⟩ := ringBytes_reads .cue h (cueBytes c)
    exact parseCue_of_reads item code r
  · obtain ⟨crc, r⟩ := ringBytes_reads .air h (airBytes a)
    exact parseAir_of_reads track group grade size r
  · obtain ⟨crc, r⟩ := ringBytes_reads .keep h (keepBytes b floor)
    exact parseKeep_of_reads track damage group short r
  · obtain ⟨crc, r⟩ := ringBytes_reads .beacon h (beaconBytes b)
    exact parseBeacon_of_reads code grade count small length few origins r
end Sys2Proof.Machine
end

section
/-! Offers to the lanes read only part of the state; what a footprint leaves makes the state; and what an
origination does. GO (O8), END (O9). -/

namespace Sys2Proof.Machine

/-! ### States from their footprints -/

/-- With the ports alone changed a state is the old one with the new Link Unit. -/
theorem Foot.eq_ports {s t : State} (f : Foot [.ports] s t) : t = { s with lku := t.lku } := by
  have csu := f.csu_eq
  have dlu := f.dlu_eq
  have pending := f.pending (by decide)
  have now := f.now (by decide)
  have tlu := f.tlu (by decide)
  have cfr := f.cfr (by decide)
  have sgc := f.sgc (by decide)
  have rst := f.rst (by decide)
  have pcu := f.pcu (by decide)
  have aou := f.aou (by decide)
  have ksp := f.ksp (by decide)
  have kou := f.kou (by decide)
  cases t
  simp_all only

/-! ### What offers to the lanes read -/

/-- Two states show the Link Unit the same: the ports, the time, and what a HELLO carries. -/
structure State.SameRing (s t : State) : Prop where
  lku : t.lku = s.lku
  now : t.now = s.now
  station : t.tlu.station = s.tlu.station
  config : t.csu.config = s.csu.config

theorem State.SameRing.port {s t : State} (h : s.SameRing t) (p : PortId) : t.port p = s.port p := by
  rw [State.port, State.port, h.lku]

theorem State.SameRing.ownId {s t : State} (h : s.SameRing t) : t.ownId = s.ownId := by
  rw [State.ownId, State.ownId, h.config]

theorem State.SameRing.helloBytes {s t : State} (h : s.SameRing t) (p : PortId) :
    helloBytes t p = helloBytes s p := by
  simp only [Machine.helloBytes, h.port, h.ownId, h.station, h.lku]

theorem State.SameRing.onPort {s t : State} (h : s.SameRing t) (p : PortId) (f : Port → Port) :
    (s.onPort p f).SameRing (t.onPort p f) :=
  ⟨by simp only [State.onPort, State.onLku, h.lku], h.now, h.station, h.config⟩

theorem startLinkLocal_sameRing {s t : State} (h : s.SameRing t) (p : PortId) :
    (startLinkLocal p s).SameRing (startLinkLocal p t) := by
  unfold startLinkLocal
  rw [h.port, h.helloBytes]
  split
  · exact h.onPort _ _
  · exact h.onPort _ _
  · exact h

theorem offerHold_sameRing {s t : State} (h : s.SameRing t) (p : PortId) (n : Nat) :
    (offerHold p n s).SameRing (offerHold p n t) := by
  unfold offerHold
  rw [h.port, h.ownId]
  split
  · split
    · exact h.onPort _ _
    · exact startLinkLocal_sameRing (h.onPort _ _) _
  · exact h

theorem lane2Rose_sameRing {s t : State} (h : s.SameRing t) (p : PortId) :
    (lane2Rose p s).SameRing (lane2Rose p t) := by
  have mark : t.highMark = s.highMark := by rw [State.highMark, State.highMark, h.config]
  have hold : t.holdTime = s.holdTime := by rw [State.holdTime, State.holdTime, h.config]
  have due : t.refreshDue = s.refreshDue := by rw [State.refreshDue, State.refreshDue, h.now, hold]
  unfold lane2Rose startCongestion
  rw [h.port, mark, hold, due]
  split
  · exact offerHold_sameRing (h.onPort _ _) _ _
  · exact h

theorem lane2Fell_sameRing {s t : State} (h : s.SameRing t) (p : PortId) :
    (lane2Fell p s).SameRing (lane2Fell p t) := by
  have mark : t.lowMark = s.lowMark := by rw [State.lowMark, State.lowMark, h.config]
  unfold lane2Fell endCongestion
  rw [h.port, mark]
  split
  · exact offerHold_sameRing (h.onPort _ _) _ _
  · exact h

/-- The stale check reads the current index too (R65). -/
theorem dropStale_sameRing {s t : State} (h : s.SameRing t) (index : t.tlu.currentIndex = s.tlu.currentIndex)
    (p : PortId) : (dropStale p s).SameRing (dropStale p t) := by
  have stale : t.staleFrame = s.staleFrame := by funext f; rw [State.staleFrame, State.staleFrame, index]
  unfold dropStale
  rw [stale]
  exact h.onPort _ _

/-- The arbiter reads the current index only where lane 1 is its choice (R63, R65). -/
theorem kick_sameRing {s t : State} (h : s.SameRing t) (p : PortId)
    (index : (s.port p).queue0 = [] → t.tlu.currentIndex = s.tlu.currentIndex) :
    (kick p s).SameRing (kick p t) := by
  unfold kick
  rw [h.port]
  dsimp only
  split
  · exact h
  · split
    · exact startLinkLocal_sameRing h _
    · exact h.onPort _ _
    case _ _ _ _ empty _ => exact dropStale_sameRing (h.onPort _ _) (index empty) _
    · split
      · exact h
      · exact lane2Fell_sameRing (h.onPort _ _) _
    · exact h

theorem afterJoin_sameRing {s t : State} (h : s.SameRing t) (p : PortId) (lane : Nat)
    (index : lane ≠ 0 → t.tlu.currentIndex = s.tlu.currentIndex) :
    (afterJoin p lane s).SameRing (afterJoin p lane t) := by
  unfold afterJoin
  split
  · exact h
  · rw [h.port]
    split
    · exact dropStale_sameRing h (index (by decide)) _
    · exact h
  · exact lane2Rose_sameRing h _

/-- An offer to a lane reads the current index only where the lane is not lane 0 (R61, R63, R65). -/
theorem offerFrame_sameRing {s t : State} (h : s.SameRing t) (p : PortId) (lane : Nat) (f : Bytes)
    (index : lane ≠ 0 → t.tlu.currentIndex = s.tlu.currentIndex) :
    (offerFrame p lane f s).SameRing (offerFrame p lane f t) := by
  unfold offerFrame
  rw [h.port]
  split
  · exact h
  · exact h.onPort _ _
  · refine kick_sameRing (afterJoin_sameRing (h.onPort _ _) _ _ index) _ fun empty => ?_
    have t1 := (afterJoin_foot p lane (s.onPort p fun x => x.join lane f)).tlu (by decide)
    have t2 := (afterJoin_foot p lane (t.onPort p fun x => x.join lane f)).tlu (by decide)
    rw [t1, t2]
    refine index fun zero => ?_
    subst zero
    simp [afterJoin, Port.join] at empty

/-! ### Origination (R77) -/

/-- The state once a frame has been issued: offered to its lane on both ports, numbered and counted. -/
def State.issuing (k : RingKind) (frame : Bytes) (s : State) : State :=
  { s with
    lku := (offerFrame .b k.lane frame (offerFrame .a k.lane frame s)).lku
    dlu := { s.dlu with
      nextSeq := s.dlu.nextSeq + 1
      counts := { s.dlu.counts with
        originated := up s.dlu.counts.originated
        origUnsent := upIf ((s.port .a).offer k.lane != .queued && (s.port .b).offer k.lane != .queued)
          s.dlu.counts.origUnsent } } }

theorem Offer.not_isQueued (o : Offer) : (!o.isQueued) = (o != .queued) := by cases o <;> rfl

/-- Offers to both ports, once other blocks have changed that a transmitter does not read. -/
theorem offers_sameRing {s t : State} (h : s.SameRing t) (lane : Nat) (f : Bytes)
    (index : lane ≠ 0 → t.tlu.currentIndex = s.tlu.currentIndex) :
    (offerFrame .b lane f (offerFrame .a lane f s)).SameRing (offerFrame .b lane f (offerFrame .a lane f t)) :=
  offerFrame_sameRing (offerFrame_sameRing h .a lane f index) .b lane f fun n => by
    rw [(offerFrame_foot _ _ _ _).tlu (by decide), (offerFrame_foot _ _ _ _).tlu (by decide), index n]

theorem offers_foot (lane : Nat) (f : Bytes) (s : State) :
    Foot [.ports] s (offerFrame .b lane f (offerFrame .a lane f s)) :=
  (offerFrame_foot .a lane f s).seq (offerFrame_foot .b lane f _)

/-- An origination that is not declined: the frame is issued, then delivered here (R76, R77). -/
theorem originate_speaking {s : State} (speaks : s.dlu.muted = none) (k : RingKind) (body : Bytes) :
    originate k body s = deliver k true (ringBytes k s.nextHeader body)
      (s.issuing k (ringBytes k s.nextHeader body)) := by
  have open_ : ¬ s.muted = true := by simp [State.muted, speaks]
  rw [originate, if_neg open_, originateFrame]
  generalize ringBytes k s.nextHeader body = frame
  simp only [Offer.not_isQueued]
  refine congrArg (deliver k true frame) ((offers_foot k.lane frame _).eq_ports.trans ?_)
  have same := offers_sameRing (s := s) (t := s.onDlu fun d => { d with
    nextSeq := d.nextSeq + 1
    counts := { d.counts with
      originated := up d.counts.originated
      origUnsent := upIf ((s.port .a).offer k.lane != .queued && (s.port .b).offer k.lane != .queued)
        d.counts.origUnsent } }) ⟨rfl, rfl, rfl, rfl⟩ k.lane frame fun _ => rfl
  rw [same.lku]
  rfl

theorem nextHeader_eq {s : State} {c : Configuration} {inc : Word} (loaded : s.csu.config = some c)
    (incarnation : s.tlu.incarnation = some inc) :
    s.nextHeader = { origin := c.station, incarnation := inc, sequence := s.dlu.nextSeq } := by
  rw [State.nextHeader, State.ownId, loaded, incarnation]
  rfl

/-! ### GO (R10) -/

/-- A START read back: its base and origin. -/
theorem deliver_start (own : Bool) (h : RingHeader) (base : Word) (s : State) (origin : h.origin < 256) :
    deliver .start own (ringBytes .start h (put32 base)) s =
      startTaken base h.origin (s.countDlu RingKind.start.countDelivered) := by
  have read : wordAt32 (ringBytes .start h (put32 base)) 14 = base := by
    obtain ⟨crc, r⟩ := ringBytes_reads .start h (put32 base)
    rw [r.word32 0, wordAt32_first]
  simp only [deliver, State.delivers, if_true, toBlock, ringHeader_ringBytes .start h _ origin, read]

/-- The index of a count against a base that lies ahead of it by at most 500 is below 0. -/
theorem lead_negative (n : Word) {lead : Nat} (low : 10 ≤ lead) (top : lead ≤ 500) :
    (n - (n + BitVec.ofNat 32 lead)).toInt < 0 := by
  have e : n - (n + BitVec.ofNat 32 lead) = -BitVec.ofNat 32 lead := by bv_omega
  have value : (BitVec.ofNat 32 lead).toInt = lead := by
    rw [BitVec.toInt_eq_toNat_of_lt] <;> simp <;> omega
  rw [e, BitVec.toInt_neg, value, Int.bmod_eq_of_le] <;> omega

/-- A START of an epoch already held, or of a source not below it, before index 0 is reached (Table 1-6). -/
theorem startTaken_ignored {s : State} {e : Epoch} {base : Word} {origin : Nat} (station : s.tlu.station = .armed)
    (epoch : s.tlu.epoch = some e) (before : s.tlu.beforeStart = true) (source : ¬ origin < e.source) :
    startTaken base origin s = ignoreStart s := by
  simp only [startTaken, station, epoch, before, if_true, if_neg source]

/-- Settles O8: GO adopts its base, issues START, and the own START is ignored (log 16). -/
theorem goTaken : Obligations.GoTaken := by
  intro s c n inc taken loaded own lead speaks station fresh ref count incarnation base frame
  have granted : refuseGo s = none := by
    simp [refuseGo, State.muted, speaks, station, fresh, State.refLocked, ref]
  have goes : s.taken.goBase = base := by
    change s.tlu.houseCount.getD 0 + BitVec.ofNat 32 ((s.csu.config.map (·.lead)).getD 0) = base
    rw [count, loaded]
    rfl
  have self : s.taken.ownId = c.station := by
    change (s.csu.config.map (·.station)).getD 0 = c.station
    rw [loaded]
    rfl
  let u := adoptEpoch base c.station s.taken
  have issues : originate .start (put32 base) u = ignoreStart ((u.issuing .start frame).countDlu
      RingKind.start.countDelivered) := by
    rw [originate_speaking (s := u) speaks, nextHeader_eq (s := u) loaded incarnation, deliver_start]
    · have before : u.tlu.beforeStart = true := by
        have index : u.tlu.currentIndex = some (n - base) := by
          simp only [Tlu.currentIndex, u, adoptEpoch, State.onTlu]
          rw [show s.taken.tlu.houseCount = some n from count]
        rw [Tlu.beforeStart, index]
        exact decide_eq_true (lead_negative n lead.1 lead.2)
      exact startTaken_ignored station rfl before (Nat.lt_irrefl _)
    · show c.station < 256
      omega
  have ports : (offerFrame .b 0 frame (offerFrame .a 0 frame u)).lku =
      (offerFrame .b 0 frame (offerFrame .a 0 frame s)).lku :=
    (offers_sameRing (s := s) (t := u) ⟨rfl, rfl, rfl, rfl⟩ 0 frame fun n => absurd rfl n).lku
  have runs : goEffect s.taken = (ignoreStart ((u.issuing .start frame).countDlu
      RingKind.start.countDelivered)).replied .ok := by
    rw [← issues, goEffect, answerOk, goes, self]
    rfl
  exact ⟨_, commandRow_answers taken granted runs, rfl, rfl, rfl, speaks, rfl, ports, rfl, rfl, rfl, rfl, rfl, rfl, rfl,
    rfl, rfl⟩

/-! ### END (R14) -/

/-- An END frame read back: its base, its last index and its origin. -/
theorem deliver_endFrame (own : Bool) (h : RingHeader) (base last : Word) (s : State) :
    deliver .endFrame own (ringBytes .endFrame h (put32 base ++ put32 last)) s =
      endTaken base last (s.countDlu RingKind.endFrame.countDelivered) := by
  obtain ⟨crc, r⟩ := ringBytes_reads .endFrame h (put32 base ++ put32 last)
  rw [List.append_assoc] at r
  have base' : wordAt32 (ringBytes .endFrame h (put32 base ++ put32 last)) 14 = base := by
    rw [r.word32 0, wordAt32_first]
  have last' : wordAt32 (ringBytes .endFrame h (put32 base ++ put32 last)) 18 = last := by
    rw [r.word32 4, wordAt32_skip32 base _ 0, wordAt32_first]
  simp only [deliver, State.delivers, if_true, toBlock, base', last']

/-- An END frame of the epoch held, in ENDING, takes the lesser last index, not below the current one (R15). -/
theorem endTaken_ending {s : State} {e : Epoch} {last l : Index} (station : s.tlu.station = .ending)
    (epoch : s.tlu.epoch = some e) (held : s.tlu.last = some l) :
    endTaken e.base last s = s.onTlu fun t => { t with last := some (t.notBelowCurrent (indexMin l last)) } := by
  simp only [endTaken, station, epoch, if_true, State.onTlu, held, Option.map_some, Option.getD_some]

theorem indexMin_self (l : Index) : indexMin l l = l := ite_self _

theorem Tlu.notBelowCurrent_of_le {t : Tlu} {n l : Index} (index : t.curIndex = some n)
    (above : n.toInt ≤ l.toInt) : t.notBelowCurrent l = l := by
  have stays : indexLt l n = false := by
    rw [indexLt, decide_eq_false_iff_not]
    omega
  simp only [Tlu.notBelowCurrent, index, indexMax, stays]
  rfl

/-- The own END frame leaves a last index that is the one it names, and not below the current one. -/
theorem endTaken_own {s : State} {e : Epoch} {n l : Index} (station : s.tlu.station = .ending)
    (epoch : s.tlu.epoch = some e) (held : s.tlu.last = some l) (index : s.tlu.curIndex = some n)
    (above : n.toInt ≤ l.toInt) : endTaken e.base l s = s := by
  rw [endTaken_ending station epoch held, indexMin_self]
  simp only [State.onTlu, Tlu.notBelowCurrent_of_le index above, ← held]

/-- Two more of an index below the top of its range is greater. -/
theorem toInt_add_two {n : Index} (top : n.toInt + 2 < 2 ^ 31) : (n + 2).toInt = n.toInt + 2 := by
  have low := BitVec.le_toInt n
  have two : (2 : Index).toInt = 2 := by decide
  rw [BitVec.toInt_add, two, Int.bmod_eq_of_le] <;> omega

/-- In ENDING nothing but DONE changes the Timeline Unit and the capture front at the end of an event; before
the last batch is coded, with the drain timer running, DONE is not entered (R16). -/
theorem settle_unfinished {s : State} (timer : s.tlu.endTimer ≠ .expired) (coded : s.tlu.codedIndex ≠ s.tlu.last) :
    (settle s).tlu = s.tlu ∧ (settle s).cfr = s.cfr := by
  have drained := drain_foot s
  have reported := reportFinished_foot (drain s)
  have tlu : (reportFinished (drain s)).tlu = s.tlu := by
    rw [reported.tlu (by decide), drained.tlu (by decide)]
  have waits : ¬ (reportFinished (drain s)).spoolDone = true := by
    simp [State.spoolDone, tlu, timer, coded]
  rw [settle, testDone, if_neg fun d => waits d.2.2, tlu, reported.cfr (by decide), drained.cfr (by decide)]
  exact ⟨rfl, rfl⟩

end Sys2Proof.Machine

namespace Sys2Proof

open Machine

/-- Settles O9: END enters ENDING, issues an END frame that leaves L, and ends with the tests of an event. -/
theorem endTaken : Obligations.EndTaken := by
  intro s c n e inc taken loaded own speaks station epoch index incarnation top v frame u
  have granted : refuseEnd s = none := by simp [refuseEnd, State.muted, speaks, station]
  have enters : enterEnding s.taken.endIndex s.taken = { v with csu := s.taken.csu } := by
    have due : s.taken.drainDue = s.now + 1000000000 * c.drainEnd := by
      change s.now + seconds ((s.csu.config.map (·.drainEnd)).getD 0) = _
      rw [loaded, Option.map_some, Option.getD_some, seconds, Nat.mul_comm]
    have last : s.taken.endIndex = n + 2 := by
      change s.tlu.curIndex.getD 0 + 2 = _
      rw [index]
      rfl
    rw [enterEnding, due, last]
    rfl
  let w : State := { v with csu := s.taken.csu }
  have ports : (offerFrame .b 0 frame (offerFrame .a 0 frame w)).lku =
      (offerFrame .b 0 frame (offerFrame .a 0 frame v)).lku :=
    (offers_sameRing (s := v) (t := w) ⟨rfl, rfl, rfl, rfl⟩ 0 frame fun _ => rfl).lku
  have issued : (w.issuing .endFrame frame).countDlu RingKind.endFrame.countDelivered = u :=
    congrArg (fun k : Lku => { u with lku := k }) ports
  have issues : originate .endFrame (put32 e.base ++ put32 (n + 2)) w = u := by
    rw [originate_speaking (s := w) speaks, nextHeader_eq (s := w) loaded incarnation, deliver_endFrame]
    have above : n.toInt ≤ (n + 2).toInt := by
      rw [toInt_add_two top]
      omega
    exact (endTaken_own (s := (w.issuing .endFrame frame).countDlu RingKind.endFrame.countDelivered) rfl epoch rfl
      index above).trans issued
  have runs : endEffect s.taken = (settle u).replied .ok := by
    have base : ((s.taken.tlu.epoch.map (·.base)).getD 0) = e.base := by
      change ((s.tlu.epoch.map (·.base)).getD 0) = e.base
      rw [epoch]
      rfl
    have last : s.taken.endIndex = n + 2 := by
      change s.tlu.curIndex.getD 0 + 2 = _
      rw [index]
      rfl
    rw [← issues, endEffect, answerOk, base, enters, last]
    rfl
  exact ⟨commandRow_answers taken granted runs, fun coded => settle_unfinished (s := u) nofun coded⟩

end Sys2Proof
end

section
/-! CUE (O10), CUT and UNCUT (O11). -/

namespace Sys2Proof.Machine

/-! ### What the roster reads -/

/-- Two states show the roster the same: its entries and counters, and the configuration. -/
structure State.SameRoster (s t : State) : Prop where
  rst : t.rst = s.rst
  config : t.csu.config = s.csu.config

theorem State.SameRoster.onRst {s t : State} (h : s.SameRoster t) (f : Rst → Rst) :
    (s.onRst f).SameRoster (t.onRst f) :=
  ⟨by simp only [State.onRst, h.rst], h.config⟩

theorem State.SameRoster.violate {s t : State} (h : s.SameRoster t) (v : Violation) (track station : Nat) :
    (violate v track station s).SameRoster (violate v track station t) :=
  ⟨(h.onRst fun r => { r with counts := v.count r.counts }).rst, h.config⟩

theorem State.SameRoster.ownId {s t : State} (h : s.SameRoster t) : t.ownId = s.ownId := by
  rw [State.ownId, State.ownId, h.config]

theorem makeLocal_sameRoster {s t : State} (h : s.SameRoster t) (e : PatchEntry) :
    (makeLocal e s).SameRoster (makeLocal e t) := by
  unfold makeLocal
  rw [h.rst, h.ownId]
  dsimp only
  split
  · split
    · exact h.violate _ _ _
    · exact h.onRst _
  · exact h
  · exact (h.onRst _).violate _ _ _
  · exact h.violate _ _ _
  · exact h.violate _ _ _

theorem makeLocals_sameRoster {s t : State} (h : s.SameRoster t) (es : List (Nat × PatchEntry)) :
    (makeLocals es s).SameRoster (makeLocals es t) := by
  induction es generalizing s t with
  | nil => exact h
  | cons p rest ih => exact ih (makeLocal_sameRoster h p.2)

/-- What a cue does to the roster reads the station state, the configuration and the roster (R103, R104). -/
theorem rosterCue_sameRoster {s t : State} (h : s.SameRoster t) (station : t.tlu.station = s.tlu.station) (i : Nat)
    (v : CueValue) : (rosterCue i v s).SameRoster (rosterCue i v t) := by
  have onward : t.armedOnward = s.armedOnward := by rw [State.armedOnward, State.armedOnward, station]
  have patched : t.patched = s.patched := by simp only [State.patched, State.patchOf, h.config]
  unfold rosterCue
  rw [onward, patched]
  split
  · exact h
  · split
    · exact makeLocals_sameRoster h _
    · exact h.onRst _

/-! ### Cue values (R116, Table 11-6) -/

/-- A value that a CUE command gives its item is one of the item's values. -/
theorem cueOfCode_cueCode {i : Nat} {w : CueWord} {v : CueValue} (valid : cueCommandValue i w = some v) :
    cueOfCode i (cueCode i v) = some v := by
  unfold cueCommandValue at valid
  split at valid
  case isTrue group =>
    have other : i ≠ 16 := by omega
    rw [cueOfCode, if_pos group, cueCode, if_neg other]
    cases w <;> cases valid <;> rfl
  case isFalse group =>
    split at valid
    case isTrue freeze =>
      rw [cueOfCode, if_neg group, if_pos freeze, cueCode, if_pos freeze]
      cases w <;> cases valid <;> rfl
    case isFalse => exact nomatch valid

theorem item_le_of_value {i : Nat} {w : CueWord} {v : CueValue} (valid : cueCommandValue i w = some v) : i ≤ 16 := by
  unfold cueCommandValue at valid
  split at valid
  case isTrue group => omega
  case isFalse =>
    split at valid
    case isTrue freeze => omega
    case isFalse => exact nomatch valid

theorem cueCode_lt (i : Nat) (v : CueValue) : cueCode i v < 256 := by
  unfold cueCode
  split
  · split <;> decide
  · cases v <;> decide

/-- The code of a value an item may have, written out. -/
theorem cueCode_eq {i : Nat} {w : CueWord} {v : CueValue} : cueCommandValue i w = some v →
    cueCode i v = match v with
      | .dark | .off => 0
      | .primed => 1
      | .on => if i = 16 then 1 else 2 := by
  intro valid
  unfold cueCommandValue at valid
  split at valid
  case isTrue group =>
    have other : i ≠ 16 := by omega
    rw [cueCode, if_neg other, if_neg other]
    cases w <;> cases valid <;> rfl
  case isFalse group =>
    split at valid
    case isTrue freeze =>
      rw [cueCode, if_pos freeze, if_pos freeze]
      cases w <;> cases valid <;> rfl
    case isFalse => exact nomatch valid

/-! ### The apply rule (R114) -/

/-- A cue of a newer number than its item's is applied. -/
theorem Pcu.applies_of_newer {u : Pcu} {c : Cue} {items : List CueItem} {x : CueItem} (cues : u.cues = some items)
    (item : items[c.item]? = some x) (newer_ : newer c.number x.number = true) : u.applies c = true := by
  simp only [Pcu.applies, Pcu.item, cues, Option.bind_some, item, Option.map_some, Option.getD_some, pairGreater,
    newer_, Bool.true_or]

theorem newer_succ (n : Word) : newer (n + 1) n = true := by
  rw [newer_iff, show n + 1 - n = 1 by bv_omega]
  decide

/-- The Peer and Cue Unit once a cue of a CUE frame has been applied to an item. -/
def Pcu.withCue (i : Nat) (x : CueItem) (items : List CueItem) (u : Pcu) : Pcu :=
  { u with
    cues := some (items.set i x)
    clock := x.number
    counts := { u.counts with cueApplied := up u.counts.cueApplied } }

/-- A cue that is applied, with its effect on the table, the clock and the counters (R114, R117). -/
theorem cueTaken_applied {s : State} {origin : Nat} {b : CueBody} {v : CueValue} {items : List CueItem}
    (valid : cueOfCode b.item b.code = some v) (cues : s.pcu.cues = some items)
    (applies : s.pcu.applies { item := b.item, value := v, number := b.number, origin := origin } = true)
    (ahead : newer b.number s.pcu.clock = true) :
    cueTaken origin b s = rosterCue b.item v
      (s.onPcu (Pcu.withCue b.item { value := v, number := b.number, origin := origin } items)) := by
  have applies' : ∀ f : Pcu → PcuCounts, (s.onPcu fun u => { u with counts := f u }).pcu.applies
      { item := b.item, value := v, number := b.number, origin := origin } = true := fun _ => applies
  simp only [cueTaken, valid, applyCue, applies', if_true]
  refine congrArg (rosterCue b.item v) ?_
  simp only [State.onPcu, Pcu.withCue, Pcu.setItem, Pcu.advance, applies, ahead, if_true, cues, Option.map_some]

/-- A CUE frame read back. -/
theorem deliver_cue (own : Bool) (h : RingHeader) (b : CueBody) (s : State) (origin : h.origin < 256)
    (item : b.item < 256) (code : b.code < 256) : deliver .cue own (ringBytes .cue h (cueBytes b)) s =
      cueTaken h.origin b (s.countDlu RingKind.cue.countDelivered) := by
  obtain ⟨crc, r⟩ := ringBytes_reads .cue h (cueBytes b)
  simp only [deliver, State.delivers, if_true, toBlock, ringHeader_ringBytes .cue h _ origin,
    parseCue_of_reads item code r]

theorem taken_foot (s : State) : Foot [.console] s s.taken :=
  State.onCsu_foot_quiet (fun u => { u with
    silent := false
    tx := dropReplies u.tx
    counts := { u.counts with cmdTaken := up u.counts.cmdTaken } }) s ⟨rfl, rfl⟩

/-- Settles O10: the CUE frame issued is taken here under a newer pair, so that its cue is applied. -/
theorem cueCommandTaken : Obligations.CueCommandTaken := by
  intro s i w v items x c inc taken loaded own incarnation speaks onward valid cues item newest code frame
  have granted : refuseCue i w s = none := by simp [refuseCue, State.muted, speaks, onward, valid]
  have coded : cueCode i v = code := cueCode_eq valid
  have few := item_le_of_value valid
  let b : CueBody := { item := i, code := code, number := s.pcu.clock + 1 }
  let u := (s.taken.issuing .cue frame).countDlu RingKind.cue.countDelivered
  let cued := u.onPcu (Pcu.withCue i { value := v, number := s.pcu.clock + 1, origin := c.station } items)
  have issues : originate .cue (cueBytes b) s.taken = rosterCue i v cued := by
    rw [originate_speaking (s := s.taken) speaks, nextHeader_eq (s := s.taken) loaded incarnation, deliver_cue]
    · refine cueTaken_applied (s := u) (b := b) ?_ cues (Pcu.applies_of_newer cues item newest) (newer_succ _)
      show cueOfCode i code = some v
      rw [← coded, cueOfCode_cueCode valid]
    · show c.station < 256
      omega
    · show i < 256
      omega
    · show code < 256
      rw [← coded]
      exact cueCode_lt i v
  have runs : cueEffect i w s.taken = (rosterCue i v cued).replied .ok := by
    rw [← issues, cueEffect, answerOk, valid, Option.getD_some, coded]
    rfl
  have ports : (offerFrame .b 0 frame (offerFrame .a 0 frame s.taken)).lku =
      (offerFrame .b 0 frame (offerFrame .a 0 frame s)).lku :=
    (offers_sameRing (s := s) (t := s.taken) ⟨rfl, rfl, rfl, rfl⟩ 0 frame fun _ => rfl).lku
  have roster := (rosterCue_sameRoster (s := s) (t := cued) ⟨rfl, rfl⟩ rfl i v).rst
  have foot := rosterCue_foot i v cued
  have pcu : (cueEffect i w s.taken).pcu = cued.pcu := (congrArg State.pcu runs).trans (foot.pcu (by decide))
  have dlu : (cueEffect i w s.taken).dlu = cued.dlu := (congrArg State.dlu runs).trans foot.dlu_eq
  have tx : ((rosterCue i v cued).replied .ok).csu.tx = s.taken.csu.tx ++ [.reply .ok 4] :=
    (congrArg (fun u : Csu => u.tx ++ [TxItem.reply .ok 4]) (foot.console (by decide)) :)
  have whole := (taken_foot s).andThen (cueEffect_foot i w s.taken)
    (c := [.ports, .dlu, .pcu, .rst, .attn, .console])
  refine ⟨cueEffect i w s.taken, commandRow_answers taken granted rfl, ?_, ?_, ?_, ?_, ?_, ?_,
    (whole.muted (by decide)).trans speaks, ?_, ?_, ?_, (congrArg State.rst runs).trans roster,
    (congrArg (fun t => t.csu.tx) runs).trans tx, ?_, whole.tlu (by decide), whole.cfr (by decide), whole.sgc (by decide),
    whole.aou (by decide), whole.ksp (by decide), whole.kou (by decide)⟩
  · exact (congrArg Pcu.cues pcu :)
  · exact (congrArg Pcu.clock pcu :)
  · exact (congrArg Pcu.counts pcu :)
  · exact (congrArg Pcu.peers pcu :)
  · exact (congrArg Dlu.nextSeq dlu :)
  · exact (congrArg Dlu.filter dlu :)
  · exact (congrArg (fun d => d.counts.originated) dlu :)
  · exact (congrArg (fun d => d.counts.deliveredCue) dlu :)
  · exact (congrArg State.lku runs).trans ((foot.lku (by decide) (by decide)).trans ports)
  · rw [runs]
    exact foot.config (by decide)

end Sys2Proof.Machine
end

section
/-! Saturating counters; the emission of slots and the program feed line; CUT and UNCUT (O11). -/

namespace Sys2Proof.Machine

/-! ### What a reply leaves (R172) -/

@[simp] theorem State.replied_pending (r : Reply) (s : State) : (s.replied r).pending = s.pending := rfl

@[simp] theorem State.replied_now (r : Reply) (s : State) : (s.replied r).now = s.now := rfl

@[simp] theorem State.replied_tlu (r : Reply) (s : State) : (s.replied r).tlu = s.tlu := rfl

@[simp] theorem State.replied_cfr (r : Reply) (s : State) : (s.replied r).cfr = s.cfr := rfl

@[simp] theorem State.replied_sgc (r : Reply) (s : State) : (s.replied r).sgc = s.sgc := rfl

@[simp] theorem State.replied_lku (r : Reply) (s : State) : (s.replied r).lku = s.lku := rfl

@[simp] theorem State.replied_dlu (r : Reply) (s : State) : (s.replied r).dlu = s.dlu := rfl

@[simp] theorem State.replied_rst (r : Reply) (s : State) : (s.replied r).rst = s.rst := rfl

@[simp] theorem State.replied_pcu (r : Reply) (s : State) : (s.replied r).pcu = s.pcu := rfl

@[simp] theorem State.replied_aou (r : Reply) (s : State) : (s.replied r).aou = s.aou := rfl

@[simp] theorem State.replied_ksp (r : Reply) (s : State) : (s.replied r).ksp = s.ksp := rfl

@[simp] theorem State.replied_kou (r : Reply) (s : State) : (s.replied r).kou = s.kou := rfl

@[simp] theorem State.replied_csu (r : Reply) (s : State) :
    (s.replied r).csu = { s.csu with tx := s.csu.tx ++ [.reply r r.length] } := rfl

/-! ### Saturating counters (R183) -/

theorem up_toNat (c : Counter) : (up c).toNat = min (c.toNat + 1) (2 ^ 32 - 1) := by
  have range := c.isLt
  unfold up
  split
  case isTrue full => simp [full]
  case isFalse more =>
    have below : c.toNat ≠ 2 ^ 32 - 1 := fun e => more (BitVec.eq_of_toNat_eq (by simpa using e))
    rw [BitVec.toNat_add, show BitVec.toNat (1 : Counter) = 1 from rfl]
    omega

theorem upBy_toNat (c : Counter) (n : Nat) : (upBy c n).toNat = min (c.toNat + n) (2 ^ 32 - 1) := by
  have range := c.isLt
  unfold upBy
  split
  case isTrue fits =>
    rw [BitVec.toNat_add, BitVec.toNat_ofNat]
    omega
  case isFalse beyond =>
    rw [BitVec.toNat_allOnes]
    omega

theorem upBy_zero (c : Counter) : upBy c 0 = c := by
  have range := c.isLt
  refine BitVec.eq_of_toNat_eq ?_
  rw [upBy_toNat]
  omega

theorem upBy_up (c : Counter) (n : Nat) : upBy (up c) n = upBy c (n + 1) := by
  have range := c.isLt
  refine BitVec.eq_of_toNat_eq ?_
  rw [upBy_toNat, upBy_toNat, up_toNat]
  omega

theorem upBy_upBy (c : Counter) (m n : Nat) : upBy (upBy c m) n = upBy c (m + n) := by
  have range := c.isLt
  refine BitVec.eq_of_toNat_eq ?_
  rw [upBy_toNat, upBy_toNat, upBy_toNat]
  omega

theorem upBy_one (c : Counter) : upBy c 1 = up c := by
  refine BitVec.eq_of_toNat_eq ?_
  rw [upBy_toNat, up_toNat]

/-! ### The feed line (R138) -/

theorem startRecord_records {α : Type} (bs : List (LineBuffer α)) :
    (startRecord bs).map LineBuffer.record = bs.map LineBuffer.record := by
  cases bs with
  | nil => rfl
  | cons b rest =>
    rw [startRecord]
    split <;> rfl

theorem placeRecord_records {α : Type} (r : α) (bs : List (LineBuffer α)) :
    (placeRecord r bs).map LineBuffer.record = bs.map LineBuffer.record ++ [r] := by
  rw [placeRecord, List.map_append]
  rfl

theorem startRecord_of_sending {α : Type} {bs : List (LineBuffer α)} (h : ∀ b ∈ bs, b.sending = true) :
    startRecord bs = bs := by
  cases bs with
  | nil => rfl
  | cons b rest =>
    have busy : (b :: rest).any (fun x => x.sending) = true := by simp [h b]
    rw [startRecord, if_pos busy]

/-- A start changes nothing but which record is SENDING. -/
theorem startFeed_eq (s : State) : startFeed s = s.onAou fun u => { u with
    feed := if u.driven && u.ready then startRecord u.feed else u.feed } := by
  unfold startFeed
  split
  case isTrue h => simp only [State.onAou, h, if_true]
  case isFalse h => simp only [State.onAou, h, Bool.false_eq_true, if_false]

theorem startFeed_records (s : State) :
    (startFeed s).aou.feed.map LineBuffer.record = s.aou.feed.map LineBuffer.record := by
  rw [startFeed_eq]
  simp only [State.onAou]
  split
  · exact startRecord_records _
  · rfl

/-! ### Emission (R134, R143) -/

/-- No CLOSED slot stands at the head of the window. -/
def headOpen (w : List Slot) : Prop := ∀ y ys, w = y :: ys → ∃ d, y.state = .opened d

theorem drainWindow_waits {s : State} (h : headOpen s.aou.window) (k : Nat) : drainWindow k s = s := by
  cases k with
  | zero => rfl
  | succ k =>
    unfold drainWindow
    split
    · rfl
    next x rest window =>
      obtain ⟨d, opened⟩ := h x rest window
      simp only [opened]

theorem drainWindow_full {s : State} (sounds : s.cutSilent = false) (full : 2 ≤ s.aou.feed.length) (k : Nat) :
    drainWindow k s = s := by
  cases k with
  | zero => rfl
  | succ k =>
    unfold drainWindow
    split
    · rfl
    · split
      · rfl
      · simp only [sounds, Bool.false_eq_true, if_false, if_neg (show ¬ s.aou.feed.length < 2 by omega)]

theorem drainWindow_emits {s : State} {x : Slot} {cause : CloseCause} {rest : List Slot}
    (window : s.aou.window = x :: rest) (closed : x.state = .closed cause) (sounds : s.cutSilent = false)
    (free : s.aou.feed.length < 2) (k : Nat) :
    drainWindow (k + 1) s = drainWindow k (emitSlot x cause rest s) := by
  rw [drainWindow]
  simp only [window, closed, sounds, Bool.false_eq_true, if_false, free, if_true]

theorem drainWindow_removes {s : State} {x : Slot} {cause : CloseCause} {rest : List Slot}
    (window : s.aou.window = x :: rest) (closed : x.state = .closed cause) (silent : s.cutSilent = true) (k : Nat) :
    drainWindow (k + 1) s = drainWindow k (removeSlot rest s) := by
  rw [drainWindow]
  simp only [window, closed, silent, if_true]

theorem Slot.isOpen_of_opened {x : Slot} {d : Time} (h : x.state = .opened d) : x.isOpen = true := by
  rw [Slot.isOpen, h]

theorem Slot.isOpen_of_closed {x : Slot} {k : CloseCause} (h : x.state = .closed k) : x.isOpen = false := by
  rw [Slot.isOpen, h]

/-- Under a STOP or FLOAT cut every CLOSED slot before the first OPEN one leaves unsent, counted (R143). -/
theorem drainWindow_silent {k : Nat} {s : State} (silent : s.cutSilent = true) (enough : s.aou.window.length ≤ k) :
    drainWindow k s = s.onAou fun u => { u with
      window := u.window.dropWhile fun x => !x.isOpen
      counts := { u.counts with
        slotCut := upBy u.counts.slotCut (u.window.length - (u.window.dropWhile fun x => !x.isOpen).length) } } := by
  induction k generalizing s with
  | zero =>
    have empty : s.aou.window = [] := List.length_eq_zero_iff.1 (Nat.le_zero.1 enough)
    simp only [drainWindow, State.onAou, empty, List.dropWhile_nil, Nat.sub_self, upBy_zero]
    rw [← empty]
  | succ k ih =>
    match window : s.aou.window with
    | [] =>
      rw [drainWindow_waits (by rw [window]; exact fun _ _ => nofun)]
      simp only [State.onAou, window, List.dropWhile_nil, Nat.sub_self, upBy_zero]
      rw [← window]
    | x :: rest =>
      match state : x.state with
      | .opened d =>
        have head := Slot.isOpen_of_opened state
        rw [drainWindow_waits (by rw [window]; rintro _ _ ⟨⟩; exact ⟨d, state⟩)]
        simp only [State.onAou, window, List.dropWhile_cons, head, Bool.not_true, Bool.false_eq_true, if_false,
          Nat.sub_self, upBy_zero]
        rw [← window]
      | .closed cause =>
        have head := Slot.isOpen_of_closed state
        have less : rest.length ≤ k := by
          rw [window, List.length_cons] at enough
          omega
        have shorter := (List.dropWhile_sublist (fun x : Slot => !x.isOpen) (l := rest)).length_le
        rw [drainWindow_removes window state silent, ih (s := removeSlot rest s) silent less]
        simp only [removeSlot, State.onAou, window, List.dropWhile_cons, head, Bool.not_false, if_true,
          List.length_cons, upBy_up]
        rw [Nat.succ_sub shorter]

/-- While slots are emitted: the driver, the discards and the cut slots stay, and records follow those there. -/
structure Aou.Emits (u v : Aou) : Prop where
  driven : v.driven = u.driven
  discarded : v.counts.recDiscarded = u.counts.recDiscarded
  slotCut : v.counts.slotCut = u.counts.slotCut
  records : u.feed.map LineBuffer.record <+: v.feed.map LineBuffer.record

theorem Aou.Emits.refl (u : Aou) : u.Emits u := ⟨rfl, rfl, rfl, List.prefix_refl _⟩

theorem Aou.Emits.trans {u v w : Aou} (h : u.Emits v) (k : v.Emits w) : u.Emits w :=
  ⟨k.driven.trans h.driven, k.discarded.trans h.discarded, k.slotCut.trans h.slotCut, h.records.trans k.records⟩

theorem emitSlot_emits (t : Slot) (cause : CloseCause) (rest : List Slot) (s : State) :
    s.aou.Emits (emitSlot t cause rest s).aou :=
  ⟨rfl, rfl, rfl, by
    show _ <+: (placeRecord _ _).map LineBuffer.record
    rw [placeRecord_records]
    exact List.prefix_append _ _⟩

theorem drainWindow_emitted {s : State} (sounds : s.cutSilent = false) (k : Nat) :
    s.aou.Emits (drainWindow k s).aou := by
  induction k generalizing s with
  | zero => exact .refl _
  | succ k ih =>
    unfold drainWindow
    split
    · exact .refl _
    · split
      · exact .refl _
      · simp only [sounds, Bool.false_eq_true, if_false]
        split
        · exact (emitSlot_emits _ _ _ _).trans (ih sounds)
        · exact .refl _

theorem startFeed_emits (s : State) : s.aou.Emits (startFeed s).aou := by
  refine ⟨?_, ?_, ?_, (startFeed_records s).symm ▸ List.prefix_refl _⟩ <;> rw [startFeed_eq] <;> rfl

theorem feedSettle_emits {s : State} (sounds : s.cutSilent = false) : s.aou.Emits (feedSettle s).aou :=
  (drainWindow_emitted sounds _).trans (startFeed_emits _)

/-- Under a cut no emission touches the conceal store (R136, R143). -/
theorem drainWindow_conceal {s : State} (cut : s.isCut = true) (k : Nat) :
    (drainWindow k s).aou.conceal = s.aou.conceal := by
  induction k generalizing s with
  | zero => rfl
  | succ k ih =>
    unfold drainWindow
    split
    · rfl
    next x rest _ =>
      split
      · rfl
      next cause _ =>
        split
        · exact ih (s := removeSlot rest s) cut
        · split
          · refine (ih (s := emitSlot x cause rest s) cut).trans ?_
            show (s.resolveSlot x).2 = _
            rw [State.resolveSlot, if_pos cut]
          · rfl

theorem feedSettle_conceal {s : State} (cut : s.isCut = true) :
    (feedSettle s).aou.conceal = s.aou.conceal := by
  rw [feedSettle, startFeed_eq]
  exact drainWindow_conceal cut _

/-! ### The cut state (R141 to R144) -/

/-- The state as the cut is entered, before the Air Outlet looks for an emission. -/
def State.cutBy (x : CutCause) (s : State) : State :=
  raiseAttn .cut (.cutEntered x) (s.onAou fun u => ({ u with
    cut := some x
    counts := { u.counts with cutEntered := up u.counts.cutEntered } } : Aou).stopFeed s.cutMode)

theorem enterCut_eq (x : CutCause) (s : State) : enterCut x s = feedSettle (s.cutBy x) := rfl

/-- A trigger that is presented is counted. -/
def State.cutCounted (s : State) : State :=
  s.onAou fun u => { u with counts := { u.counts with cutTrigger := up u.counts.cutTrigger } }

theorem cutTrigger_of_clear {field : Configuration → Bool} {c : Configuration} {s : State}
    (loaded : s.csu.config = some c) (on : field c = true) (clear : s.aou.cut = none) (x : CutCause) :
    cutTrigger field x s = feedSettle (s.cutCounted.cutBy x) := by
  have open_ : ¬ s.isCut = true := by simp [State.isCut, clear]
  simp only [cutTrigger, loaded, Option.map_some, Option.getD_some, on, if_true, if_neg open_]
  rfl

theorem cutTrigger_of_cut {field : Configuration → Bool} {c : Configuration} {s : State} {k : CutCause}
    (loaded : s.csu.config = some c) (on : field c = true) (cut : s.aou.cut = some k) (x : CutCause) :
    cutTrigger field x s = s.cutCounted := by
  have shut : s.isCut = true := by simp [State.isCut, cut]
  simp only [cutTrigger, loaded, Option.map_some, Option.getD_some, on, if_true, shut]
  rfl

theorem cutMode_of_loaded {s : State} {c : Configuration} (loaded : s.csu.config = some c) :
    s.cutMode = c.cutMode := by
  rw [State.cutMode, loaded]
  rfl

/-- Under STOP and FLOAT, with nothing left to start, the CLOSED slots at the head leave unsent (R143). -/
theorem feedSettle_silent {s : State} (silent : s.cutSilent = true) (sending : ∀ b ∈ s.aou.feed, b.sending = true) :
    feedSettle s = s.onAou fun u => { u with
      window := u.window.dropWhile fun x => !x.isOpen
      counts := { u.counts with
        slotCut := upBy u.counts.slotCut (u.window.length - (u.window.dropWhile fun x => !x.isOpen).length) } } := by
  rw [feedSettle, drainWindow_silent silent (Nat.le_refl _), startFeed_eq]
  simp only [State.onAou, startRecord_of_sending sending, ite_self]

/-- What entering CUT leaves of the program feed, by the cut mode (Table 8-8). -/
theorem cutBy_feed {s : State} {c : Configuration} (loaded : s.csu.config = some c) (x : CutCause) :
    let v := feedSettle (s.cutBy x)
    let waiting := (s.aou.feed.filter fun b => !b.sending).length
    let kept := s.aou.window.dropWhile fun x => !x.isOpen
    let gone := upBy s.aou.counts.slotCut (s.aou.window.length - kept.length)
    (c.cutMode = .quiet → s.aou.Emits v.aou) ∧
    (c.cutMode = .stop → v.aou.driven = s.aou.driven ∧ v.aou.feed = s.aou.feed.filter (fun b => b.sending) ∧
      v.aou.counts.recDiscarded = upBy s.aou.counts.recDiscarded waiting ∧
      v.aou.window = kept ∧ v.aou.counts.slotCut = gone) ∧
    (c.cutMode = .float → v.aou.driven = false ∧ v.aou.feed = [] ∧
      v.aou.counts.recDiscarded = upBy s.aou.counts.recDiscarded waiting ∧
      v.aou.counts.recTruncated = upBy s.aou.counts.recTruncated (s.aou.feed.filter fun b => b.sending).length ∧
      v.aou.window = kept ∧ v.aou.counts.slotCut = gone) := by
  have mode : s.cutMode = c.cutMode := cutMode_of_loaded loaded
  have mode' : (s.cutBy x).cutMode = c.cutMode := mode
  refine ⟨fun quiet => ?_, fun stop => ?_, fun float => ?_⟩
  · have sounds : (s.cutBy x).cutSilent = false := by
      rw [State.cutSilent, mode', quiet, Bool.and_false]
    refine .trans ?_ (feedSettle_emits sounds)
    rw [State.cutBy, mode, quiet]
    exact ⟨rfl, rfl, rfl, List.prefix_refl _⟩
  · have silent : (s.cutBy x).cutSilent = true := by
      rw [State.cutSilent, mode', stop, Bool.and_true, State.isCut, State.cutBy, mode, stop]
      rfl
    have feed : (s.cutBy x).aou.feed = s.aou.feed.filter fun b => b.sending := by
      rw [State.cutBy, mode, stop]
      rfl
    rw [feedSettle_silent silent (by rw [feed]; exact fun b m => (List.mem_filter.1 m).2), State.cutBy, mode, stop]
    exact ⟨rfl, rfl, rfl, rfl, rfl⟩
  · have silent : (s.cutBy x).cutSilent = true := by
      rw [State.cutSilent, mode', float, Bool.and_true, State.isCut, State.cutBy, mode, float]
      rfl
    have feed : (s.cutBy x).aou.feed = [] := by
      rw [State.cutBy, mode, float]
      rfl
    rw [feedSettle_silent silent (by rw [feed]; exact fun b m => absurd m List.not_mem_nil), State.cutBy, mode, float]
    exact ⟨rfl, rfl, rfl, rfl, rfl, rfl⟩

theorem cutBy_conceal (x : CutCause) (s : State) :
    (feedSettle (s.cutBy x)).aou.conceal = s.aou.conceal := by
  have cut : (s.cutBy x).isCut = true := by
    rw [State.cutBy]
    cases s.cutMode <;> rfl
  rw [feedSettle_conceal cut, State.cutBy]
  cases s.cutMode <;> rfl

theorem feedSettle_driven (s : State) : (feedSettle s).aou.driven = s.aou.driven := by
  have loop (k : Nat) : ∀ s : State, (drainWindow k s).aou.driven = s.aou.driven := by
    induction k with
    | zero => exact fun _ => rfl
    | succ k ih =>
      intro s
      unfold drainWindow
      split
      · rfl
      next x rest _ =>
        split
        · rfl
        next cause _ =>
          split
          · exact ih (removeSlot rest s)
          · split
            · exact ih (emitSlot x cause rest s)
            · rfl
  rw [feedSettle, startFeed_eq]
  exact loop _ s

/-- A list falls into what a test holds of and what it does not. -/
theorem filter_length_add {α : Type} (p : α → Bool) (xs : List α) :
    xs.length = (xs.filter p).length + (xs.filter fun x => !p x).length := by
  induction xs with
  | nil => rfl
  | cons x xs ih => cases holds : p x <;> simp [holds, ih] <;> omega

theorem filter_sending_length {α : Type} (bs : List (LineBuffer α)) :
    (bs.filter fun b => b.sending).length = bs.length - (bs.filter fun b => !b.sending).length := by
  have parts := filter_length_add (fun b => b.sending) bs
  omega

/-- What CUT leaves, its trigger presented and the end of the event tested. -/
theorem cutTaken {s : State} {c : Configuration} (loaded : s.csu.config = some c) (on : c.cutOp = true) :
    let t := cutEffect s
    t.aou.counts.cutTrigger = up s.aou.counts.cutTrigger ∧
    (∀ k, s.aou.cut = some k → t.aou.cut = some k ∧ t.aou.counts.cutEntered = s.aou.counts.cutEntered ∧
      t.csu.pendingAttn = s.csu.pendingAttn ∧ t.csu.attnRaised = s.csu.attnRaised) ∧
    (s.aou.cut = none → (∃ f, t.aou = { (feedSettle (s.cutCounted.cutBy .operator)).aou with finished := f }) ∧
      t.aou.cut = some .operator ∧ t.aou.counts.cutEntered = up s.aou.counts.cutEntered ∧
      t.csu.pendingAttn = (s.csu.raise .cut (.cutEntered .operator)).pendingAttn ∧
      t.csu.attnRaised = (s.csu.raise .cut (.cutEntered .operator)).attnRaised) ∧
    t.aou.conceal = s.aou.conceal := by
  intro t
  let x := cutTrigger (·.cutOp) .operator s
  have does : t = (settle x).replied .ok := rfl
  clear_value t
  subst does
  simp only [State.replied_aou, State.replied_csu]
  obtain ⟨counted, enters, -⟩ := (cutTrigger_triggered (·.cutOp) .operator s c loaded).2 on
  obtain ⟨f, air⟩ := settle_aou x
  obtain ⟨attn, raised⟩ := (settle_foot x).attn (by decide)
  rw [air, attn, raised]
  refine ⟨counted, fun k cut => ?_, fun clear => ?_, ?_⟩
  · rw [show x = s.cutCounted from cutTrigger_of_cut loaded on cut _]
    exact ⟨cut, rfl, rfl, rfl⟩
  · obtain ⟨entered, count, -⟩ := enters clear
    have fed : x = feedSettle (s.cutCounted.cutBy .operator) := cutTrigger_of_clear loaded on clear _
    have csu : x.csu = s.csu.raise .cut (.cutEntered .operator) := by
      rw [fed]
      exact (feedSettle_foot _).csu_eq
    exact ⟨⟨f, by rw [fed]⟩, entered, count, congrArg Csu.pendingAttn csu, congrArg Csu.attnRaised csu⟩
  · show x.aou.conceal = _
    cases cut : s.aou.cut with
    | none =>
      rw [show x = _ from cutTrigger_of_clear loaded on cut _]
      exact cutBy_conceal _ _
    | some k =>
      rw [show x = _ from cutTrigger_of_cut loaded on cut _]
      rfl

theorem leaveCut_clear (s : State) : (leaveCut s).aou.cut = none := (feedSettle_sameCut _).1

theorem leaveCut_driven (s : State) :
    (leaveCut s).aou.driven = (s.aou.driven || (s.airRole && s.aou.hasRun)) := feedSettle_driven _

theorem cutPersists_false {s : State} {c : Configuration} (loaded : s.csu.config = some c)
    (ref : c.cutRef = true → s.tlu.ref = .locked ∧ s.tlu.voidRun = false)
    (dup : c.cutDup = true → s.dlu.muted = none) : s.cutPersists = false := by
  simp only [State.cutPersists, loaded, Bool.or_eq_false_iff, Bool.and_eq_false_imp]
  refine ⟨fun on => ?_, fun on => ?_⟩
  · obtain ⟨locked, runs⟩ := ref on
    simp [State.refNotLocked, State.refLocked, locked, runs]
  · simp [State.muted, dup on]

/-- Settles O11: the trigger's effect on the feed by the cut mode (`cutBy_feed`), and the return to CLEAR. -/
theorem cutAndUncutTaken : Obligations.CutAndUncutTaken := by
  intro s c taken configured loaded
  refine ⟨fun on => ?_, fun clear => ?_, fun cut ref dup => ?_⟩
  · have granted : refuseCut s = none := by simp [refuseCut, configured, loaded, on]
    have whole := (taken_foot s).andThen (cutEffect_foot s.taken)
      (c := [.ports, .dlu, .kou, .ksp, .aou, .tlu, .cfr, .attn, .console])
    have console := (((cutTrigger_foot (·.cutOp) .operator s.taken).grow.seq (settle_foot _).grow :
      Foot [.ports, .dlu, .kou, .ksp, .aou, .tlu, .cfr, .attn] _ _).console (by decide))
    obtain ⟨counted, kept, enters, conceal⟩ := cutTaken (s := s.taken) loaded on
    refine ⟨cutEffect s.taken, commandRow_answers taken granted rfl, counted, kept, fun clear => ?_,
      (congrArg (fun u : Csu => u.tx ++ [TxItem.reply .ok 4]) console :), (congrArg Csu.config console :), conceal,
      whole.sgc (by decide), whole.rst (by decide), whole.pcu (by decide), whole.muted (by decide)⟩
    obtain ⟨⟨f, air⟩, entered, count, pending, raised⟩ := enters clear
    obtain ⟨quiet, stop, float⟩ := cutBy_feed (s := s.taken.cutCounted) loaded .operator
    refine ⟨entered, count, pending, raised, fun mode => ?_, fun mode => ?_, fun mode => ?_⟩
    · obtain ⟨driven, discarded, slotCut, records⟩ := quiet mode
      rw [air]
      exact ⟨driven, discarded, slotCut, records⟩
    · rw [air]
      exact stop mode
    · rw [air, ← filter_sending_length]
      exact float mode
  · have granted : refuseUncut s = none := by simp [refuseUncut, configured, State.isCut, clear]
    have stays : uncutEffect s.taken = s.taken.replied .ok := by
      have open_ : ¬ s.taken.isCut = true := by
        rw [State.isCut, show s.taken.aou.cut = none from clear]
        exact nofun
      rw [uncutEffect, answerOk, if_neg open_]
      rfl
    exact commandRow_answers taken granted stays
  · have granted : refuseUncut s = none := by
      simp [refuseUncut, configured, cutPersists_false loaded ref dup]
    have leaves : uncutEffect s.taken = (settle (leaveCut s.taken)).replied .ok := by
      rw [uncutEffect, answerOk, if_pos (show s.taken.isCut = true from cut)]
      rfl
    have whole := (taken_foot s).andThen (uncutEffect_foot s.taken)
      (c := [.ports, .dlu, .kou, .ksp, .aou, .tlu, .cfr, .console])
    obtain ⟨f, air⟩ := settle_aou (leaveCut s.taken)
    have csu : (settle (leaveCut s.taken)).csu = s.taken.csu := by
      rw [(settle_foot _).csu_eq, (leaveCut_foot _).csu_eq]
    refine ⟨uncutEffect s.taken, commandRow_answers taken granted rfl, ?_, ?_, ?_, whole.sgc (by decide),
      whole.rst (by decide), whole.pcu (by decide), whole.muted (by decide)⟩
    · rw [leaves, State.replied_aou, air]
      exact leaveCut_clear _
    · have role : s.taken.airRole = c.airRole := by
        change (s.csu.config.map (·.airRole)).getD false = _
        rw [loaded]
        rfl
      rw [leaves, State.replied_aou, air]
      show (leaveCut s.taken).aou.driven = _
      rw [leaveCut_driven, role]
      rfl
    · rw [leaves, State.replied_csu, csu]
      rfl

end Sys2Proof.Machine
end

section
/-! The ports, operation by operation: what each does to its own port, said as a function of the port alone, and
what a drain leaves of a port. -/

namespace Sys2Proof.Machine

/-! ### One port after the other -/

theorem State.onPort_onPort (p : PortId) (f g : Port → Port) (s : State) :
    (s.onPort p g).onPort p f = s.onPort p fun x => f (g x) := by
  cases p <;> rfl

theorem State.onPort_id {p : PortId} {f : Port → Port} {s : State} (h : f (s.port p) = s.port p) :
    s.onPort p f = s := by
  cases p
  · show { s with lku := { s.lku with portA := f s.lku.portA } } = s
    rw [show f s.lku.portA = s.lku.portA from h]
  · show { s with lku := { s.lku with portB := f s.lku.portB } } = s
    rw [show f s.lku.portB = s.lku.portB from h]

theorem State.onPort_congr {p : PortId} {f g : Port → Port} {s : State} (h : f (s.port p) = g (s.port p)) :
    s.onPort p f = s.onPort p g := by
  cases p
  · show { s with lku := { s.lku with portA := f s.lku.portA } } = _
    rw [show f s.lku.portA = g s.lku.portA from h]
    rfl
  · show { s with lku := { s.lku with portB := f s.lku.portB } } = _
    rw [show f s.lku.portB = g s.lku.portB from h]
    rfl

theorem State.onPort_setPort (p : PortId) (f : Port → Port) (s : State) :
    s.onPort p f = { s with lku := s.lku.setPort p (f (s.port p)) } := rfl

theorem State.countPort_eq (p : PortId) (f : PortCounts → PortCounts) (s : State) :
    s.countPort p f = s.onPort p fun x => { x with counts := f x.counts } := rfl

/-! ### The link-local queue (R45, R63, R83) -/

/-- A port that starts the head of its link-local queue, when its transmitter is idle. -/
def Port.startLink (hello : Bytes) (x : Port) : Port :=
  match x.tx, x.linkQueue with
  | none, .hello :: rest => { x with linkQueue := rest, tx := some (.hello hello) }
  | none, .hold sender t :: rest => { x with linkQueue := rest, tx := some (.hold t (holdBytes sender t)) }
  | _, _ => x

theorem startLinkLocal_eq (p : PortId) (s : State) :
    startLinkLocal p s = s.onPort p (Port.startLink (helloBytes s p)) := by
  unfold startLinkLocal
  split
  next idle head => exact State.onPort_congr (by simp only [Port.startLink, idle, head])
  next idle head => exact State.onPort_congr (by simp only [Port.startLink, idle, head])
  next noHello noHold =>
    refine (State.onPort_id ?_).symm
    unfold Port.startLink
    split
    next idle head => exact absurd head (noHello _ idle)
    next idle head => exact absurd head (noHold _ _ _ idle)
    · rfl

theorem Port.startLink_busy (hello : Bytes) {x : Port} (busy : x.tx ≠ none) : x.startLink hello = x := by
  unfold Port.startLink
  split
  next idle _ => exact absurd idle busy
  next idle _ => exact absurd idle busy
  · rfl

theorem Port.startLink_empty (hello : Bytes) {x : Port} (empty : x.linkQueue = []) : x.startLink hello = x := by
  unfold Port.startLink
  split
  next _ head => exact absurd head (by simp [empty])
  next _ head => exact absurd head (by simp [empty])
  · rfl

/-- A port that a link-local frame is offered to: dropped behind two, else it joins, and the head starts. -/
def Port.joinLink (hello : Bytes) (f : LinkFrame) (x : Port) : Port :=
  if 2 ≤ x.linkQueue.length then { x with counts := { x.counts with llDrop := up x.counts.llDrop } }
  else Port.startLink hello { x with linkQueue := x.linkQueue ++ [f] }

/-- A port that a HELLO is offered to. -/
def Port.takeHello (hello : Bytes) (x : Port) : Port :=
  if x.linkQueue.contains .hello then x else x.joinLink hello .hello

/-- A port that a HOLD is offered to. -/
def Port.takeHold (hello : Bytes) (own t : Nat) (x : Port) : Port :=
  if x.link = .up then x.joinLink hello (.hold own t) else x

/-- The fields of a HELLO do not read the link-local queue. -/
theorem helloBytes_onPort {p : PortId} {f : Port → Port} {s : State}
    (seen : (f (s.port p)).seen1 = (s.port p).seen1 ∧ (f (s.port p)).seen2 = (s.port p).seen2) :
    helloBytes (s.onPort p f) p = helloBytes s p := by
  simp only [helloBytes, State.onPort_port, seen.1, seen.2, State.onPort_lku_enabled, State.onPort_lku_digest,
    State.onPort_tlu, State.ownId, State.onPort_csu]

theorem joinLink_eq (p : PortId) (f : LinkFrame) (s : State) :
    (if 2 ≤ (s.port p).linkQueue.length then s.countPort p fun c => { c with llDrop := up c.llDrop }
      else startLinkLocal p (s.onPort p fun x => { x with linkQueue := x.linkQueue ++ [f] })) =
    s.onPort p (Port.joinLink (helloBytes s p) f) := by
  split
  next full => exact State.onPort_congr (by rw [Port.joinLink, if_pos full])
  next room =>
    rw [startLinkLocal_eq, State.onPort_onPort, helloBytes_onPort ⟨rfl, rfl⟩]
    exact State.onPort_congr (by rw [Port.joinLink, if_neg room])

theorem offerHello_eq (p : PortId) (s : State) :
    offerHello p s = s.onPort p (Port.takeHello (helloBytes s p)) := by
  unfold offerHello
  dsimp only
  split
  next waits => exact (State.onPort_id (by rw [Port.takeHello, if_pos waits])).symm
  next none_ =>
    rw [joinLink_eq]
    exact State.onPort_congr (by rw [Port.takeHello, if_neg none_])

theorem offerHold_eq (p : PortId) (t : Nat) (s : State) :
    offerHold p t s = s.onPort p (Port.takeHold (helloBytes s p) s.ownId t) := by
  unfold offerHold
  split
  next up =>
    rw [joinLink_eq]
    exact State.onPort_congr (by rw [Port.takeHold, if_pos up])
  next other_ => exact (State.onPort_id (by rw [Port.takeHold, if_neg other_])).symm

/-- The outcomes of an offer to the link-local queue. -/
theorem Port.joinLink_cases (hello : Bytes) (f : LinkFrame) (x : Port) :
    (2 ≤ x.linkQueue.length →
      x.joinLink hello f = { x with counts := { x.counts with llDrop := up x.counts.llDrop } }) ∧
    (x.linkQueue.length < 2 → x.tx ≠ none → x.joinLink hello f = { x with linkQueue := x.linkQueue ++ [f] }) ∧
    (x.linkQueue = [] → x.joinLink hello f = Port.startLink hello { x with linkQueue := [f] }) := by
  refine ⟨fun full => if_pos full, fun room busy => ?_, fun empty => ?_⟩
  · rw [Port.joinLink, if_neg (by omega)]
    exact Port.startLink_busy hello busy
  · rw [Port.joinLink, if_neg (by simp [empty]), empty]
    rfl

/-- A HOLD offered to a port leaves it as R83 says. -/
theorem holdOffered (p : PortId) (t : Nat) (s : State) :
    s.HoldOffered t (s.port p) ((offerHold p t s).port p) := by
  rw [offerHold_eq, State.onPort_port]
  obtain ⟨full, waits, starts⟩ := Port.joinLink_cases (helloBytes s p) (.hold s.ownId t) (s.port p)
  refine ⟨fun notUp => if_neg notUp, fun up many => ?_, fun up few busy => ?_, fun up empty idle => ?_⟩
  · rw [Port.takeHold, if_pos up, full many]
  · rw [Port.takeHold, if_pos up, waits few busy]
  · rw [Port.takeHold, if_pos up, starts empty]
    simp only [Port.startLink, idle, ← empty]

/-! ### The arbiter (R63, R65, R80, R82) -/

/-- A port whose lane 1 sheds the stale frames at its head (R65). -/
def Port.shedStale (stale : Bytes → Bool) (x : Port) : Port :=
  { x with
    queue1 := x.queue1.dropWhile stale
    counts := { x.counts with
      airStale := upBy x.counts.airStale (x.queue1.length - (x.queue1.dropWhile stale).length) } }

theorem dropStale_eq (p : PortId) (s : State) : dropStale p s = s.onPort p (Port.shedStale s.staleFrame) := rfl

theorem lane2Rose_stays {p : PortId} {s : State}
    (h : (s.port p).refreshAt.isSome = true ∨ (s.port p).queue2.length < s.highMark) : lane2Rose p s = s := by
  refine if_neg fun rises => ?_
  simp only [Port.congested, Bool.and_eq_true, Bool.not_eq_true', decide_eq_true_eq] at rises
  obtain ⟨calm, high⟩ := rises
  obtain busy | low := h
  · rw [busy] at calm
    exact nomatch calm
  · omega

theorem lane2Rose_rises {p : PortId} {s : State} (calm : (s.port p).refreshAt = none)
    (high : s.highMark ≤ (s.port p).queue2.length) : lane2Rose p s = startCongestion p s :=
  if_pos (by simp [Port.congested, calm, high])

theorem lane2Fell_stays {p : PortId} {s : State}
    (h : (s.port p).refreshAt = none ∨ s.lowMark ≤ (s.port p).queue2.length) : lane2Fell p s = s := by
  refine if_neg fun falls => ?_
  simp only [Port.congested, Bool.and_eq_true, decide_eq_true_eq] at falls
  obtain ⟨busy, low⟩ := falls
  obtain calm | high := h
  · rw [calm] at busy
    exact nomatch busy
  · omega

theorem lane2Fell_falls {p : PortId} {s : State} (busy : (s.port p).refreshAt.isSome = true)
    (low : (s.port p).queue2.length < s.lowMark) : lane2Fell p s = endCongestion p s :=
  if_pos (by simp [Port.congested, busy, low])

/-- A port whose arbiter chooses. -/
def Port.choose (hello : Bytes) (stale : Bytes → Bool) (x : Port) : Port :=
  if x.tx.isSome then x
  else match x.linkQueue, x.queue0, x.queue1, x.queue2 with
    | _ :: _, _, _, _ => x.startLink hello
    | [], f :: rest, _, _ => { x with queue0 := rest, tx := some (.ring 0 f) }
    | [], [], f :: rest, _ => Port.shedStale stale { x with queue1 := rest, tx := some (.ring 1 f) }
    | [], [], [], f :: rest => if x.held then x else { x with queue2 := rest, tx := some (.ring 2 f) }
    | [], [], [], [] => x

theorem kick_busy {p : PortId} {s : State} (busy : (s.port p).tx ≠ none) : kick p s = s :=
  if_pos (Option.isSome_iff_ne_none.2 busy)

theorem Port.choose_busy (hello : Bytes) (stale : Bytes → Bool) {x : Port} (busy : x.tx ≠ none) :
    x.choose hello stale = x :=
  if_pos (Option.isSome_iff_ne_none.2 busy)

/-- What a choice leaves: all that the port learnt, its congestion, its counters but for AIR_STALE, and lane 2 but
for its head. -/
structure Port.Chosen (x y : Port) : Prop where
  steady : x.Steady y
  calm : y.refreshAt = x.refreshAt
  counts : y.counts = { x.counts with airStale := y.counts.airStale }
  lane2 : x.queue2.length ≤ y.queue2.length + 1

theorem Port.choose_chosen (hello : Bytes) (stale : Bytes → Bool) (x : Port) : x.Chosen (x.choose hello stale) := by
  have same : x.Chosen x := ⟨.refl _, rfl, rfl, Nat.le_succ _⟩
  unfold Port.choose
  split
  · exact same
  · split
    · unfold Port.startLink
      split
      · exact ⟨⟨rfl, rfl, rfl, rfl, rfl, rfl, rfl, rfl, rfl, rfl⟩, rfl, rfl, Nat.le_succ _⟩
      · exact ⟨⟨rfl, rfl, rfl, rfl, rfl, rfl, rfl, rfl, rfl, rfl⟩, rfl, rfl, Nat.le_succ _⟩
      · exact same
    · exact ⟨⟨rfl, rfl, rfl, rfl, rfl, rfl, rfl, rfl, rfl, rfl⟩, rfl, rfl, Nat.le_succ _⟩
    · exact ⟨⟨rfl, rfl, rfl, rfl, rfl, rfl, rfl, rfl, rfl, rfl⟩, rfl, rfl, Nat.le_succ _⟩
    next f rest _ _ _ two =>
      split
      · exact same
      · exact ⟨⟨rfl, rfl, rfl, rfl, rfl, rfl, rfl, rfl, rfl, rfl⟩, rfl, rfl, by rw [two]; exact Nat.le_refl _⟩
    · exact same

/-- The arbiter makes its choice; a lane 2 frame that starts may end a congestion. -/
theorem kick_cases (p : PortId) (s : State) :
    let t := s.onPort p (Port.choose (helloBytes s p) s.staleFrame)
    kick p s = t ∨ kick p s = lane2Fell p t := by
  intro t
  unfold kick
  dsimp only
  split
  next busy => exact .inl (State.onPort_id (show Port.choose _ _ _ = _ from if_pos busy)).symm
  next idle =>
    split
    next link =>
      refine .inl ?_
      rw [startLinkLocal_eq]
      exact State.onPort_congr (by simp only [Port.choose, if_neg idle, link])
    next link zero => exact .inl (State.onPort_congr (by simp only [Port.choose, if_neg idle, link, zero]))
    next link zero one =>
      refine .inl ?_
      rw [dropStale_eq, State.onPort_onPort]
      exact State.onPort_congr (by simp only [Port.choose, if_neg idle, link, zero, one]; rfl)
    next f rest link zero one two =>
      split
      next held =>
        exact .inl (State.onPort_id (by
          simp only [Port.choose, if_neg idle, link, zero, one, two, if_pos held])).symm
      next free =>
        exact .inr (congrArg (lane2Fell p) (State.onPort_congr (by
          simp only [Port.choose, if_neg idle, link, zero, one, two, if_neg free])))
    next link zero one two =>
      exact .inl (State.onPort_id (by simp only [Port.choose, if_neg idle, link, zero, one, two])).symm

/-- Where no lane 2 frame that starts ends a congestion, the arbiter changes its own port alone. -/
theorem kick_eq {p : PortId} {s : State}
    (calm : (s.port p).refreshAt = none ∨ s.lowMark < (s.port p).queue2.length) :
    kick p s = s.onPort p (Port.choose (helloBytes s p) s.staleFrame) := by
  obtain same | falls := kick_cases p s
  · exact same
  · refine falls.trans (lane2Fell_stays ?_)
    have chosen := Port.choose_chosen (helloBytes s p) s.staleFrame (s.port p)
    rw [State.onPort_port, chosen.calm]
    refine calm.imp_right fun high => ?_
    have := chosen.lane2
    show s.lowMark ≤ _
    omega

/-- The end of a congestion stops the timer of its port, and changes that port no further. -/
theorem lane2Fell_port (p : PortId) (s : State) :
    ∃ r, (lane2Fell p s).port p = { s.port p with refreshAt := r } := by
  unfold lane2Fell
  split
  · refine ⟨none, ?_⟩
    rw [endCongestion, offerHold_other, State.onPort_port]
  · exact ⟨_, rfl⟩

/-- What the arbiter does to its own port. -/
theorem kick_port (p : PortId) (s : State) :
    ∃ r, (kick p s).port p = { (s.port p).choose (helloBytes s p) s.staleFrame with refreshAt := r } := by
  obtain same | falls := kick_cases p s
  · exact ⟨_, by rw [same, State.onPort_port]⟩
  · obtain ⟨r, fell⟩ := lane2Fell_port p (s.onPort p (Port.choose (helloBytes s p) s.staleFrame))
    exact ⟨r, by rw [falls, fell, State.onPort_port]⟩

/-- A lane 2 frame that starts, and what that ends of a congestion. -/
theorem kick_lane2 {p : PortId} {s : State} {f : Bytes} {rest : List Bytes} (idle : (s.port p).tx = none)
    (link : (s.port p).linkQueue = []) (zero : (s.port p).queue0 = []) (one : (s.port p).queue1 = [])
    (free : (s.port p).heldUntil = none) (two : (s.port p).queue2 = f :: rest) :
    kick p s = lane2Fell p (s.onPort p fun x => { x with queue2 := rest, tx := some (.ring 2 f) }) := by
  simp only [kick, idle, Option.isSome_none, Bool.false_eq_true, if_false, link, zero, one, two, Port.held, free]

/-! ### The drain at a port (R152) -/

/-- What a drain leaves of a port: no congestion starts or ends, only two counters move, a port that is not UP
stays as it was, and so does one that sends, but for its lane 2. -/
structure Port.Drained (x y : Port) : Prop where
  steady : x.Steady y
  calm : y.refreshAt = x.refreshAt
  counts : y.counts = { x.counts with qfullL2 := y.counts.qfullL2, airStale := y.counts.airStale }
  notUp : x.link ≠ .up → y = x
  busy : x.tx ≠ none → y.tx = x.tx ∧ y.linkQueue = x.linkQueue ∧ y.queue0 = x.queue0 ∧ y.queue1 = x.queue1 ∧
    y.counts.airStale = x.counts.airStale

theorem Port.Drained.refl (x : Port) : x.Drained x :=
  ⟨.refl _, rfl, rfl, fun _ => rfl, fun _ => ⟨rfl, rfl, rfl, rfl, rfl⟩⟩

theorem Port.Drained.trans {x y z : Port} (h : x.Drained y) (k : y.Drained z) : x.Drained z where
  steady := h.steady.trans k.steady
  calm := k.calm.trans h.calm
  counts := by rw [k.counts, h.counts]
  notUp n := (k.notUp (h.steady.link ▸ n)).trans (h.notUp n)
  busy b := by
    obtain ⟨tx, link, zero, one, stale⟩ := h.busy b
    obtain ⟨tx', link', zero', one', stale'⟩ := k.busy (tx ▸ b)
    exact ⟨tx'.trans tx, link'.trans link, zero'.trans zero, one'.trans one, stale'.trans stale⟩

/-- A port that the drain may send to. -/
structure State.Passes (s : State) (x : Port) : Prop where
  calm : x.link = .up → x.refreshAt = none
  room : x.link = .up → x.queue2.length + 2 ≤ s.highMark

theorem passes_of_portBlock {s : State} {p : PortId} (h : s.portBlock p = none) : s.Passes (s.port p) := by
  unfold State.portBlock at h
  dsimp only at h
  split at h
  next notUp => exact ⟨fun up => absurd up notUp, fun up => absurd up notUp⟩
  split at h
  · exact nomatch h
  split at h
  · exact nomatch h
  split at h
  · exact nomatch h
  next calm =>
    split at h
    · exact nomatch h
    next room => exact ⟨fun _ => by simpa [Port.congested] using calm, fun _ => by omega⟩

theorem Port.Chosen.drained {x y : Port} (h : x.Chosen y) (up : x.link = .up) (busy : x.tx ≠ none → y = x) :
    x.Drained y where
  steady := h.steady
  calm := h.calm
  counts := by rw [h.counts]
  notUp n := absurd up n
  busy b := by
    rw [busy b]
    exact ⟨rfl, rfl, rfl, rfl, rfl⟩

theorem Port.up_of_full {x : Port} (full : x.offer 2 = .full) : x.link = .up := by
  unfold Port.offer at full
  split at full
  · exact nomatch full
  next open_ =>
    simp only [Port.laneOpen, Bool.not_eq_true, Bool.not_eq_false', Bool.and_eq_true, beq_iff_eq] at open_
    exact open_.1

/-- A KEEP frame of the drain is offered to a port: nothing reaches the other one. -/
theorem offerKeep_eq {p : PortId} {s : State} (passes : s.Passes (s.port p)) (f : Bytes) :
    ∃ g : Port → Port, offerFrame p 2 f s = s.onPort p g ∧ (s.port p).Drained (g (s.port p)) := by
  unfold offerFrame
  split
  · exact ⟨id, (State.onPort_id rfl).symm, .refl _⟩
  next full =>
    exact ⟨_, rfl, ⟨⟨rfl, rfl, rfl, rfl, rfl, rfl, rfl, rfl, rfl, rfl⟩, rfl, rfl,
      fun n => absurd (Port.up_of_full full) n, fun _ => ⟨rfl, rfl, rfl, rfl, rfl⟩⟩⟩
  next queued =>
    have up := Port.up_of_queued queued
    let t := s.onPort p fun x => x.join 2 f
    have calm : (t.port p).refreshAt = none := by
      rw [State.onPort_port]
      exact passes.calm up
    have stays : afterJoin p 2 t = t := by
      refine lane2Rose_stays (.inr ?_)
      rw [State.onPort_port]
      have := passes.room up
      show (_ ++ [f]).length < s.highMark
      rw [List.length_append, List.length_singleton]
      omega
    rw [stays, kick_eq (.inl calm), State.onPort_onPort]
    refine ⟨_, rfl, ?_⟩
    refine .trans ?_ ((Port.choose_chosen _ _ _).drained up fun b => Port.choose_busy _ _ b)
    exact ⟨⟨rfl, rfl, rfl, rfl, rfl, rfl, rfl, rfl, rfl, rfl⟩, rfl, rfl, fun n => absurd up n,
      fun _ => ⟨rfl, rfl, rfl, rfl, rfl⟩⟩

theorem offerKeeps_drained {s : State} (passes : ∀ p, s.Passes (s.port p)) (f : Bytes) (p : PortId) :
    (s.port p).Drained ((offerFrame .b 2 f (offerFrame .a 2 f s)).port p) := by
  obtain ⟨g, toA, a⟩ := offerKeep_eq (passes .a) f
  have passesB : (s.onPort .a g).Passes ((s.onPort .a g).port .b) := ⟨(passes .b).calm, (passes .b).room⟩
  obtain ⟨h, toB, b⟩ := offerKeep_eq passesB f
  rw [toA, toB]
  cases p with
  | a => exact a
  | b => exact b

theorem drainBlock_none {s : State} (h : s.drainBlock = none) :
    s.muted = false ∧ ∀ p, s.portBlock p = none := by
  unfold State.drainBlock at h
  split at h
  · exact nomatch h
  split at h
  · exact nomatch h
  next speaks =>
    split at h
    · exact nomatch h
    split at h
    · exact nomatch h
    · exact nomatch h
    next a b => exact ⟨by simpa using speaks, fun p => by cases p <;> assumption⟩

theorem sendEntry_drained {s : State} (h : s.drainBlock = none) (b : KeepBody) (p : PortId) :
    (s.port p).Drained ((sendEntry b s).port p) := by
  obtain ⟨speaks, passes⟩ := drainBlock_none h
  have muted : s.dlu.muted = none := by simpa [State.muted] using speaks
  have sent := offerKeeps_drained (fun q => passes_of_portBlock (passes q))
    (ringBytes .keep s.nextHeader (keepBytes b s.ksp.free)) p
  rw [sendEntry, (advanceDrain_foot _).port (by decide), originate_speaking muted,
    (deliver_foot .keep true _ _).port (by decide)]
  exact sent

theorem drainLoop_drained (n : Nat) (s : State) (p : PortId) : (s.port p).Drained ((drainLoop n s).port p) := by
  induction n generalizing s with
  | zero => exact .refl _
  | succ n ih =>
    unfold drainLoop
    split
    next open_ _ => exact (sendEntry_drained open_ _ p).trans (ih _)
    · exact .refl _

/-- The tests at the end of an event leave a port as a drain does. -/
theorem settle_drained (s : State) (p : PortId) : (s.port p).Drained ((settle s).port p) := by
  rw [settle, (testDone_foot _).port (by decide), (reportFinished_foot _).port (by decide)]
  exact drainLoop_drained _ s p

/-- A footprint of the tests that leaves the Console Unit. -/
theorem settle_csu (s : State) : (settle s).csu = s.csu := (settle_foot s).csu_eq

theorem settle_now (s : State) : (settle s).now = s.now := (settle_foot s).now (by decide)

end Sys2Proof.Machine
end

section
/-! What a receiver discards (O32), HOLD (O33), the HELLO schedule and carrier (O29). -/

namespace Sys2Proof.Machine

/-! ### Reception (R48, R54, R69) -/

theorem receiveFrame_shut {s : State} {p : PortId} (h : ¬ (s.unconfigured = false ∧ (s.port p).link ≠ .down))
    (bs : Bytes) : receiveFrame p bs s = s := by
  have shut : (s.unconfigured || decide ((s.port p).link = .down)) = true := by
    simp only [Bool.or_eq_true, decide_eq_true_eq]
    refine Classical.byContradiction fun neither => ?_
    obtain ⟨configured, up⟩ := not_or.1 neither
    exact h ⟨Bool.eq_false_iff.2 configured, up⟩
  rw [receiveFrame, if_pos shut]

theorem receiveFrame_open {s : State} {p : PortId} (h : s.unconfigured = false ∧ (s.port p).link ≠ .down)
    (bs : Bytes) : receiveFrame p bs s =
      if 3072 < bs.length then s.countPort p fun c => { c with rxLong := up c.rxLong }
      else if !crcGood bs then s.countPort p fun c => { c with rxCrc := up c.rxCrc }
      else if byteAt bs 0 = 1 then receiveHello p bs s
      else if byteAt bs 0 = 2 then holdTaken p bs s
      else admission p bs s := by
  have open_ : ¬ (s.unconfigured || decide ((s.port p).link = .down)) = true := by simp [h.1, h.2]
  rw [receiveFrame, if_neg open_]

/-- A frame within 3,072 bytes with a good CRC is dealt with by its kind. -/
theorem receiveFrame_sound {s : State} {p : PortId} {bs : Bytes}
    (h : s.unconfigured = false ∧ (s.port p).link ≠ .down) (sound : bs.length ≤ 3072 ∧ crcGood bs = true) :
    receiveFrame p bs s =
      if byteAt bs 0 = 1 then receiveHello p bs s
      else if byteAt bs 0 = 2 then holdTaken p bs s
      else admission p bs s := by
  obtain ⟨short, good⟩ := sound
  rw [receiveFrame_open h, if_neg (by omega), if_neg (by simp [good])]

theorem receiveHello_bad {s : State} {p : PortId} {bs : Bytes} (bad : parseHello s.now bs = none) :
    receiveHello p bs s = s.countPort p fun c => { c with rxBadHello := up c.rxBadHello } := by
  simp only [receiveHello, bad]

theorem holdTaken_length {s : State} {p : PortId} {bs : Bytes} (bad : bs.length ≠ 8) :
    holdTaken p bs s = s.countPort p fun c => { c with rxBadHold := up c.rxBadHold } := by
  rw [holdTaken, if_pos bad]

theorem holdTaken_notUp {s : State} {p : PortId} {bs : Bytes} (size : bs.length = 8)
    (down : (s.port p).link ≠ .down) (notUp : (s.port p).link ≠ .up) :
    holdTaken p bs s = s.countPort p fun c => { c with rxNotUp := up c.rxNotUp } := by
  rw [holdTaken, if_neg (Classical.not_not.2 size)]
  split
  · contradiction
  · rfl
  · rfl
  · contradiction

theorem holdTaken_up {s : State} {p : PortId} {bs : Bytes} (size : bs.length = 8) (up_ : (s.port p).link = .up) :
    holdTaken p bs s = if (s.port p).neighbour.map (·.station) = some (byteAt bs 1) then
        obeyHold p (min 10000 (wordAt16 bs 2)) s
      else s.countPort p fun c => { c with rxBadHold := up c.rxBadHold } := by
  simp only [holdTaken, size, up_, ne_eq, not_true_eq_false, if_false]

theorem admission_notUp {s : State} {p : PortId} {bs : Bytes} (down : (s.port p).link ≠ .down)
    (notUp : (s.port p).link ≠ .up) :
    admission p bs s = s.countPort p fun c => { c with rxNotUp := up c.rxNotUp } := by
  unfold admission
  split
  · contradiction
  · rfl
  · rfl
  · contradiction

theorem admission_unknown {s : State} {p : PortId} {bs : Bytes} (up_ : (s.port p).link = .up)
    (kind : ringKindOf (byteAt bs 0) = none) : admission p bs s = unknownKind bs s := by
  simp only [admission, up_, kind]

/-- A frame of a ring-wide kind in UP: its lane, whether that is CLOSED, then its length and origin (R54, R69). -/
theorem admission_up {s : State} {p : PortId} {bs : Bytes} {k : RingKind} (up_ : (s.port p).link = .up)
    (kind : ringKindOf (byteAt bs 0) = some k) : admission p bs s =
      if byteAt bs 2 ≠ k.lane then s.countPort p fun c => { c with rxBadLane := up c.rxBadLane }
      else if (s.port p).laneClosed k.lane then
        s.countPort p fun c => { c with rxLaneClosed := up c.rxLaneClosed }
      else admitted p k bs s := by
  simp only [admission, up_, kind]

theorem laneClosed_iff (x : Port) (k : RingKind) :
    x.laneClosed k.lane = true ↔ (k = .air ∧ x.lane1 = .closed) ∨ (k = .keep ∧ x.lane2 = .closed) := by
  cases k <;> simp [RingKind.lane, Port.laneClosed]

/-- Settles O32: each discard is the first check that fails. -/
theorem receiverDiscards : Obligations.ReceiverDiscards := by
  intro s p bs x passes sound counts delivery
  have run {t : State} (h : receiveFrame p bs s = t) : exec (.rxFrameComplete p bs) s = .next (settle t) :=
    congrArg (fun t => Host.Outcome.next (settle t)) h
  refine ⟨fun shut => run (receiveFrame_shut shut bs), fun open_ long => run ?_, fun open_ short bad => run ?_,
    fun open_ good hello bad => run ?_, fun open_ good hold bad => run ?_, fun open_ good hold size notUp => run ?_,
    fun open_ good hold size up_ sender => run ?_, fun open_ good hello hold notUp => run ?_,
    fun good configured up_ hello hold => ?_⟩
  · rw [receiveFrame_open open_, if_pos long]
    rfl
  · rw [receiveFrame_open open_, if_neg (by omega), if_pos (by simp [bad])]
    rfl
  · rw [receiveFrame_sound open_ good, if_pos hello, receiveHello_bad bad]
    rfl
  · rw [receiveFrame_sound open_ good, if_neg (by omega), if_pos hold, holdTaken_length bad]
    rfl
  · rw [receiveFrame_sound open_ good, if_neg (by omega), if_pos hold, holdTaken_notUp size open_.2 notUp]
    rfl
  · rw [receiveFrame_sound open_ good, if_neg (by omega), if_pos hold, holdTaken_up size up_, if_neg sender]
    rfl
  · rw [receiveFrame_sound open_ good, if_neg hello, if_neg hold, admission_notUp open_.2 notUp]
    rfl
  · have open_ : s.unconfigured = false ∧ (s.port p).link ≠ .down := ⟨configured, by rw [up_]; exact nofun⟩
    have admits : receiveFrame p bs s = admission p bs s := by
      rw [receiveFrame_sound open_ good, if_neg hello, if_neg hold]
    refine ⟨fun kind => ⟨fun length => run ?_, fun length => run ?_⟩,
      fun k kind => ⟨fun lane => run ?_, fun lane closed => run ?_, fun lane air keep =>
        ⟨fun length => run ?_, fun length allowed origin => run ?_⟩⟩⟩
    · rw [admits, admission_unknown up_ kind, unknownKind, if_pos length]
      rfl
    · rw [admits, admission_unknown up_ kind, unknownKind, if_neg (Classical.not_not.2 length)]
      rfl
    · rw [admits, admission_up up_ kind, if_pos lane]
      rfl
    · rw [admits, admission_up up_ kind, if_neg (Classical.not_not.2 lane), if_pos ((laneClosed_iff _ _).2 closed)]
      rfl
    all_goals
      have openLane : ¬ (s.port p).laneClosed k.lane = true := fun closed =>
        ((laneClosed_iff _ _).1 closed).elim (fun h => air h.1 h.2) fun h => keep h.1 h.2
      rw [admits, admission_up up_ kind, if_neg (Classical.not_not.2 lane), if_neg openLane, admitted]
    · rw [if_pos (length.imp_right Bool.eq_false_iff.1)]
      rfl
    · have sized : ¬ (wordAt16 bs 12 ≠ bs.length ∨ ¬ lengthAllowed s.rate k bs = true) := by
        rw [length, allowed]
        simp
      rw [if_neg sized, if_pos (by omega)]
      rfl

/-! ### HOLD (R79 to R85) -/

theorem obeyHold_hold {p : PortId} {t : Nat} (s : State) (h : t ≠ 0) : obeyHold p t s = s.onPort p fun x => { x with
    heldUntil := some (s.now + micros t)
    counts := { x.counts with holdTaken := up x.counts.holdTaken } } :=
  if_neg h

/-- A release makes lane 2 eligible, and starts what that makes the arbiter choose (R85). -/
theorem releaseLane2_port (p : PortId) (s : State) : ∃ r, (releaseLane2 p s).port p =
    { Port.choose (helloBytes s p) s.staleFrame { s.port p with heldUntil := none } with refreshAt := r } := by
  obtain ⟨r, kicked⟩ := kick_port p (s.onPort p fun x => { x with heldUntil := none })
  rw [State.onPort_port, helloBytes_onPort ⟨rfl, rfl⟩] at kicked
  exact ⟨r, kicked⟩

/-- What is left of the hold and the counters of a port released, and drained behind that. -/
theorem released_settled (p : PortId) (s : State) :
    ((settle (releaseLane2 p s)).port p).heldUntil = none ∧
    ((settle (releaseLane2 p s)).port p).counts.releaseTaken = (s.port p).counts.releaseTaken ∧
    ((settle (releaseLane2 p s)).port p).counts.holdExpired = (s.port p).counts.holdExpired := by
  have drained := settle_drained (releaseLane2 p s) p
  obtain ⟨r, released⟩ := releaseLane2_port p s
  have chosen := Port.choose_chosen (helloBytes s p) s.staleFrame { s.port p with heldUntil := none }
  rw [drained.steady.heldUntil, drained.counts, released]
  exact ⟨chosen.steady.heldUntil, by rw [chosen.counts], by rw [chosen.counts]⟩

theorem releaseLane2_now (p : PortId) (s : State) : (releaseLane2 p s).now = s.now :=
  (releaseLane2_foot p s).now (by decide)

/-- Settles O33: a HOLD sets its timer, a release and an expiry let the arbiter choose, a refresh offers HOLD. -/
theorem holdObeyedAndRefreshed : Obligations.HoldObeyedAndRefreshed := by
  intro s p x
  refine ⟨fun bs configured up_ size good kind sender => ?_, fun none_ => ?_,
    fun d held => ?_, fun calm => ?_, fun d busy => ?_⟩
  · have receives : receiveFrame p bs s = obeyHold p (min 10000 (wordAt16 bs 2)) s := by
      rw [receiveFrame_sound ⟨configured, by rw [up_]; exact nofun⟩ ⟨by omega, good⟩, if_neg (by omega), if_pos kind,
        holdTaken_up size up_, if_pos sender]
    have row : exec (.rxFrameComplete p bs) s = .next (settle (receiveFrame p bs s)) := rfl
    rw [row, receives]
    refine ⟨fun time => ?_, fun release => ?_⟩
    · rw [obeyHold_hold s (by omega), micros, Nat.mul_comm]
      rfl
    · have releases : obeyHold p (min 10000 (wordAt16 bs 2)) s =
          releaseLane2 p (s.countPort p fun c => { c with releaseTaken := up c.releaseTaken }) := by
        rw [release]
        rfl
      rw [releases]
      obtain ⟨free, counted, -⟩ :=
        released_settled p (s.countPort p fun c => { c with releaseTaken := up c.releaseTaken })
      refine ⟨_, rfl, free, counted.trans ?_⟩
      rw [State.countPort_eq, State.onPort_port]
  · have waits : holdExpires p s = s := by
      simp only [holdExpires]
      rw [show (s.port p).heldUntil = none from none_]
    exact congrArg (fun t => Host.Outcome.next (settle t)) waits
  · let u := (s.reach d).countPort p fun c => { c with holdExpired := up c.holdExpired }
    have expires : holdExpires p s = releaseLane2 p u := by
      simp only [holdExpires]
      rw [show (s.port p).heldUntil = some d from held]
    have port : u.port p = { x with counts := { x.counts with holdExpired := up x.counts.holdExpired } } :=
      State.onPort_port p _ (s.reach d)
    obtain ⟨free, -, counted⟩ := released_settled p u
    refine ⟨_, congrArg (fun t => Host.Outcome.next (settle t)) expires, ?_, free, counted.trans (by rw [port]),
      fun idle link zero one f rest two => ?_⟩
    · rw [settle_now, releaseLane2_now]
      rfl
    · obtain ⟨r, released⟩ := releaseLane2_port p u
      have sends : ((releaseLane2 p u).port p).tx = some (.ring 2 f) := by
        rw [released, port]
        simp only [Port.choose, idle, link, zero, one, two, Option.isSome_none, Bool.false_eq_true, if_false, Port.held]
      obtain ⟨tx, -⟩ := (settle_drained (releaseLane2 p u) p).busy (by rw [sends]; exact nofun)
      exact tx.trans sends
  · have waits : refreshExpires p s = s := by
      simp only [refreshExpires]
      rw [show (s.port p).refreshAt = none from calm]
    exact congrArg Host.Outcome.next waits
  · let r := s.reach d
    let u := r.onPort p fun x => { x with refreshAt := some r.refreshDue }
    have expires : refreshExpires p s = offerHold (other p) s.holdTime u := by
      simp only [refreshExpires]
      rw [show (s.port p).refreshAt = some d from busy]
      rfl
    have foot : Foot [.ports] { s with now := max s.now d } (offerHold (other p) s.holdTime u) :=
      (State.onPort_foot _ _ _).seq (offerHold_foot _ _ _)
    refine ⟨_, congrArg Host.Outcome.next expires, foot.eq_ports, ?_, ?_⟩
    · rw [offerHold_other, State.onPort_port]
      show { r.port p with refreshAt := some (max s.now d + s.holdTime / 2 * 1000) } = _
      rw [Nat.mul_comm (s.holdTime / 2)]
      rfl
    · have offered := holdOffered (other p) s.holdTime u
      rw [State.onPort_other] at offered
      exact offered

/-! ### The HELLO schedule and carrier (R45, R49) -/

/-- The outcomes of a HELLO offered to a port (R45). -/
theorem Port.takeHello_cases (hello : Bytes) (x : Port) :
    (.hello ∈ x.linkQueue → x.takeHello hello = x) ∧
    (.hello ∉ x.linkQueue → 2 ≤ x.linkQueue.length →
      x.takeHello hello = { x with counts := { x.counts with llDrop := up x.counts.llDrop } }) ∧
    (.hello ∉ x.linkQueue → x.linkQueue.length < 2 → x.tx ≠ none →
      x.takeHello hello = { x with linkQueue := x.linkQueue ++ [.hello] }) ∧
    (x.linkQueue = [] → x.tx = none → x.takeHello hello = { x with tx := some (.hello hello) }) := by
  obtain ⟨full, waits, starts⟩ := Port.joinLink_cases hello .hello x
  have joins (none_ : .hello ∉ x.linkQueue) : x.takeHello hello = x.joinLink hello .hello :=
    if_neg (by simpa using none_)
  refine ⟨fun there => if_pos (by simpa using there), fun none_ many => (joins none_).trans (full many),
    fun none_ few busy => (joins none_).trans (waits few busy), fun empty idle => ?_⟩
  rw [joins (by simp [empty]), starts empty]
  simp only [Port.startLink, idle, ← empty]

/-- The HELLOs of a schedule: each port takes one, with its fields as they stand. -/
theorem offerHellos_port (s : State) (p : PortId) :
    (offerHello .b (offerHello .a s)).port p = (s.port p).takeHello (helloBytes s p) := by
  rw [offerHello_eq, offerHello_eq]
  cases p <;> rfl

/-- Settles O29: the schedule offers a HELLO to each port, and carrier brings a port out of DOWN. -/
theorem helloScheduleAndCarrier : Obligations.HelloScheduleAndCarrier := by
  intro s
  refine ⟨fun none_ => ?_, fun d runs => ?_, fun p => ?_⟩
  · have waits : helloDue s = s := by simp only [helloDue, none_]
    exact congrArg Host.Outcome.next waits
  · let u := (s.reach d).onLku fun k => { k with helloAt := some (d + 1000000) }
    have due : helloDue s = offerHello .b (offerHello .a u) := by
      simp only [helloDue, runs]
      rfl
    have foot : Foot [.ports] u (offerHello .b (offerHello .a u)) :=
      (offerHello_foot _ _).seq (offerHello_foot _ _)
    obtain ⟨enabled, digest, helloAt⟩ := foot.link (by decide)
    refine ⟨_, congrArg Host.Outcome.next due, foot.eq_ports, helloAt, enabled, digest, fun p => ?_⟩
    have port : u.port p = s.port p := by cases p <;> rfl
    have fields : helloBytes u p = helloBytes s p := by
      simp only [helloBytes, port]
      rfl
    rw [offerHellos_port, port, fields]
    exact Port.takeHello_cases _ _
  · have foot : Foot [.ports] s (carrierAppears p s) := State.onPort_foot _ _ _
    refine ⟨_, rfl, foot.eq_ports, State.onPort_other _ _ _, State.onPort_lku_helloAt _ _ _, ?_⟩
    refine (State.onPort_port _ _ _).trans ?_
    simp only [Bool.not_eq_true]

end Sys2Proof.Machine
end

section
/-! What the arbiter sends, and in what order (O35). -/

namespace Sys2Proof.Machine

/-! ### Staleness (R65) -/

theorem airIndex_ringBytes (h : RingHeader) (a : AirBody) : airIndex (ringBytes .air h (airBytes a)) = a.index := by
  obtain ⟨crc, reads⟩ := ringBytes_reads .air h (airBytes a)
  simp only [airBytes, List.append_assoc] at reads ⊢
  rw [airIndex, reads.word32 0, wordAt32_first]

theorem staleFrame_none {s : State} (h : s.tlu.currentIndex = none) (f : Bytes) : s.staleFrame f = false := by
  simp only [State.staleFrame, h]

theorem staleFrame_iff {s : State} {n : Index} (h : s.tlu.currentIndex = some n) (f : Bytes) :
    s.staleFrame f = true ↔ (airIndex f).toInt < n.toInt - 8 := by
  simp only [State.staleFrame, h, decide_eq_true_eq]

/-- A lane 1 that holds one frame alone, when that is stale. -/
theorem Port.shedStale_stale {stale : Bytes → Bool} {f : Bytes} (x : Port) (h : stale f = true) :
    Port.shedStale stale { x with queue1 := [f] } =
      { x with queue1 := [], counts := { x.counts with airStale := up x.counts.airStale } } := by
  simp only [Port.shedStale, List.dropWhile, h, List.length_nil, List.length_singleton, Nat.sub_zero, upBy_one]

theorem Port.shedStale_fresh {stale : Bytes → Bool} {f : Bytes} (x : Port) (h : stale f = false) :
    Port.shedStale stale { x with queue1 := [f] } = { x with queue1 := [f] } := by
  simp only [Port.shedStale, List.dropWhile, h, Nat.sub_self, upBy_zero]

theorem Port.shedStale_nothing {stale : Bytes → Bool} {x : Port} (h : x.queue1 = []) : x.shedStale stale = x := by
  simp only [Port.shedStale, h, List.dropWhile, Nat.sub_self, upBy_zero]
  rw [← h]

/-! ### A frame that joins lane 1 (R61, R65) -/

theorem Port.offer1_queued {x : Port} (up_ : x.link = .up) (opened : x.lane1 = .opened)
    (room : x.queue1.length < 64) : x.offer 1 = .queued := by
  simp only [Port.offer, Port.laneOpen, up_, opened, laneCapacity, Port.laneQueue, beq_self_eq_true, Bool.and_self,
    Bool.not_true, Bool.false_eq_true, if_false, if_neg (Nat.not_le.2 room)]

/-- A frame that joins an empty lane 1 is checked, and the arbiter chooses. -/
theorem offerFrame_lane1_empty {s : State} {p : PortId} (up_ : (s.port p).link = .up)
    (opened : (s.port p).lane1 = .opened) (empty : (s.port p).queue1 = []) (f : Bytes) :
    offerFrame p 1 f s =
      kick p (s.onPort p fun x => Port.shedStale s.staleFrame { x with queue1 := x.queue1 ++ [f] }) := by
  have queued := Port.offer1_queued up_ opened (by rw [empty]; decide)
  have joins : ((s.onPort p fun x => x.join 1 f).port p).queue1.length = 1 := by
    rw [State.onPort_port]
    show ((s.port p).queue1 ++ [f]).length = 1
    rw [empty]
    rfl
  simp only [offerFrame, queued, afterJoin, if_pos joins, dropStale_eq, State.onPort_onPort]
  rfl

/-- A frame that joins behind another is not checked. -/
theorem offerFrame_lane1_behind {s : State} {p : PortId} (up_ : (s.port p).link = .up)
    (opened : (s.port p).lane1 = .opened) (behind : (s.port p).queue1 ≠ []) (room : (s.port p).queue1.length < 64)
    (f : Bytes) : offerFrame p 1 f s = kick p (s.onPort p fun x => { x with queue1 := x.queue1 ++ [f] }) := by
  have joins : ¬ ((s.onPort p fun x => x.join 1 f).port p).queue1.length = 1 := by
    rw [State.onPort_port]
    show ¬ ((s.port p).queue1 ++ [f]).length = 1
    have := List.length_pos_iff.2 behind
    rw [List.length_append, List.length_singleton]
    omega
  simp only [offerFrame, Port.offer1_queued up_ opened room, afterJoin, if_neg joins]
  rfl

theorem kick_nothing {p : PortId} {s : State} (link : (s.port p).linkQueue = []) (zero : (s.port p).queue0 = [])
    (one : (s.port p).queue1 = []) (two : (s.port p).queue2 = []) : kick p s = s := by
  simp only [kick, link, zero, one, two]
  split <;> rfl

theorem kick_lane1 {p : PortId} {s : State} {f : Bytes} {rest : List Bytes} (idle : (s.port p).tx = none)
    (link : (s.port p).linkQueue = []) (zero : (s.port p).queue0 = []) (one : (s.port p).queue1 = f :: rest) :
    kick p s = s.onPort p fun x => Port.shedStale s.staleFrame { x with queue1 := rest, tx := some (.ring 1 f) } := by
  simp only [kick, idle, Option.isSome_none, Bool.false_eq_true, if_false, link, zero, one, dropStale_eq,
    State.onPort_onPort]
  rfl

/-- A frame that meets an empty lane 1: stale it is counted, else it waits behind a frame in transmission, or is sent. -/
theorem airOffered_empty {s : State} {p : PortId} {f : Bytes} (up_ : (s.port p).link = .up)
    (opened : (s.port p).lane1 = .opened) (empty : (s.port p).queue1 = []) :
    let x := s.port p
    (s.staleFrame f = true → (x.tx ≠ none ∨ (x.linkQueue = [] ∧ x.queue0 = [] ∧ x.queue2 = []) →
      offerFrame p 1 f s =
        s.onPort p fun _ => { x with counts := { x.counts with airStale := up x.counts.airStale } })) ∧
    (s.staleFrame f = false → (x.tx ≠ none → offerFrame p 1 f s = s.onPort p fun _ => { x with queue1 := [f] }) ∧
      (x.tx = none → x.linkQueue = [] → x.queue0 = [] →
        offerFrame p 1 f s = s.onPort p fun _ => { x with tx := some (.ring 1 f) })) := by
  intro x
  have offered := offerFrame_lane1_empty up_ opened empty f
  refine ⟨fun stale nothing => ?_, fun fresh => ?_⟩
  · let dropped : Port := { x with counts := { x.counts with airStale := up x.counts.airStale } }
    have sheds : s.onPort p (fun x => Port.shedStale s.staleFrame { x with queue1 := x.queue1 ++ [f] }) =
        s.onPort p fun _ => dropped := by
      refine State.onPort_congr ?_
      rw [empty, List.nil_append, Port.shedStale_stale _ stale, ← empty]
    rw [offered, sheds]
    have port : (s.onPort p fun _ => dropped).port p = dropped := State.onPort_port _ _ _
    obtain busy | ⟨link, zero, two⟩ := nothing
    · exact kick_busy (by rw [port]; exact busy)
    · exact kick_nothing (by rw [port]; exact link) (by rw [port]; exact zero) (by rw [port]; exact empty)
        (by rw [port]; exact two)
  · have stays : s.onPort p (fun x => Port.shedStale s.staleFrame { x with queue1 := x.queue1 ++ [f] }) =
        s.onPort p fun _ => { x with queue1 := [f] } := by
      refine State.onPort_congr ?_
      rw [empty, List.nil_append, Port.shedStale_fresh _ fresh]
    rw [offered, stays]
    have port : (s.onPort p fun _ => { x with queue1 := [f] }).port p = { x with queue1 := [f] } :=
      State.onPort_port _ _ _
    refine ⟨fun busy => kick_busy (by rw [port]; exact busy), fun idle link zero => ?_⟩
    rw [kick_lane1 (f := f) (rest := []) (by rw [port]; exact idle) (by rw [port]; exact link)
      (by rw [port]; exact zero) (by rw [port]), State.onPort_onPort]
    refine State.onPort_congr ?_
    rw [Port.shedStale_nothing rfl]
    show ({ s.port p with queue1 := [], tx := some (.ring 1 f) } : Port) = _
    rw [← empty]

/-! ### The choices of an idle transmitter (R63) -/

section
variable (hello : Bytes) (stale : Bytes → Bool) {x : Port} (idle : x.tx = none)
include idle

theorem Port.choose_hello {rest : List LinkFrame} (link : x.linkQueue = .hello :: rest) :
    x.choose hello stale = { x with linkQueue := rest, tx := some (.hello hello) } := by
  simp only [Port.choose, Port.startLink, idle, Option.isSome_none, Bool.false_eq_true, if_false, link]

theorem Port.choose_hold {sender n : Nat} {rest : List LinkFrame} (link : x.linkQueue = .hold sender n :: rest) :
    x.choose hello stale = { x with linkQueue := rest, tx := some (.hold n (holdBytes sender n)) } := by
  simp only [Port.choose, Port.startLink, idle, Option.isSome_none, Bool.false_eq_true, if_false, link]

theorem Port.choose_lane0 {f : Bytes} {rest : List Bytes} (link : x.linkQueue = []) (zero : x.queue0 = f :: rest) :
    x.choose hello stale = { x with queue0 := rest, tx := some (.ring 0 f) } := by
  simp only [Port.choose, idle, Option.isSome_none, Bool.false_eq_true, if_false, link, zero]

theorem Port.choose_lane1 {f : Bytes} {rest : List Bytes} (link : x.linkQueue = []) (zero : x.queue0 = [])
    (one : x.queue1 = f :: rest) :
    x.choose hello stale = Port.shedStale stale { x with queue1 := rest, tx := some (.ring 1 f) } := by
  simp only [Port.choose, idle, Option.isSome_none, Bool.false_eq_true, if_false, link, zero, one]

theorem Port.choose_lane2 {f : Bytes} {rest : List Bytes} (link : x.linkQueue = []) (zero : x.queue0 = [])
    (one : x.queue1 = []) (two : x.queue2 = f :: rest) (free : x.heldUntil = none) :
    x.choose hello stale = { x with queue2 := rest, tx := some (.ring 2 f) } := by
  simp only [Port.choose, idle, Option.isSome_none, Bool.false_eq_true, if_false, link, zero, one, two, Port.held, free]

theorem Port.choose_none (link : x.linkQueue = []) (zero : x.queue0 = []) (one : x.queue1 = [])
    (nothing : x.queue2 = [] ∨ x.heldUntil.isSome = true) : x.choose hello stale = x := by
  simp only [Port.choose, idle, Option.isSome_none, Bool.false_eq_true, if_false, link, zero, one]
  split
  · contradiction
  · contradiction
  · contradiction
  next f rest _ _ _ two =>
    obtain empty | held := nothing
    · rw [empty] at two
      exact nomatch two
    · exact if_pos held
  · rfl

end

/-! ### A frame sent (R64) -/

theorem frameSent_of_idle {p : PortId} {s : State} (h : (s.port p).tx = none) : frameSent p s = s := by
  simp only [frameSent, h]

theorem frameSent_of_sending {p : PortId} {s : State} {f : TxFrame} (h : (s.port p).tx = some f) :
    frameSent p s = kick p (s.onPort p fun x => { x with tx := none, counts := countSent f x.counts }) := by
  simp only [frameSent, h]

theorem drain_of_blocked {s : State} (h : s.drainBlock ≠ none) : drain s = s := by
  rw [drain]
  cases s.ksp.undrained with
  | zero => rfl
  | succ n =>
    rw [drainLoop]
    split
    next open_ _ => exact absurd open_ h
    · rfl

/-- Where lane 2 of a port is held, an event leaves that port as it is at its end. -/
theorem settle_port_held {s : State} {p : PortId} (held : (s.port p).heldUntil.isSome = true) :
    (settle s).port p = s.port p := by
  by_cases up_ : (s.port p).link = .up
  · have blocked : s.drainBlock ≠ none := fun open_ => by
      have free := (drainBlock_none open_).2 p
      unfold State.portBlock at free
      simp only [up_, ne_eq, not_true_eq_false, if_false, Port.held, held, if_true] at free
      split at free <;> exact nomatch free
    rw [settle, drain_of_blocked blocked, (testDone_foot _).port (by decide),
      (reportFinished_foot _).port (by decide)]
  · exact (settle_drained s p).notUp up_

/-- The port that a frame has left: its sending counted, and the next chosen. -/
def State.sentAndChosen (s : State) (p : PortId) (f : TxFrame) : Port :=
  Port.choose (helloBytes s p) s.staleFrame
    { s.port p with tx := none, counts := countSent f (s.port p).counts }

theorem frameSent_port {p : PortId} {s : State} {f : TxFrame} (h : (s.port p).tx = some f) :
    ∃ r, (frameSent p s).port p = { s.sentAndChosen p f with refreshAt := r } := by
  obtain ⟨r, kicked⟩ :=
    kick_port p (s.onPort p fun x => { x with tx := none, counts := countSent f x.counts })
  rw [State.onPort_port, helloBytes_onPort ⟨rfl, rfl⟩] at kicked
  exact ⟨r, (congrArg (State.port · p) (frameSent_of_sending h)).trans kicked⟩

theorem sentAndChosen_counts (p : PortId) (s : State) (f : TxFrame) :
    (s.sentAndChosen p f).counts =
      { countSent f (s.port p).counts with airStale := (s.sentAndChosen p f).counts.airStale } :=
  (Port.choose_chosen _ _ { s.port p with tx := none, counts := countSent f (s.port p).counts }).counts

/-- What the end of the event leaves of a choice made at the end of a transmission. -/
theorem frameSent_settled {p : PortId} {s : State} {f : TxFrame} (h : (s.port p).tx = some f) :
    let y := (settle (frameSent p s)).port p
    let z := s.sentAndChosen p f
    y.counts.holdSent = (countSent f (s.port p).counts).holdSent ∧
    y.counts.releaseSent = (countSent f (s.port p).counts).releaseSent ∧
    (z.tx ≠ none → y.tx = z.tx ∧ y.queue0 = z.queue0 ∧ y.queue1 = z.queue1 ∧
      y.counts.airStale = z.counts.airStale) ∧
    (z.heldUntil.isSome = true → y.tx = z.tx) := by
  intro y z
  obtain ⟨r, sent⟩ := frameSent_port h
  have drained := settle_drained (frameSent p s) p
  have counts : z.counts = _ := sentAndChosen_counts p s f
  refine ⟨?_, ?_, fun sends => ?_, fun held => ?_⟩
  · rw [show y.counts.holdSent = _ from congrArg PortCounts.holdSent drained.counts, sent, counts]
  · rw [show y.counts.releaseSent = _ from congrArg PortCounts.releaseSent drained.counts, sent, counts]
  · rw [sent] at drained
    obtain ⟨tx, -, zero, one, stale⟩ := drained.busy sends
    exact ⟨tx, zero, one, stale⟩
  · rw [show y = _ from settle_port_held (by rw [sent]; exact held), sent]

theorem countSent_hold (n : Nat) (b : Bytes) (c : PortCounts) :
    (countSent (.hold n b) c).holdSent = upIf (n != 0) c.holdSent ∧
    (countSent (.hold n b) c).releaseSent = upIf (n == 0) c.releaseSent := by
  by_cases zero : n = 0
  · subst zero
    exact ⟨rfl, rfl⟩
  · rw [countSent, if_neg zero, bne_iff_ne.2 zero, beq_false_of_ne zero]
    exact ⟨rfl, rfl⟩

theorem countSent_airStale (f : TxFrame) (c : PortCounts) : (countSent f c).airStale = c.airStale := by
  unfold countSent
  split
  · split <;> rfl
  · rfl
  · rfl

/-- Settles O35: the arbiter takes the first eligible queue, and stale AIR frames are removed as they come to the
head of lane 1. -/
theorem transmissionOrder : Obligations.TransmissionOrder := by
  refine ⟨fun s h a f => ⟨airIndex_ringBytes h a, fun none_ => staleFrame_none none_ f,
    fun n now => staleFrame_iff now f⟩, ?_, ?_⟩
  · intro s p f x port dropped up_ opened
    refine ⟨fun empty => (airOffered_empty up_ opened empty).1, fun empty => (airOffered_empty up_ opened empty).2,
      fun behind room busy => ?_⟩
    refine (offerFrame_lane1_behind up_ opened behind room f).trans (kick_busy ?_)
    rw [State.onPort_port]
    exact busy
  · intro s p x
    refine ⟨fun idle => congrArg (fun t => Host.Outcome.next (settle t)) (frameSent_of_idle idle),
      fun f sending => ⟨_, rfl, ?_⟩⟩
    obtain ⟨holds, releases, chosen, held⟩ := frameSent_settled sending
    let z : Port := { x with tx := none, counts := countSent f x.counts }
    have choice {y : Port} (h : z.choose (helloBytes s p) s.staleFrame = y) : s.sentAndChosen p f = y := h
    have sends {y : Port} {g : TxFrame} (h : z.choose (helloBytes s p) s.staleFrame = y) (tx : y.tx = some g) :
        let y' := (settle (frameSent p s)).port p
        y'.tx = some g ∧ y'.queue0 = y.queue0 ∧ y'.queue1 = y.queue1 ∧
          y'.counts.airStale = y.counts.airStale := by
      have kept := chosen (by rw [choice h, tx]; exact nofun)
      rwa [choice h, tx] at kept
    refine ⟨fun n b hold => ?_, fun rest link => ?_, fun rest sender n link => ?_, fun link g rest zero => ?_,
      fun link zero g rest one => ?_, fun link zero one free g rest two => ?_, fun link zero one h => ?_,
      fun stopped link zero one two => ?_⟩
    · subst hold
      rw [holds, releases]
      exact countSent_hold n b _
    · obtain ⟨tx, zero, one, -⟩ := sends (Port.choose_hello _ _ (x := z) rfl link) rfl
      exact ⟨tx, zero, one⟩
    · obtain ⟨tx, zero, one, -⟩ := sends (Port.choose_hold _ _ (x := z) rfl link) rfl
      exact ⟨tx, zero, one⟩
    · obtain ⟨tx, zero', one, -⟩ := sends (Port.choose_lane0 _ _ (x := z) rfl link zero) rfl
      exact ⟨tx, zero', one⟩
    · obtain ⟨tx, zero', one', count⟩ := sends (Port.choose_lane1 _ _ (x := z) rfl link zero one) rfl
      refine ⟨tx, zero'.trans zero, one', count.trans ?_⟩
      rw [← countSent_airStale f x.counts]
      rfl
    · exact (sends (Port.choose_lane2 _ _ (x := z) rfl link zero one two free) rfl).1
    · have none_ := choice (Port.choose_none _ _ (x := z) rfl link zero one (.inr h))
      have kept := held (by rw [none_]; exact h)
      rw [none_] at kept
      exact kept
    · have none_ := choice (Port.choose_none _ _ (x := z) rfl link zero one (.inl two))
      obtain ⟨r, sent⟩ := frameSent_port sending
      have foot : Foot [.ports] s (frameSent p s) := frameSent_foot _ _
      rw [settle_idle, sent, none_]
      rw [State.performing, foot.tlu (by decide)]
      exact stopped

end Sys2Proof.Machine
end

section
/-! How lane 2 becomes congested and ceases to be (O34). -/

namespace Sys2Proof.Machine

/-! ### What the link-local queue leaves of a port (R45, R63) -/

/-- A port that was offered a HELLO, or had the head of its link-local queue started. -/
structure Port.Greeted (x y : Port) : Prop where
  rest : y = { x with
    linkQueue := y.linkQueue, tx := y.tx, counts := { x.counts with llDrop := y.counts.llDrop } }
  sends : x.tx ≠ none → y.tx = x.tx
  hellos : (∀ f ∈ x.linkQueue, f = .hello) → x.OnlyHello → (∀ f ∈ y.linkQueue, f = .hello) ∧ y.OnlyHello

theorem Port.Greeted.refl (x : Port) : x.Greeted x := ⟨rfl, fun _ => rfl, fun h k => ⟨h, k⟩⟩

theorem Port.Greeted.trans {x y z : Port} (h : x.Greeted y) (k : y.Greeted z) : x.Greeted z where
  rest := by rw [k.rest, h.rest]
  sends b := by
    have sent := h.sends b
    exact (k.sends (by rw [sent]; exact b)).trans sent
  hellos l t := by
    obtain ⟨l', t'⟩ := h.hellos l t
    exact k.hellos l' t'

theorem Port.startLink_greeted (hello : Bytes) (x : Port) : x.Greeted (x.startLink hello) := by
  unfold Port.startLink
  split
  next idle link =>
    exact ⟨rfl, fun b => absurd idle b, fun l _ =>
      ⟨fun f m => l f (by rw [link]; exact .tail _ m), fun f m => ⟨hello, (Option.some.inj m).symm⟩⟩⟩
  next idle link =>
    exact ⟨rfl, fun b => absurd idle b, fun l _ =>
      LinkFrame.noConfusion (l _ (by rw [link]; exact List.mem_cons_self))⟩
  · exact .refl _

theorem Port.takeHello_greeted (hello : Bytes) (x : Port) : x.Greeted (x.takeHello hello) := by
  unfold Port.takeHello Port.joinLink
  split
  · exact .refl _
  · split
    · exact ⟨rfl, fun _ => rfl, fun l t => ⟨l, t⟩⟩
    · have joins : x.Greeted { x with linkQueue := x.linkQueue ++ [.hello] } := ⟨rfl, fun _ => rfl, fun l t =>
        ⟨fun f m => (List.mem_append.1 m).elim (l f) List.mem_singleton.1, t⟩⟩
      exact joins.trans (Port.startLink_greeted _ _)

theorem offerHello_greeted (p : PortId) (s : State) : (s.port p).Greeted ((offerHello p s).port p) := by
  rw [offerHello_eq, State.onPort_port]
  exact Port.takeHello_greeted _ _

theorem offerHello_apart (p : PortId) (s : State) : (offerHello p s).port (other p) = s.port (other p) := by
  rw [offerHello_eq, State.onPort_other]

/-! ### Congestion (R80, R82) -/

theorem startCongestion_port (p : PortId) (s : State) : (startCongestion p s).port p = { s.port p with
    refreshAt := some s.refreshDue
    counts := { (s.port p).counts with congested := up (s.port p).counts.congested } } := by
  rw [startCongestion, offerHold_other, State.onPort_port]

theorem startCongestion_offers (p : PortId) (s : State) :
    s.HoldOffered s.holdTime (s.port (other p)) ((startCongestion p s).port (other p)) := by
  have offered := holdOffered (other p) s.holdTime (s.onPort p fun x => { x with
    refreshAt := some s.refreshDue
    counts := { x.counts with congested := up x.counts.congested } })
  rw [State.onPort_other] at offered
  exact offered

theorem endCongestion_port (p : PortId) (s : State) :
    (endCongestion p s).port p = { s.port p with refreshAt := none } := by
  rw [endCongestion, offerHold_other, State.onPort_port]

theorem endCongestion_offers (p : PortId) (s : State) :
    s.HoldOffered 0 (s.port (other p)) ((endCongestion p s).port (other p)) := by
  have offered := holdOffered (other p) 0 (s.onPort p fun x => { x with refreshAt := none })
  rw [State.onPort_other] at offered
  exact offered

/-- A port whose lane 2 lost frames: what that makes of its congestion, and of the other port. -/
theorem lane2Fell_cases (p : PortId) (s : State) :
    ((s.port p).refreshAt = none ∨ s.lowMark ≤ (s.port p).queue2.length → lane2Fell p s = s) ∧
    ((s.port p).refreshAt.isSome = true → (s.port p).queue2.length < s.lowMark →
      (lane2Fell p s).port p = { s.port p with refreshAt := none } ∧
      s.HoldOffered 0 (s.port (other p)) ((lane2Fell p s).port (other p))) := by
  refine ⟨lane2Fell_stays, fun busy low => ?_⟩
  rw [lane2Fell_falls busy low]
  exact ⟨endCongestion_port p s, endCongestion_offers p s⟩

/-- Lanes that move: the queues flushed, what that ends of a congestion, and the extra HELLO. -/
theorem moveLanes_ports (p : PortId) (l1 l2 : LaneState) (s : State) :
    let t := lane2Fell p (s.onPort p fun x => x.setLanes l1 l2)
    (t.port p).Greeted ((moveLanes p l1 l2 s).port p) ∧ (moveLanes p l1 l2 s).port (other p) = t.port (other p) := by
  intro t
  unfold moveLanes
  dsimp only
  split
  · exact ⟨.refl _, rfl⟩
  · exact ⟨offerHello_greeted _ _, offerHello_apart _ _⟩

/-! ### A port that leaves UP (R55) -/

/-- The port as it left UP, and what the end of its congestion brought to the other one. -/
def leftUp (p : PortId) (dest : LinkState) (s : State) : State :=
  if (s.port p).congested then offerHold (other p) 0 (s.onPort p fun x => x.leave dest)
  else s.onPort p fun x => x.leave dest

/-- The port that has left UP, with the extra HELLO for the lanes that closed. -/
def leftGreeted (p : PortId) (dest : LinkState) (s : State) : State :=
  if (s.port p).lane1 = .closed ∧ (s.port p).lane2 = .closed then leftUp p dest s
  else offerHello p (leftUp p dest s)

theorem leaveUp_eq (p : PortId) (dest : LinkState) (s : State) :
    leaveUp p dest s = raiseAttn .link (.link p dest) (startLinkLocal p (leftGreeted p dest s)) := rfl

theorem leftUp_foot (p : PortId) (dest : LinkState) (s : State) : Foot [.ports] s (leftUp p dest s) := by
  unfold leftUp
  split
  · exact (State.onPort_foot _ _ _).seq (offerHold_foot _ _ _)
  · exact State.onPort_foot _ _ _

theorem leftGreeted_foot (p : PortId) (dest : LinkState) (s : State) : Foot [.ports] s (leftGreeted p dest s) := by
  unfold leftGreeted
  split
  · exact leftUp_foot _ _ _
  · exact (leftUp_foot _ _ _).seq (offerHello_foot _ _)

theorem leftUp_port (p : PortId) (dest : LinkState) (s : State) :
    (leftUp p dest s).port p = (s.port p).leave dest := by
  unfold leftUp
  split
  · rw [offerHold_other, State.onPort_port]
  · rw [State.onPort_port]

theorem leftUp_other (p : PortId) (dest : LinkState) (s : State) :
    ((s.port p).refreshAt = none → (leftUp p dest s).port (other p) = s.port (other p)) ∧
    ((s.port p).refreshAt.isSome = true →
      s.HoldOffered 0 (s.port (other p)) ((leftUp p dest s).port (other p))) := by
  refine ⟨fun calm => ?_, fun busy => ?_⟩
  · have not_congested : ¬ (s.port p).congested = true := by simp [Port.congested, calm]
    rw [leftUp, if_neg not_congested, State.onPort_other]
  · have offered := holdOffered (other p) 0 (s.onPort p fun x => x.leave dest)
    rw [State.onPort_other] at offered
    have congested : (s.port p).congested = true := busy
    rw [leftUp, if_pos congested]
    exact offered

theorem leftGreeted_ports (p : PortId) (dest : LinkState) (s : State) :
    ((s.port p).leave dest).Greeted ((leftGreeted p dest s).port p) ∧
    (leftGreeted p dest s).port (other p) = (leftUp p dest s).port (other p) := by
  unfold leftGreeted
  split
  · rw [leftUp_port]
    exact ⟨.refl _, rfl⟩
  · have greeted := offerHello_greeted p (leftUp p dest s)
    rw [leftUp_port] at greeted
    exact ⟨greeted, offerHello_apart _ _⟩

theorem leaveUp_port (p : PortId) (dest : LinkState) (s : State) :
    ((s.port p).leave dest).Greeted ((leaveUp p dest s).port p) := by
  rw [leaveUp_eq, (raiseAttn_foot _ _ _).port (by decide), startLinkLocal_eq, State.onPort_port]
  exact (leftGreeted_ports p dest s).1.trans (Port.startLink_greeted _ _)

theorem leaveUp_other (p : PortId) (dest : LinkState) (s : State) :
    (leaveUp p dest s).port (other p) = (leftUp p dest s).port (other p) := by
  rw [leaveUp_eq, (raiseAttn_foot _ _ _).port (by decide), startLinkLocal_eq, State.onPort_other]
  exact (leftGreeted_ports p dest s).2

theorem leaveUp_csu (p : PortId) (dest : LinkState) (s : State) :
    (leaveUp p dest s).csu = s.csu.raise .link (.link p dest) := by
  have foot := (leftGreeted_foot p dest s).seq (startLinkLocal_foot p _)
  rw [leaveUp_eq, raiseAttn_csu, foot.csu_eq]

/-! ### A port that goes to DOWN (R53, R64) -/

/-- The port as it has arrived in DOWN, or in LISTEN behind that. -/
def Port.arrive (x : Port) : Port :=
  { x with link := if x.carrier then .listen else .down, cause := {}, neighbour := none, silence := none }

theorem goDown_up {p : PortId} {s : State} (up_ : (s.port p).link = .up) :
    goDown p s = (leaveUp p .down (s.onPort p Port.abort)).onPort p Port.arrive := by
  unfold goDown
  dsimp only
  rw [if_pos up_]
  rfl

theorem goDown_notUp {p : PortId} {s : State} (notUp : (s.port p).link ≠ .up) :
    goDown p s = (startLinkLocal p (s.onPort p Port.abort)).onPort p Port.arrive := by
  unfold goDown
  dsimp only
  rw [if_neg notUp]
  rfl

/-- Settles O34: lane 2 rises and falls, and HOLD follows. -/
theorem congestionStartsAndEnds : Obligations.CongestionStartsAndEnds := by
  intro s p x y
  refine ⟨fun f queued busy => ?_, fun g f rest sending link zero one free two => ?_,
    fun l1 l2 opened closes low => ?_, fun up_ => ?_⟩
  · intro t joined
    let j := s.onPort p fun x => x.join 2 f
    have port : j.port p = joined := State.onPort_port _ _ _
    have other_ : j.port (other p) = y := State.onPort_other _ _ _
    have offered : t = kick p (lane2Rose p j) := by
      simp only [t, offerFrame, show (s.port p).offer 2 = _ from queued]
      rfl
    have length : (j.port p).queue2.length = x.queue2.length + 1 := by
      rw [port]
      exact List.length_append
    have foot : Foot [.ports] s t := offerFrame_foot _ _ _ _
    obtain ⟨enabled, digest, helloAt⟩ := foot.link (by decide)
    refine ⟨foot.eq_ports, helloAt, enabled, digest, fun stays => ?_, fun calm high => ?_⟩
    · have same : t = j := by
        rw [offered, lane2Rose_stays]
        · exact kick_busy (by rw [port]; exact busy)
        · rw [length, port]
          exact stays
      rw [same]
      exact ⟨port, other_⟩
    · have rises : t = startCongestion p j := by
        rw [offered, lane2Rose_rises]
        · exact kick_busy (by rw [startCongestion_port, port]; exact busy)
        · rw [port]
          exact calm
        · rw [length]
          exact high
      rw [rises, startCongestion_port, port]
      have offers := startCongestion_offers p j
      rw [other_] at offers
      refine ⟨?_, offers⟩
      rw [State.refreshDue, micros, Nat.mul_comm]
      rfl
  · let z : Port := { x with tx := some (.ring 2 f), queue2 := rest, counts := countSent g x.counts }
    let v := s.onPort p fun _ => z
    have port : v.port p = z := State.onPort_port _ _ _
    have other_ : v.port (other p) = y := State.onPort_other _ _ _
    have sent : frameSent p s = lane2Fell p v := by
      have port' : (s.onPort p fun x => { x with tx := none, counts := countSent g x.counts }).port p = _ :=
        State.onPort_port _ _ _
      rw [frameSent_of_sending sending, kick_lane2 (f := f) (rest := rest), State.onPort_onPort]
      · exact congrArg (lane2Fell p) (State.onPort_congr rfl)
      all_goals rw [port']
      all_goals assumption
    obtain ⟨stays, falls⟩ := lane2Fell_cases p v
    obtain ⟨r, fell⟩ := lane2Fell_port p v
    rw [port] at stays falls fell
    refine ⟨_, congrArg (fun t => Host.Outcome.next (settle t)) sent, by rw [fell], by rw [fell], fun h => ?_,
      fun busy low => ?_⟩
    · rw [stays h, port]
      exact ⟨rfl, other_⟩
    · obtain ⟨own, offers⟩ := falls busy low
      rw [other_] at offers
      rw [own]
      exact ⟨rfl, offers⟩
  · intro t
    let v := s.onPort p fun x => x.setLanes l1 l2
    have port : v.port p = x.setLanes l1 l2 := State.onPort_port _ _ _
    have other_ : v.port (other p) = y := State.onPort_other _ _ _
    have leaves : leavesOpen x.lane2 l2 = true := by simp [leavesOpen, opened, closes]
    have empty : (x.setLanes l1 l2).queue2 = [] := if_pos leaves
    obtain ⟨greeted, apart⟩ := moveLanes_ports p l1 l2 s
    obtain ⟨stays, falls⟩ := lane2Fell_cases p v
    rw [port, empty] at stays falls
    have calm : ((lane2Fell p v).port p).refreshAt = none ∧ ((lane2Fell p v).port p).queue2 = [] := by
      cases busy : x.refreshAt with
      | none =>
        rw [stays (.inl busy), port]
        exact ⟨busy, empty⟩
      | some d =>
        rw [(falls (by rw [show (x.setLanes l1 l2).refreshAt = _ from busy]; rfl) low).1]
        exact ⟨rfl, empty⟩
    refine ⟨?_, ?_, fun none_ => ?_, fun busy => ?_⟩
    · exact (congrArg Port.queue2 greeted.rest).trans calm.2
    · exact (congrArg Port.refreshAt greeted.rest).trans calm.1
    · rw [apart, stays (.inl none_)]
      exact other_
    · have offers := (falls busy low).2
      rw [other_] at offers
      rw [apart]
      exact offers
  · let c : Port := { x with carrier := false, counts := { x.counts with carrierLoss := up x.counts.carrierLoss } }
    let a := s.onPort p fun _ => c.abort
    have lost : carrierLost p s = (leaveUp p .down a).onPort p Port.arrive := by
      have up' : (s.port p).link = .up := up_
      have still_up : (((s.onPort p fun x => { x with carrier := false }).countPort p
          fun c => { c with carrierLoss := up c.carrierLoss }).port p).link = .up := by
        rw [State.countPort_eq, State.onPort_onPort, State.onPort_port]
        exact up'
      simp only [carrierLost, up', reduceCtorEq, if_false]
      rw [goDown_up still_up, State.countPort_eq, State.onPort_onPort, State.onPort_onPort]
      exact congrArg (fun t => State.onPort p Port.arrive (leaveUp p .down t)) (State.onPort_congr rfl)
    have port : a.port p = c.abort := State.onPort_port _ _ _
    have other_ : a.port (other p) = y := State.onPort_other _ _ _
    obtain ⟨apart, offers⟩ := leftUp_other p .down a
    rw [port, other_] at apart offers
    refine ⟨_, congrArg (fun t => Host.Outcome.next (settle t)) lost, ?_, ?_⟩
    · rw [State.onPort_port]
      exact congrArg Port.refreshAt (leaveUp_port p .down a).rest
    · rw [State.onPort_other, leaveUp_other]
      exact ⟨apart, offers⟩

end Sys2Proof.Machine
end

section
/-! How a port goes to DOWN (O30). -/

namespace Sys2Proof.Machine

/-! ### A port in DOWN (R53, R55, R64, Table 4-9) -/

theorem Port.abort_only (x : Port) : x.abort.OnlyHello := by
  intro f sends
  have down : txInDown x.tx = some f := sends
  unfold txInDown at down
  split at down
  next b _ => exact ⟨b, (Option.some.inj down).symm⟩
  · exact nomatch down
  · exact nomatch down
  · exact nomatch down

theorem filter_hellos (q : List LinkFrame) : ∀ f ∈ q.filter LinkFrame.isHello, f = .hello := by
  intro f m
  have kept := (List.mem_filter.1 m).2
  cases f with
  | hello => rfl
  | hold _ _ => exact nomatch kept

theorem filter_holds (q : List LinkFrame) :
    (q.filter fun f => !f.isHello) = q.filter fun f => f != .hello :=
  List.filter_congr fun f _ => by cases f <;> rfl

/-- A port that has gone to DOWN, from the port before. -/
structure Port.Gone (x y : Port) : Prop where
  link : y.link = if x.carrier then .listen else .down
  carrier : y.carrier = x.carrier
  neighbour : y.neighbour = none
  silence : y.silence = none
  cause : y.cause = {}
  completes : ∀ b, x.tx = some (.hello b) → y.tx = x.tx ∧ y.counts.txAbort = x.counts.txAbort
  idle : x.tx = none → y.counts.txAbort = x.counts.txAbort
  aborts : (∃ n b, x.tx = some (.ring n b)) ∨ (∃ n b, x.tx = some (.hold n b)) →
    y.counts.txAbort = up x.counts.txAbort
  hellos : x.link = .up ∨ (∀ f ∈ x.linkQueue, f = .hello) → (∀ f ∈ y.linkQueue, f = .hello) ∧ y.OnlyHello
  left : x.link = .up → y.seen1 = false ∧ y.seen2 = false ∧ y.lane1 = .closed ∧ y.lane2 = .closed ∧
    y.queue0 = [] ∧ y.queue1 = [] ∧ y.queue2 = [] ∧ y.heldUntil = none ∧ y.refreshAt = none ∧
    y.counts.linkLost = up x.counts.linkLost ∧
    y.counts.flushL0 = upBy x.counts.flushL0 x.queue0.length ∧
    y.counts.flushL1 = upBy x.counts.flushL1 x.queue1.length ∧
    y.counts.flushL2 = upBy x.counts.flushL2 x.queue2.length ∧
    y.counts.flushLL = upBy x.counts.flushLL (x.linkQueue.filter fun f => f != .hello).length
  counted : y.counts.carrierLoss = x.counts.carrierLoss ∧ y.counts.silence = x.counts.silence

/-- A port aborted, and greeted in whatever way, arrives in DOWN; `w` is the port aborted, or that which left UP. -/
theorem Port.arrive_gone {x w z : Port} (greeted : w.Greeted z)
    (start : w = x.abort ∧ x.link ≠ .up ∨ w = x.abort.leave .down ∧ x.link = .up) : x.Gone z.arrive := by
  have carrier : z.carrier = x.carrier := by
    rw [greeted.rest]
    obtain ⟨rfl, -⟩ | ⟨rfl, -⟩ := start <;> rfl
  have tx : w.tx = txInDown x.tx := by obtain ⟨rfl, -⟩ | ⟨rfl, -⟩ := start <;> rfl
  have abort : z.counts.txAbort = upIf (x.tx.isSome && (txInDown x.tx).isNone) x.counts.txAbort := by
    rw [greeted.rest]
    obtain ⟨rfl, -⟩ | ⟨rfl, -⟩ := start <;> rfl
  refine {
    link := congrArg (fun c : Bool => if c then LinkState.listen else .down) carrier
    carrier := carrier
    neighbour := rfl
    silence := rfl
    cause := rfl
    completes := fun b sends => ?_
    idle := fun none_ => by rw [none_] at abort; exact abort
    aborts := fun cut => ?_
    hellos := fun all => ?_
    left := fun up_ => ?_
    counted := ?_ }
  · rw [sends] at tx abort
    refine ⟨(greeted.sends ?_).trans (tx.trans sends.symm), abort⟩
    rw [tx]
    exact nofun
  · obtain ⟨n, b, cut⟩ | ⟨n, b, cut⟩ := cut
    all_goals
      rw [cut] at abort
      exact abort
  · refine greeted.hellos ?_ ?_
    · obtain ⟨rfl, notUp⟩ | ⟨rfl, -⟩ := start
      · exact all.resolve_left notUp
      · exact filter_hellos _
    · obtain ⟨rfl, -⟩ | ⟨rfl, -⟩ := start <;> exact Port.abort_only x
  · obtain ⟨-, notUp⟩ | ⟨rfl, -⟩ := start
    · exact absurd up_ notUp
    · rw [greeted.rest, ← filter_holds]
      exact ⟨rfl, rfl, rfl, rfl, rfl, rfl, rfl, rfl, rfl, rfl, rfl, rfl, rfl, rfl⟩
  · show z.counts.carrierLoss = _ ∧ z.counts.silence = _
    rw [greeted.rest]
    obtain ⟨rfl, -⟩ | ⟨rfl, -⟩ := start <;> exact ⟨rfl, rfl⟩

theorem goDown_gone (p : PortId) (s : State) : (s.port p).Gone ((goDown p s).port p) := by
  by_cases up_ : (s.port p).link = .up
  · have greeted := leaveUp_port p .down (s.onPort p Port.abort)
    rw [State.onPort_port] at greeted
    rw [goDown_up up_, State.onPort_port]
    exact Port.arrive_gone greeted (.inr ⟨rfl, up_⟩)
  · rw [goDown_notUp up_, State.onPort_port, startLinkLocal_eq, State.onPort_port, State.onPort_port]
    exact Port.arrive_gone (Port.startLink_greeted _ _) (.inl ⟨rfl, up_⟩)

theorem goDown_csu (p : PortId) (s : State) :
    (goDown p s).csu = if (s.port p).link = .up then s.csu.raise .link (.link p .down) else s.csu := by
  split
  next up_ =>
    rw [goDown_up up_, State.onPort_csu, leaveUp_csu]
    rfl
  next notUp =>
    have foot := (State.onPort_foot p Port.abort s).seq (startLinkLocal_foot p _)
    rw [goDown_notUp notUp, State.onPort_csu, foot.csu_eq]

theorem goDown_now (p : PortId) (s : State) : (goDown p s).now = s.now := (goDown_foot p s).now (by decide)

/-- A port outside UP is not touched at the end of an event. -/
theorem settle_port_notUp {s : State} {p : PortId} (notUp : (s.port p).link ≠ .up) :
    (settle s).port p = s.port p :=
  (settle_drained s p).notUp notUp

theorem settle_gone (p : PortId) (s : State) : (s.port p).Gone ((settle (goDown p s)).port p) := by
  have gone := goDown_gone p s
  rw [settle_port_notUp]
  · exact gone
  · rw [gone.link]
    split <;> exact nofun

/-- Settles O30: a port goes to DOWN with what that clears, aborts and counts. -/
theorem portGoesDown : Obligations.PortGoesDown := by
  intro s p x gone
  have isGone {w y : Port} {c : Bool} (h : w.Gone y) (carrier : w.carrier = c) (link : w.link = x.link)
      (tx : w.tx = x.tx) (queues : w.linkQueue = x.linkQueue ∧ w.queue0 = x.queue0 ∧ w.queue1 = x.queue1 ∧
        w.queue2 = x.queue2)
      (counts : w.counts = { x.counts with carrierLoss := w.counts.carrierLoss, silence := w.counts.silence }) :
      gone y c := by
    obtain ⟨q, zero, one, two⟩ := queues
    have hellos := h.hellos
    have left := h.left
    have completes := h.completes
    have idle := h.idle
    have aborts := h.aborts
    rw [link, q] at hellos
    rw [link, q, zero, one, two, counts] at left
    rw [tx, counts] at completes idle aborts
    exact ⟨by rw [← carrier]; exact h.link, h.carrier.trans carrier, h.neighbour, h.silence, h.cause, completes, idle,
      aborts, hellos, left⟩
  refine ⟨fun down => ?_, fun carried => ?_, fun none_ => ?_, fun d runs => ?_⟩
  · refine ⟨_, rfl, congrArg settle ?_⟩
    exact if_pos down
  · let u := (s.onPort p fun x => { x with carrier := false }).countPort p
      fun c => { c with carrierLoss := up c.carrierLoss }
    have port : u.port p =
        { x with carrier := false, counts := { x.counts with carrierLoss := up x.counts.carrierLoss } } := by
      refine (State.onPort_port _ _ _).trans ?_
      rw [State.onPort_port]
    have lost : carrierLost p s = goDown p u := if_neg carried
    have down := settle_gone p u
    rw [port] at down
    refine ⟨_, congrArg (fun t => Host.Outcome.next (settle t)) lost, isGone down rfl rfl rfl ⟨rfl, rfl, rfl, rfl⟩ rfl,
      down.counted.1, ?_⟩
    rw [settle_csu, goDown_csu, port]
    rfl
  · have waits : silenceExpires p s = s := by
      simp only [silenceExpires]
      rw [show (s.port p).silence = none from none_]
    exact congrArg (fun t => Host.Outcome.next (settle t)) waits
  · let u := (s.reach d).countPort p fun c => { c with silence := up c.silence }
    have port : u.port p = { x with counts := { x.counts with silence := up x.counts.silence } } := by
      exact (State.onPort_port _ _ _).trans rfl
    have expires : silenceExpires p s = goDown p u := by
      simp only [silenceExpires]
      rw [show (s.port p).silence = some d from runs]
    have down := settle_gone p u
    rw [port] at down
    refine ⟨_, congrArg (fun t => Host.Outcome.next (settle t)) expires, ?_,
      isGone down rfl rfl rfl ⟨rfl, rfl, rfl, rfl⟩ rfl, down.counted.2, ?_⟩
    · rw [settle_now, goDown_now]
      rfl
    · rw [settle_csu, goDown_csu, port]
      rfl

end Sys2Proof.Machine
end

section
/-! How a port takes a HELLO (O31). -/

namespace Sys2Proof.Machine

/-! ### The lanes by a HELLO (Table 4-6) -/

theorem laneOnUp_spec (enable seen : Bool) :
    laneOnUp false enable seen = .closed ∧ (laneOnUp true enable seen = .opened ↔ enable = true ∧ seen = true) ∧
    laneOnUp true enable seen ≠ .closed := by
  cases enable <;> cases seen <;> decide

theorem laneOnHello_spec (own enable seen : Bool) (l : LaneState) :
    (laneOnHello own enable seen l = .opened ↔ enable = true ∧ seen = true ∧ (l ≠ .closed ∨ own = true)) ∧
    (laneOnHello own enable seen l = .closed ↔ enable = false ∨ (l = .closed ∧ own = false)) := by
  cases own <;> cases enable <;> cases seen <;> cases l <;> decide

/-! ### Each way that a HELLO is taken (R50 to R52) -/

theorem barPort_port (p : PortId) (old new : BarCause) (h : Neighbour) (s : State) :
    (barPort p old new h s).port p = (s.port p).bar old new h s.silenceDue := by
  rw [(barPort_bar p old new h s).port (by decide), State.onPort_port]

/-- What the causes new to a port raise. -/
def Csu.raiseBarred (p : PortId) (old new : BarCause) (u : Csu) : Csu :=
  let v := if new.digest && !old.digest then u.raise .link (.link p .barred) else u
  if new.dupid && !old.dupid then v.raise .dupid (.barredDupid p) else v

theorem barPort_csu (p : PortId) (old new : BarCause) (h : Neighbour) (s : State) :
    (barPort p old new h s).csu = s.csu.raiseBarred p old new := by
  unfold barPort Csu.raiseBarred
  dsimp only
  by_cases digest : (new.digest && !old.digest) = true <;> by_cases dupid : (new.dupid && !old.dupid) = true
  all_goals
    simp only [digest, dupid, if_true, if_false, Bool.false_eq_true, raiseAttn_csu]
    rfl

/-- The port as it enters UP, before the extra HELLO. -/
def Port.enter (own : Bool) (h : Neighbour) (due : Time) (x : Port) : Port :=
  { x.heard h due with
    link := .up
    cause := {}
    seen1 := h.enable1
    seen2 := h.enable2
    lane1 := laneOnUp own h.enable1 h.seen1
    lane2 := laneOnUp own h.enable2 h.seen2
    heldUntil := none
    refreshAt := none }

theorem enterUp_port (p : PortId) (h : Neighbour) (s : State) :
    ((s.port p).enter s.lku.enabled h s.silenceDue).Greeted ((enterUp p h s).port p) := by
  have greeted := offerHello_greeted p (s.onPort p (Port.enter s.lku.enabled h s.silenceDue))
  rw [State.onPort_port] at greeted
  exact greeted

theorem enterUp_csu (p : PortId) (h : Neighbour) (s : State) : (enterUp p h s).csu = s.csu :=
  (enterUp_foot p h s).csu_eq

/-- The port that takes a HELLO of its neighbour in UP, before the extra HELLO. -/
def Port.keep (own : Bool) (h : Neighbour) (due : Time) (x : Port) : Port :=
  Port.setLanes { x.heard h due with seen1 := h.enable1, seen2 := h.enable2 }
    (laneOnHello own h.enable1 h.seen1 x.lane1) (laneOnHello own h.enable2 h.seen2 x.lane2)

theorem keepUp_port (p : PortId) (h : Neighbour) (s : State) : ∃ r,
    Port.Greeted { (s.port p).keep s.lku.enabled h s.silenceDue with refreshAt := r } ((keepUp p h s).port p) := by
  let v := s.onPort p fun x => { x.heard h s.silenceDue with seen1 := h.enable1, seen2 := h.enable2 }
  let l1 := laneOnHello s.lku.enabled h.enable1 h.seen1 (s.port p).lane1
  let l2 := laneOnHello s.lku.enabled h.enable2 h.seen2 (s.port p).lane2
  obtain ⟨r, fell⟩ := lane2Fell_port p (v.onPort p fun x => x.setLanes l1 l2)
  have greeted := (moveLanes_ports p l1 l2 v).1
  rw [fell, State.onPort_port, State.onPort_port] at greeted
  exact ⟨r, greeted⟩

theorem keepUp_csu (p : PortId) (h : Neighbour) (s : State) : (keepUp p h s).csu = s.csu := by
  have foot : Foot [.ports] s (keepUp p h s) := (State.onPort_foot _ _ _).seq (moveLanes_foot _ _ _ _)
  exact foot.csu_eq

/-! ### Which way a HELLO is taken -/

section
variable {s : State} {p : PortId} {h : Neighbour}

/-- The cause that a port already has. -/
def Port.oldCause (x : Port) : BarCause := if x.link = .barred then x.cause else {}

theorem helloTaken_bars (barred : (s.barCauseOf h).clear = false) (down : (s.port p).link ≠ .down)
    (notUp : (s.port p).link ≠ .up) :
    helloTaken p h s = barPort p (s.port p).oldCause (s.barCauseOf h) h s := by
  unfold helloTaken Port.oldCause
  dsimp only
  split
  · contradiction
  next link => simp only [listenHello, barred, link, reduceCtorEq, if_false, Bool.false_eq_true]
  next link => simp only [barred, link, if_true, if_false, Bool.false_eq_true]
  · contradiction

theorem helloTaken_leavesBarred (barred : (s.barCauseOf h).clear = false) (up_ : (s.port p).link = .up) :
    helloTaken p h s = barPort p {} (s.barCauseOf h) h (leaveUp p .barred s) := by
  simp only [helloTaken, up_, barred, Bool.false_eq_true, if_false]

theorem helloTaken_enters (clear : (s.barCauseOf h).clear = true) (down : (s.port p).link ≠ .down)
    (notUp : (s.port p).link ≠ .up) : helloTaken p h s = enterUp p h s := by
  unfold helloTaken
  dsimp only
  split
  · contradiction
  · simp only [listenHello, clear, if_true]
  · simp only [clear, if_true]
  · contradiction

theorem helloTaken_keeps (clear : (s.barCauseOf h).clear = true) (up_ : (s.port p).link = .up)
    (same : (s.port p).neighbour.map (·.station) = some h.station) : helloTaken p h s = keepUp p h s := by
  simp only [helloTaken, up_, clear, if_true, same]

theorem helloTaken_changes (clear : (s.barCauseOf h).clear = true) (up_ : (s.port p).link = .up)
    (another : (s.port p).neighbour.map (·.station) ≠ some h.station) :
    helloTaken p h s = enterUp p h (leaveUp p .listen
      (s.countPort p fun c => { c with neighbourChange := up c.neighbourChange })) := by
  let t := leaveUp p .listen (s.countPort p fun c => { c with neighbourChange := up c.neighbourChange })
  have foot : Foot [.ports, .attn] s t := (State.onPort_foot _ _ _).grow.seq (leaveUp_foot _ _ _)
  have cause : t.barCauseOf h = s.barCauseOf h := by
    obtain ⟨-, digest, -⟩ := foot.link (by decide)
    have config : t.csu.config = s.csu.config := (congrArg Csu.config (foot.console (by decide)) :)
    simp only [State.barCauseOf, State.ownId, digest, config]
  simp only [helloTaken, up_, clear, if_true, another, if_false]
  rw [listenHello, show (t.barCauseOf h).clear = true by rw [cause]; exact clear, if_pos rfl]

end

theorem receiveFrame_hello {s : State} {p : PortId} {bs : Bytes} {h : Neighbour}
    (open_ : s.unconfigured = false ∧ (s.port p).link ≠ .down) (sound : bs.length ≤ 3072 ∧ crcGood bs = true)
    (kind : byteAt bs 0 = 1) (valid : parseHello s.now bs = some h) :
    receiveFrame p bs s = helloTaken p h s := by
  rw [receiveFrame_sound open_ sound, if_pos kind, receiveHello, valid]

/-! ### The port at the end of the event -/

/-- A port that was greeted and drained: what it learnt and its congestion stand, and three counters may move. -/
structure Port.Settles (x y : Port) : Prop where
  steady : x.Steady y
  calm : y.refreshAt = x.refreshAt
  counts : y.counts = { x.counts with
    llDrop := y.counts.llDrop, qfullL2 := y.counts.qfullL2, airStale := y.counts.airStale }

theorem Port.Greeted.settles {x y : Port} (h : x.Greeted y) : x.Settles y := by
  refine ⟨?_, by rw [h.rest], by rw [h.rest]⟩
  rw [h.rest]
  exact ⟨rfl, rfl, rfl, rfl, rfl, rfl, rfl, rfl, rfl, rfl⟩

theorem Port.Drained.settles {x y : Port} (h : x.Drained y) : x.Settles y :=
  ⟨h.steady, h.calm, by rw [h.counts]⟩

theorem Port.Settles.trans {x y z : Port} (h : x.Settles y) (k : y.Settles z) : x.Settles z :=
  ⟨h.steady.trans k.steady, k.calm.trans h.calm, by rw [k.counts, h.counts]⟩

section
variable {s : State} {p : PortId} {h : Neighbour}

theorem settle_bars (barred : (s.barCauseOf h).clear = false) (down : (s.port p).link ≠ .down)
    (notUp : (s.port p).link ≠ .up) :
    let t := settle (helloTaken p h s)
    t.port p = (s.port p).bar (s.port p).oldCause (s.barCauseOf h) h s.silenceDue ∧
    t.csu = s.csu.raiseBarred p (s.port p).oldCause (s.barCauseOf h) := by
  intro t
  have port := barPort_port p (s.port p).oldCause (s.barCauseOf h) h s
  have taken := helloTaken_bars barred down notUp
  refine ⟨?_, ?_⟩
  · rw [show t.port p = _ from settle_port_notUp (by rw [taken, port]; exact nofun), taken, port]
  · rw [show t.csu = _ from settle_csu _, taken, barPort_csu]

theorem settle_leavesBarred (barred : (s.barCauseOf h).clear = false) (up_ : (s.port p).link = .up) :
    let t := settle (helloTaken p h s)
    (∃ z, ((s.port p).leave .barred).Greeted z ∧ t.port p = z.bar {} (s.barCauseOf h) h s.silenceDue) ∧
    t.csu = (s.csu.raise .link (.link p .barred)).raiseBarred p {} (s.barCauseOf h) := by
  intro t
  let u := leaveUp p .barred s
  have due : u.silenceDue = s.silenceDue := congrArg (· + millis 4) ((leaveUp_foot p .barred s).now (by decide))
  have port := barPort_port p {} (s.barCauseOf h) h u
  have taken := helloTaken_leavesBarred barred up_
  refine ⟨⟨_, leaveUp_port p .barred s, ?_⟩, ?_⟩
  · rw [show t.port p = _ from settle_port_notUp (by rw [taken, port]; exact nofun), taken, port, due]
  · rw [show t.csu = _ from settle_csu _, taken, barPort_csu, leaveUp_csu]

theorem settle_enters (clear : (s.barCauseOf h).clear = true) (down : (s.port p).link ≠ .down)
    (notUp : (s.port p).link ≠ .up) :
    let t := settle (helloTaken p h s)
    ((s.port p).enter s.lku.enabled h s.silenceDue).Settles (t.port p) ∧ t.csu = s.csu := by
  intro t
  have drained : ((helloTaken p h s).port p).Drained (t.port p) := settle_drained _ p
  have taken := helloTaken_enters clear down notUp
  rw [taken] at drained
  refine ⟨(enterUp_port p h s).settles.trans drained.settles, ?_⟩
  rw [show t.csu = _ from settle_csu _, taken, enterUp_csu]

theorem settle_keeps (clear : (s.barCauseOf h).clear = true) (up_ : (s.port p).link = .up)
    (same : (s.port p).neighbour.map (·.station) = some h.station) :
    let t := settle (helloTaken p h s)
    (∃ r, Port.Settles { (s.port p).keep s.lku.enabled h s.silenceDue with refreshAt := r } (t.port p)) ∧
    t.csu = s.csu := by
  intro t
  have drained : ((helloTaken p h s).port p).Drained (t.port p) := settle_drained _ p
  have taken := helloTaken_keeps clear up_ same
  rw [taken] at drained
  obtain ⟨r, greeted⟩ := keepUp_port p h s
  refine ⟨⟨r, greeted.settles.trans drained.settles⟩, ?_⟩
  rw [show t.csu = _ from settle_csu _, taken, keepUp_csu]

theorem settle_changes (clear : (s.barCauseOf h).clear = true) (up_ : (s.port p).link = .up)
    (another : (s.port p).neighbour.map (·.station) ≠ some h.station) :
    let t := settle (helloTaken p h s)
    let x := s.port p
    let counted : Port := { x with counts := { x.counts with neighbourChange := up x.counts.neighbourChange } }
    (∃ z, (counted.leave .listen).Greeted z ∧ (z.enter s.lku.enabled h s.silenceDue).Settles (t.port p)) ∧
    t.csu = s.csu.raise .link (.link p .listen) := by
  intro t x counted
  let c := s.countPort p fun c => { c with neighbourChange := up c.neighbourChange }
  let u := leaveUp p .listen c
  have foot : Foot [.ports, .attn] s u := (State.onPort_foot _ _ _).grow.seq (leaveUp_foot _ _ _)
  have due : u.silenceDue = s.silenceDue := congrArg (· + millis 4) (foot.now (by decide))
  have enabled : u.lku.enabled = s.lku.enabled := (foot.link (by decide)).1
  have left := leaveUp_port p .listen c
  rw [show c.port p = counted from State.onPort_port _ _ _] at left
  have drained : ((helloTaken p h s).port p).Drained (t.port p) := settle_drained _ p
  have taken : helloTaken p h s = enterUp p h u := helloTaken_changes clear up_ another
  have entered := enterUp_port p h u
  rw [taken] at drained
  rw [due, enabled] at entered
  refine ⟨⟨_, left, entered.settles.trans drained.settles⟩, ?_⟩
  rw [show t.csu = _ from settle_csu _, taken, enterUp_csu, leaveUp_csu]
  rfl

end

end Sys2Proof.Machine

namespace Sys2Proof
open Machine

/-- Settles O31: a HELLO bars a port, brings it up, or moves its lanes. -/
theorem helloTaken : Obligations.HelloTaken := by
  refine ⟨laneOnUp_spec, laneOnHello_spec, ?_⟩
  intro s p bs h configured short good kind valid down x digest dupid old raises
  have received := receiveFrame_hello ⟨configured, down⟩ ⟨short, good⟩ kind valid
  refine ⟨_, congrArg (fun t => Host.Outcome.next (settle t)) received, ?_⟩
  intro y
  cases clear : (s.barCauseOf h).clear with
  | false =>
    have bars : (digest || dupid) = true := by
      have shown : (!digest && !dupid) = false := clear
      revert shown
      cases digest <;> cases dupid <;> decide
    have not_clear : ¬ (!digest && !dupid) = true := by
      rw [show (!digest && !dupid) = false from clear]
      exact nofun
    by_cases up_ : x.link = .up
    · obtain ⟨⟨z, greeted, port⟩, csu⟩ := settle_leavesBarred clear up_
      have none_ : old = {} := if_neg (by rw [up_]; exact nofun)
      have counts : y.counts = _ := congrArg Port.counts port
      rw [greeted.rest] at port counts
      refine ⟨congrArg Port.neighbour port, congrArg Port.silence port, fun _ => ⟨congrArg Port.link port,
        congrArg Port.cause port, ?_, ?_, fun n => absurd up_ n, fun _ => ⟨?_, ?_, congrArg Port.lane1 port,
          congrArg Port.lane2 port, congrArg Port.seen1 port, congrArg Port.seen2 port,
          congrArg Port.heldUntil port, congrArg Port.refreshAt port, congrArg Port.queue0 port,
          congrArg Port.queue1 port, congrArg Port.queue2 port⟩⟩, fun n => absurd n not_clear⟩
      · rw [counts, none_]
        rfl
      · rw [counts, none_]
        rfl
      · rw [csu]
        simp only [raises, none_]
        rfl
      · rw [counts]
        rfl
    · obtain ⟨port, csu⟩ := settle_bars clear down up_
      have counts : y.counts = _ := congrArg Port.counts port
      refine ⟨congrArg Port.neighbour port, congrArg Port.silence port, fun _ => ⟨congrArg Port.link port,
        congrArg Port.cause port, ?_, ?_, fun _ => ⟨csu, ?_⟩, fun n => absurd n up_⟩, fun n => absurd n not_clear⟩
      all_goals
        rw [counts]
        rfl
  | true =>
    have no_bar : ¬ (digest || dupid) = true := by
      have shown : (!digest && !dupid) = true := clear
      revert shown
      cases digest <;> cases dupid <;> decide
    by_cases up_ : x.link = .up
    · by_cases same : x.neighbour.map (·.station) = some h.station
      · obtain ⟨⟨r, settles⟩, csu⟩ := settle_keeps clear up_ same
        have link := settles.steady
        refine ⟨link.neighbour, link.silence, fun n => absurd n no_bar, fun _ => ⟨link.link.trans up_, link.seen1,
          link.seen2, ?_, ?_, fun none_ => link.cause.trans (none_ up_), fun n => absurd same (n.resolve_left
            fun n => n up_), fun _ _ => ⟨link.lane1, link.lane2, link.heldUntil, csu⟩, fun n => absurd up_ n,
          fun _ n => absurd same n⟩⟩
        all_goals
          rw [show y.counts = _ from settles.counts]
          rfl
      · obtain ⟨⟨z, greeted, settles⟩, csu⟩ := settle_changes clear up_ same
        have link := settles.steady
        have counts : y.counts = _ := settles.counts
        rw [show (z.enter _ _ _).counts = z.counts from rfl, greeted.rest] at counts
        refine ⟨link.neighbour, link.silence, fun n => absurd n no_bar, fun _ => ⟨link.link, link.seen1,
          link.seen2, ?_, ?_, fun _ => link.cause, fun _ => ⟨link.lane1, link.lane2, link.heldUntil, settles.calm⟩,
          fun _ n => absurd n same, fun n => absurd up_ n, fun _ _ => ⟨?_, ?_, csu⟩⟩⟩
        all_goals
          rw [counts]
          rfl
    · obtain ⟨settles, csu⟩ := settle_enters clear down up_
      have link := settles.steady
      refine ⟨link.neighbour, link.silence, fun n => absurd n no_bar, fun _ => ⟨link.link, link.seen1,
        link.seen2, ?_, ?_, fun _ => link.cause, fun _ => ⟨link.lane1, link.lane2, link.heldUntil, settles.calm⟩,
        fun n => absurd n up_, fun _ => csu, fun n => absurd n up_⟩⟩
      all_goals
        rw [show y.counts = _ from settles.counts]
        rfl

end Sys2Proof
end

section
/-! START and END frames taken (O21, O22), the tests at the end of an event (O23), the END drain timer (O20). -/

namespace Sys2Proof.Machine

/-! ### START (R11, R13, Table 1-6) -/

/-- The current index under an epoch held (R9, log 15). -/
theorem currentIndex_of_epoch {t : Tlu} {e : Epoch} (held : t.epoch = some e) :
    t.currentIndex = match t.curIndex with
      | some n => some n
      | none => t.houseCount.map fun count => (count - e.base : Index) := by
  unfold Tlu.currentIndex
  rw [held]
  cases t.curIndex <;> cases t.houseCount <;> rfl

theorem beforeStart_iff (t : Tlu) : t.beforeStart = true ↔ ∀ n, t.currentIndex = some n → n.toInt < 0 := by
  unfold Tlu.beforeStart
  cases t.currentIndex with
  | none => simp
  | some n =>
    simp only [Option.map_some, Option.getD_some, decide_eq_true_eq, Option.some.injEq, forall_eq']

section
variable {s : State} {base : Word} {origin : Nat}

theorem startTaken_fresh (station : s.tlu.station = .armed) (none_ : s.tlu.epoch = none) :
    startTaken base origin s =
      if s.tlu.droppedBase = some base then ignoreStart s else adoptEpoch base origin s := by
  simp only [startTaken, station, none_]

theorem startTaken_before {e : Epoch} (station : s.tlu.station = .armed) (held : s.tlu.epoch = some e)
    (before : s.tlu.beforeStart = true) :
    startTaken base origin s = if origin < e.source then adoptEpoch base origin s else ignoreStart s := by
  simp only [startTaken, station, held, before, if_true]

theorem startTaken_idle (idle : s.tlu.station = .unconfigured ∨ s.tlu.station = .configured ∨ s.tlu.station = .done) :
    startTaken base origin s = s := by
  obtain station | station | station := idle <;> simp only [startTaken, station]

/-- Once index 0 is reached, a START is judged against the epoch. -/
theorem startTaken_against {e : Epoch} (held : s.tlu.epoch = some e)
    (started : s.tlu.station = .running ∨ s.tlu.station = .ending ∨
      (s.tlu.station = .armed ∧ s.tlu.beforeStart = false)) :
    startTaken base origin s = startAgainst e base origin s := by
  obtain station | station | ⟨station, reached⟩ := started
  · simp only [startTaken, station, held]
  · simp only [startTaken, station, held]
  · simp only [startTaken, station, held, reached, Bool.false_eq_true, if_false]

end

theorem epochConflict_tlu (base : Word) (station : Nat) (s : State) : (epochConflict base station s).tlu =
    { s.tlu with counts := { s.tlu.counts with epochConflict := up s.tlu.counts.epochConflict } } := by
  rw [epochConflict, (cutTrigger_foot _ _ _).tlu (by decide), raiseAttn_tlu]
  rfl

/-- A conflict raises EPOCH and presents the EPOCH trigger (R13). -/
theorem epochConflict_raises (base : Word) (station : Nat) (s : State) :
    State.Raised .epoch (.epochConflict base station) s (epochConflict base station s) ∧
    State.Triggered (·.cutEpoch) (.epoch base station) s (epochConflict base station s) := by
  let c := s.onTlu fun t => { t with counts := { t.counts with epochConflict := up t.counts.epochConflict } }
  let a := raiseAttn .epoch (.epochConflict base station) c
  have raised : State.Raised .epoch (.epochConflict base station) s a := raiseAttn_raised _ _ c
  have triggered := cutTrigger_triggered (·.cutEpoch) (.epoch base station) a
  have kept := cutTrigger_unraised (show AttnClass.epoch ≠ .cut by decide) (·.cutEpoch) (.epoch base station) a
  have quiet : State.Unraised .cut s a :=
    raiseAttn_unraised (show AttnClass.cut ≠ .epoch by decide) (.epochConflict base station) c
  refine ⟨fun pending counts => ?_, ?_⟩
  · obtain ⟨cause, raised⟩ := raised pending counts
    exact ⟨kept.1.trans cause, kept.2.trans raised⟩
  · exact triggered.behind ⟨rfl, rfl, rfl⟩ quiet rfl (modifyAt_length _ _ _) (modifyAt_length _ _ _)

/-- Two STARTs of different origins that cross before index 0 (R11). -/
theorem startTaken_crossing {s : State} {b b' : Word} {o o' : Nat} (station : s.tlu.station = .armed)
    (none_ : s.tlu.epoch = none) (first : s.tlu.droppedBase ≠ some b) (before : ∀ n, s.tlu.houseCount = some n →
      (n - b).toInt < 0) :
    startTaken b' o' (startTaken b o s) =
      if o' < o then adoptEpoch b' o' (adoptEpoch b o s) else ignoreStart (adoptEpoch b o s) := by
  rw [startTaken_fresh station none_, if_neg first]
  refine startTaken_before (s := adoptEpoch b o s) (e := { base := b, source := o }) station rfl ?_
  refine (beforeStart_iff _).2 fun n index => ?_
  have counted : s.tlu.houseCount.map (fun count => (count - b : Index)) = some n :=
    (currentIndex_of_epoch (t := (adoptEpoch b o s).tlu) rfl).symm.trans index
  obtain ⟨count, house, rfl⟩ := Option.map_eq_some_iff.1 counted
  exact before count house

/-- Settles O21: a START by the rows of Table 1-6, and crossing STARTs. -/
theorem startsTaken : Obligations.StartsTaken := by
  refine ⟨fun frame s => rfl, ?_, ?_⟩
  · intro s base origin adopts ignores
    refine ⟨fun station none_ => ⟨fun dropped => ?_, fun other_ => ?_⟩, ?_, fun idle => startTaken_idle idle⟩
    · exact (startTaken_fresh station none_).trans (if_pos dropped)
    · exact (startTaken_fresh station none_).trans (if_neg other_)
    · intro e held index started
      have current : s.tlu.currentIndex = index := currentIndex_of_epoch held
      have against (h : started) : startTaken base origin s = startAgainst e base origin s := by
        refine startTaken_against held (h.imp_right fun h => h.imp_right fun ⟨station, n, reached, high⟩ =>
          ⟨station, ?_⟩)
        rw [Bool.eq_false_iff]
        exact fun before => absurd ((beforeStart_iff _).1 before n (current.trans reached)) (by omega)
      refine ⟨fun station before => ?_, fun h same => ?_, fun h other_ => ?_⟩
      · have taken := startTaken_before (base := base) (origin := origin) station held
          ((beforeStart_iff _).2 fun n reached => before n (current.symm.trans reached))
        exact ⟨fun lower => taken.trans (if_pos lower), fun higher => taken.trans (if_neg (by omega))⟩
      · exact (against h).trans (if_pos same)
      · intro t
        have conflicts : t = epochConflict base origin s := (against h).trans (if_neg other_)
        obtain ⟨raised, triggered⟩ := epochConflict_raises base origin s
        rw [conflicts]
        exact ⟨epochConflict_tlu _ _ _, raised, triggered⟩
  · intro s b b' o o' station none_ first second lower before
    rw [startTaken_crossing station none_ first fun n h => (before n h).1,
      startTaken_crossing station none_ second fun n h => (before n h).2, if_neg (by omega), if_pos lower]
    exact ⟨rfl, rfl⟩

/-! ### END (R15, Table 1-8) -/

theorem indexMax_toInt (a b : Index) : (indexMax a b).toInt = max b.toInt a.toInt := by
  unfold indexMax indexLt
  split
  next less => have := of_decide_eq_true less; omega
  next more => have := of_decide_eq_false (Bool.not_eq_true _ ▸ more); omega

theorem indexMin_toInt (a b : Index) : (indexMin a b).toInt = min a.toInt b.toInt := by
  unfold indexMin indexLt
  split
  next less => have := of_decide_eq_true less; omega
  next more => have := of_decide_eq_false (Bool.not_eq_true _ ▸ more); omega

theorem Tlu.notBelowCurrent_toInt {t : Tlu} {n : Index} (index : t.curIndex = some n) (l : Index) :
    (t.notBelowCurrent l).toInt = max n.toInt l.toInt := by
  simp only [Tlu.notBelowCurrent, index, indexMax_toInt]

section
variable {s : State} {e : Epoch} {base : Word} {last : Index}

theorem endTaken_running (station : s.tlu.station = .running) (held : s.tlu.epoch = some e) (same : base = e.base) :
    endTaken base last s = enterEnding (s.tlu.notBelowCurrent last) s := by
  simp only [endTaken, station, held, same, if_true]

theorem endTaken_armed (station : s.tlu.station = .armed) (held : s.tlu.epoch = some e) (same : base = e.base) :
    endTaken base last s = dropEpoch base s := by
  simp only [endTaken, station, held, same, if_true]

/-- An END frame of another base is ignored. -/
theorem endTaken_other (held : s.tlu.epoch = some e) (other_ : base ≠ e.base)
    (onward : s.tlu.station = .armed ∨ s.tlu.station = .running ∨ s.tlu.station = .ending) :
    endTaken base last s = ignoreEnd s := by
  obtain station | station | station := onward <;> simp only [endTaken, station, held, if_neg other_]

theorem endTaken_fresh (station : s.tlu.station = .armed) (none_ : s.tlu.epoch = none) :
    endTaken base last s = ignoreEnd s := by
  simp only [endTaken, station, none_]

theorem endTaken_idle (idle : s.tlu.station = .unconfigured ∨ s.tlu.station = .configured ∨ s.tlu.station = .done) :
    endTaken base last s = ignoreEnd s := by
  obtain station | station | station := idle <;> simp only [endTaken, station]

end

/-- Settles O22: an END frame by the rows of Table 1-8. -/
theorem endFrameTaken : Obligations.EndFrameTaken := by
  refine ⟨fun frame s => rfl, ?_⟩
  intro s base last ignores
  refine ⟨fun e held same => ⟨fun station c n loaded index => ?_, fun station n m index held' => ?_,
    fun station => endTaken_armed station held same⟩, fun e held other_ onward => endTaken_other held other_ onward,
    fun station none_ => endTaken_fresh station none_, fun idle => endTaken_idle idle⟩
  · refine ⟨s.tlu.notBelowCurrent last, Tlu.notBelowCurrent_toInt index last, ?_⟩
    have due : s.drainDue = s.now + 1000000000 * c.drainEnd := by
      rw [State.drainDue, loaded, Option.map_some, Option.getD_some, seconds, Nat.mul_comm]
    rw [endTaken_running station held same, enterEnding, due]
    rfl
  · refine ⟨s.tlu.notBelowCurrent (indexMin m last), ?_, ?_⟩
    · rw [Tlu.notBelowCurrent_toInt index, indexMin_toInt]
    · rw [same, endTaken_ending station held held']
      rfl

/-! ### The tests at the end of an event (R16, R145, R152) -/

/-- What the drain and the finished report leave, before the test of DONE. -/
def reported (s : State) : State := reportFinished (drain s)

theorem settle_eq (s : State) : settle s = testDone (reported s) := rfl

theorem reported_foot (s : State) : Foot [.ports, .dlu, .kou, .ksp, .aou] s (reported s) :=
  (drain_foot s).grow.seq (reportFinished_foot _).grow

theorem reportFinished_drainBlock (s : State) : (reportFinished s).drainBlock = s.drainBlock := by
  unfold reportFinished
  split <;> rfl

theorem discardPeriod_period (s : State) : (discardPeriod s).cfr.period = none := by
  unfold discardPeriod
  split
  next none_ => exact none_
  · rfl

/-- A station that stays in ENDING has reported finished where it may. -/
theorem reportFinished_finished {s : State} (station : s.tlu.station = .ending) (role : s.airRole = true)
    (passed : s.outletPassed = true) : (reportFinished s).aou.finished = true := by
  rw [reportFinished, if_pos ⟨station, role, passed⟩]
  rfl

theorem reportFinished_passed (s : State) : (reportFinished s).outletPassed = s.outletPassed := by
  unfold reportFinished
  split <;> rfl

theorem reportFinished_airRole (s : State) : (reportFinished s).airRole = s.airRole := by
  unfold reportFinished
  split <;> rfl

/-- The two outcomes of the test of DONE. -/
theorem testDone_cases (s : State) :
    (s.tlu.station = .ending ∧ s.outletDone = true ∧ s.spoolDone = true ∧ testDone s = enterDone s) ∨
    (testDone s = s ∧ (s.tlu.station = .ending → s.outletDone = false ∨ s.spoolDone = false)) := by
  by_cases done : s.tlu.station = .ending ∧ s.outletDone = true ∧ s.spoolDone = true
  · exact .inl ⟨done.1, done.2.1, done.2.2, if_pos done⟩
  · refine .inr ⟨if_neg done, fun station => ?_⟩
    refine Classical.byContradiction fun both => ?_
    obtain ⟨outlet, spool⟩ := not_or.1 both
    exact done ⟨station, Bool.of_not_eq_false outlet, Bool.of_not_eq_false spool⟩

theorem enterDone_station (s : State) : (enterDone s).tlu.station = .done := by
  rw [enterDone, (discardPeriod_foot _).tlu (by decide)]
  rfl

theorem deliver_filter (k : RingKind) (own : Bool) (bs : Bytes) (s : State) :
    (deliver k own bs s).dlu.filter = s.dlu.filter := by
  unfold deliver
  split
  · have foot := toBlock_foot k own bs (s.countDlu k.countDelivered)
    rw [foot.dlu_eq (by cases k <;> cases own <;> decide) (by cases k <;> cases own <;> decide)]
    rfl
  · rfl

/-- No origination is filtered. -/
theorem originate_filter (k : RingKind) (body : Bytes) (s : State) :
    (originate k body s).dlu.filter = s.dlu.filter := by
  unfold originate
  split
  · rfl
  · rw [originateFrame, deliver_filter, ((offers_foot _ _ _).dlu (by decide)).1]
    rfl

theorem drainLoop_filter (n : Nat) (s : State) : (drainLoop n s).dlu.filter = s.dlu.filter := by
  induction n generalizing s with
  | zero => rfl
  | succ n ih =>
    unfold drainLoop
    split
    · rw [ih, sendEntry, ((advanceDrain_foot _).dlu (by decide)).1, originate_filter]
    · rfl

theorem settle_filter (s : State) : (settle s).dlu.filter = s.dlu.filter := by
  rw [settle, ((testDone_foot _).dlu (by decide)).1, ((reportFinished_foot _).dlu (by decide)).1]
  exact drainLoop_filter _ s

theorem drainBlock_of_idle {s : State} (idle : s.performing = false) : s.drainBlock ≠ none := by
  rw [State.drainBlock, idle]
  exact nofun

/-- Settles O23: what the tests at the end of an event leave, and what they bring about. -/
theorem endOfEventTests : Obligations.EndOfEventTests := by
  intro s t
  have foot : Foot settleParts s t := settle_foot s
  obtain ⟨f, aou⟩ := settle_aou s
  obtain ⟨-, write, lost⟩ := settle_ksp s
  refine ⟨fun idle => settle_idle s idle, foot.pending (by decide), foot.now (by decide), foot.sgc (by decide),
    foot.rst (by decide), foot.pcu (by decide), settle_csu s, write, lost, foot.muted (by decide),
    settle_filter s,
    (congrArg Aou.window aou :), (congrArg Aou.feed aou :), (congrArg Aou.cut aou :), fun p => ?_, ?_, fun lawful => ?_,
    fun ending => ?_, fun ending role passed => ?_⟩
  · have steady := settle_steady s p
    exact ⟨steady.link, steady.neighbour, steady.silence, steady.cause, steady.seen1, steady.seen2, steady.lane1,
      steady.lane2, steady.heldUntil⟩
  · exact (settle_tlu s).imp_right fun ⟨ending, n, done⟩ => ⟨ending, congrArg Tlu.station done⟩
  all_goals obtain ⟨-, -, -, done⟩ | ⟨same, waits⟩ := testDone_cases (reported s)
  · refine drainBlock_of_idle ?_
    rw [State.performing, show t = _ from done, enterDone_station]
    rfl
  · rw [show t = _ from same, reported, reportFinished_drainBlock]
    exact drain_barred s lawful
  · rw [show t = _ from done, enterDone_station] at ending
    exact nomatch ending
  · rw [show t = _ from same] at ending ⊢
    exact waits ending
  · rw [show t = _ from done, enterDone_station] at ending
    exact nomatch ending
  · rw [show t = _ from same] at ending role passed ⊢
    rw [reported, reportFinished_passed] at passed
    rw [reported, reportFinished_airRole] at role
    rw [reported, (reportFinished_foot _).tlu (by decide)] at ending
    exact reportFinished_finished ending role passed

/-! ### The END drain timer (R16) -/

theorem drainTimerExpires_of {s : State} {d : Time} (runs : s.tlu.endTimer = .runningUntil d) :
    drainTimerExpires s = (s.reach d).onTlu fun u => { u with endTimer := .expired } := by
  simp only [drainTimerExpires, runs]

/-- The finished report has been made before, or is made now. -/
theorem reported_finished {s : State} (finished : s.aou.finished = true) : (reported s).aou.finished = true := by
  have drained : (drain s).aou.finished = true := by rw [(drain_foot s).aou (by decide), finished]
  unfold reported reportFinished
  split
  · rfl
  · exact drained

theorem reported_outletDone {s : State} (done : s.airRole = false ∨ s.aou.finished = true) :
    (reported s).outletDone = true := by
  have role : (reported s).airRole = s.airRole := by
    have config := (reported_foot s).config (by decide)
    rw [State.airRole, State.airRole, config]
  obtain none_ | finished := done
  · rw [State.outletDone, role, none_]
    rfl
  · rw [State.outletDone, reported_finished finished, Bool.or_true]

/-- What the END drain timer leaves of the Timeline Unit where DONE is entered. -/
theorem enterDone_tlu (s : State) : (enterDone s).tlu = { s.tlu with
    station := .done
    endTimer := .stopped
    voidRun := false
    counts := { s.tlu.counts with
      endUndrained := if s.tlu.endTimer = .expired then
          upBy s.tlu.counts.endUndrained (s.ksp.write - s.ksp.free).toNat
        else s.tlu.counts.endUndrained } } := by
  rw [enterDone, (discardPeriod_foot _).tlu (by decide)]
  rfl

end Sys2Proof.Machine

namespace Sys2Proof
open Machine

/-- Settles O20: the END drain timer makes condition (b) of R16 hold. -/
theorem drainTimerExpires : Obligations.DrainTimerExpires := by
  intro s d ending runs
  let u := (s.reach d).onTlu fun u => { u with endTimer := .expired }
  have expires : exec .endDrainTimer s = .next (settle u) :=
    congrArg (fun t => Host.Outcome.next (settle t)) (drainTimerExpires_of runs)
  have tlu : (reported u).tlu = u.tlu := (reported_foot u).tlu (by decide)
  refine ⟨fun done => ⟨_, expires, ?_⟩, fun role unfinished waits => ⟨_, expires, ?_, settle_now u⟩⟩
  · have enters : settle u = enterDone (reported u) := by
      have spool : (reported u).spoolDone = true := by
        rw [State.spoolDone, tlu]
        rfl
      exact if_pos ⟨(congrArg Tlu.station tlu).trans ending, reported_outletDone done, spool⟩
    have ksp : (enterDone (reported u)).ksp = (reported u).ksp := (enterDone_foot _).ksp (by decide)
    rw [enters, enterDone_tlu, ksp, tlu]
    exact ⟨rfl, rfl, rfl, rfl, rfl, rfl, discardPeriod_period _⟩
  · have stays : reported u = drain u := by
      refine if_neg fun report => ?_
      have passed : (drain u).outletPassed = s.outletPassed := by
        rw [State.outletPassed, (drain_foot u).tlu (by decide), (drain_foot u).aou (by decide)]
        rfl
      rw [passed, waits] at report
      exact nomatch report.2.2
    have same : settle u = drain u := by
      rw [settle_eq, stays]
      refine if_neg fun done => ?_
      have outlet : (drain u).outletDone = false := by
        have config := (drain_foot u).config (by decide)
        rw [State.outletDone, State.airRole, config, (drain_foot u).aou (by decide)]
        show (!s.airRole || s.aou.finished) = false
        rw [role, unfinished]
        rfl
      rw [outlet] at done
      exact nomatch done.2.1
    rw [same, (drain_foot u).tlu (by decide)]
    rfl

end Sys2Proof
end

section
/-! The console line: characters (O14), command lines and breaks (O15). -/

namespace Sys2Proof.Machine

/-! ### A character of a command line (R169, Table 10-1) -/

section
variable (l : CommandLine) {c : Byte}

theorem CommandLine.echo_printable (h : 0x20 ≤ c.toNat ∧ c.toNat ≤ 0x7E) :
    l.echo c = if l.chars.length < 80 then [c] else [] := if_pos h

theorem CommandLine.put_printable (h : 0x20 ≤ c.toNat ∧ c.toNat ≤ 0x7E) :
    l.put c = if l.chars.length < 80 then { l with chars := l.chars ++ [c] } else { l with tooLong := true } := if_pos h

theorem CommandLine.echo_rubout (h : c = 0x08 ∨ c = 0x7F) :
    l.echo c = if l.chars.isEmpty then [] else [0x08, 0x20, 0x08] := by
  obtain rfl | rfl := h <;> rfl

theorem CommandLine.put_rubout (h : c = 0x08 ∨ c = 0x7F) : l.put c = { l with chars := l.chars.dropLast } := by
  obtain rfl | rfl := h <;> rfl

/-- A control character but for CR and the two rubouts, and any from 80 to FF (log 49). -/
theorem CommandLine.discards (h : c.toNat < 0x20 ∨ 0x7F < c.toNat) (bs : c ≠ 0x08) (cr : c ≠ 0x0D) :
    l.echo c = [] ∧ l.put c = l := by
  have printable : ¬ (0x20 ≤ c.toNat ∧ c.toNat ≤ 0x7E) := by omega
  have rubout : ¬ (c = 0x08 ∨ c = 0x7F) := by
    rintro (rfl | rfl)
    · exact bs rfl
    · exact absurd h (by decide)
  exact ⟨by rw [CommandLine.echo, if_neg printable, if_neg rubout, if_neg cr],
    by rw [CommandLine.put, if_neg printable, if_neg rubout]⟩

end

section
variable {s : State} (c : Byte) (idle : s.csu.load = .idle) (watch : s.csu.watch = none)
include idle watch

theorem takeHolding_line (free : s.csu.waiting = none) (holds : s.csu.holding = some c)
    (room : s.csu.hasRoom c = true) :
    takeHolding s = lineCharacter c (s.onCsu fun u => { u with holding := none }) := by
  simp only [takeHolding, holds, Csu.canTake_line c idle watch, free, room, Option.isNone_none, Bool.and_self, if_true,
    takeCharacter, State.onCsu, idle, watch]

/-- A character waits while a line waits, or while its echo finds no room (R169). -/
theorem takeHolding_waits (holds : s.csu.holding = some c)
    (barred : s.csu.waiting.isSome = true ∨ s.csu.hasRoom c = false) : takeHolding s = s := by
  have waits : ¬ (s.csu.waiting.isNone && s.csu.hasRoom c) = true := by
    obtain line | full := barred
    · simp [Option.isSome_iff_ne_none.1 line]
    · simp [full]
  simp only [takeHolding, holds, Csu.canTake_line c idle watch, if_neg waits]

/-- A character that completes behind one that waits is lost. -/
theorem completeCharacter_lost (holds : s.csu.holding = some c)
    (barred : s.csu.waiting.isSome = true ∨ s.csu.hasRoom c = false) (d : Byte) :
    completeCharacter d s = { s with csu := { s.csu with
      line := { s.csu.line with overrun := true }
      counts := { s.csu.counts with conOverrun := up s.csu.counts.conOverrun } } } := by
  have notLoad : s.csu.load ≠ .announced := by rw [idle]; exact nofun
  have held : s.csu.holding.isSome = true := by rw [holds]; rfl
  simp only [completeCharacter, takeHolding_waits c idle watch holds barred, held, if_true, overrun, if_neg notLoad]
  rfl

theorem completeCharacter_taken (free : s.csu.waiting = none) (empty : s.csu.holding = none)
    (room : s.csu.hasRoom c = true) : completeCharacter c s = lineCharacter c s := by
  rw [completeCharacter_free c empty]
  refine (takeHolding_line (s := s.onCsu fun u => { u with holding := some c }) c idle watch free rfl room).trans ?_
  refine congrArg (lineCharacter c) ?_
  show { s with csu := { s.csu with holding := none } } = s
  rw [← empty]

theorem completeCharacter_held (empty : s.csu.holding = none)
    (barred : s.csu.waiting.isSome = true ∨ s.csu.hasRoom c = false) :
    completeCharacter c s = { s with csu := { s.csu with holding := some c } } := by
  rw [completeCharacter_free c empty]
  exact takeHolding_waits (s := s.onCsu fun u => { u with holding := some c }) c idle watch rfl barred

end

theorem lineCharacter_eq (c : Byte) (s : State) : lineCharacter c s = { s with csu := { s.csu with
    tx := s.csu.tx ++ (s.csu.echo c).map TxItem.echo
    line := if c = 0x0D then {} else s.csu.line.put c
    waiting := if c = 0x0D then some s.csu.line else s.csu.waiting } } := rfl

/-- Settles O14: each class of character by its echo and its effect on the line, and what waits or is lost. -/
theorem charactersTaken : Obligations.CharactersTaken := by
  intro s c idle watch held lost
  refine ⟨fun free empty => ?_, fun line => ⟨fun empty => ?_, fun full => ?_, ?_⟩⟩
  · intro becomes
    have becomes_of {l : CommandLine} {w : Option CommandLine} {echo : Bytes} (echoes : s.csu.line.echo c = echo)
        (makes : (if c = 0x0D then {} else s.csu.line.put c) = l)
        (waits : (if c = 0x0D then some s.csu.line else s.csu.waiting) = w) : becomes l w echo := by
      let sent : List TxItem := if s.csu.silent then [] else echo.map TxItem.echo
      have sends : (s.csu.echo c).map TxItem.echo = sent := by
        simp only [Csu.echo, sent, echoes]
        split <;> rfl
      have size : (s.csu.echo c).length = sent.length := by rw [← sends, List.length_map]
      have nothing : s.csu.echo c = [] ↔ sent = [] := by rw [← sends, List.map_eq_nil_iff]
      have room : s.csu.hasRoom c = true ↔ sent = [] ∨ s.csu.fill + sent.length ≤ 65536 := by
        rw [Csu.hasRoom_iff, size, nothing]
      refine ⟨fun fits => congrArg Host.Outcome.next ?_, fun some_ full => ?_⟩
      · rw [completeCharacter_taken c idle watch free empty (room.2 fits), lineCharacter_eq, makes, waits, sends]
      · have barred : s.csu.hasRoom c = false := by
          rw [Bool.eq_false_iff]
          exact fun fits => (room.1 fits).elim some_ fun short => Nat.not_le.2 full short
        exact ⟨congrArg Host.Outcome.next (completeCharacter_held c idle watch empty (.inr barred)), fun d =>
          congrArg Host.Outcome.next (completeCharacter_lost (s := held) c idle watch rfl (.inr barred) d)⟩
    have notCr (h : 0x20 ≤ c.toNat ∧ c.toNat ≤ 0x7E ∨ c = 0x08 ∨ c = 0x7F) : c ≠ 0x0D := by
      rintro rfl
      exact absurd h (by decide)
    refine ⟨fun printable room => ?_, fun printable full => ?_, fun rubout some_ => ?_, fun rubout none_ => ?_,
      fun cr => ?_, fun control bs cr => ?_, congrArg Host.Outcome.next (completeCharacter_free c empty).symm⟩
    · have cr := notCr (.inl printable)
      exact becomes_of ((s.csu.line.echo_printable printable).trans (if_pos room))
        ((if_neg cr).trans ((s.csu.line.put_printable printable).trans (if_pos room))) ((if_neg cr).trans free)
    · have cr := notCr (.inl printable)
      exact becomes_of ((s.csu.line.echo_printable printable).trans (if_neg (by omega)))
        ((if_neg cr).trans ((s.csu.line.put_printable printable).trans (if_neg (by omega)))) ((if_neg cr).trans free)
    · have cr := notCr (.inr rubout)
      exact becomes_of ((s.csu.line.echo_rubout rubout).trans (if_neg (by simpa using some_)))
        ((if_neg cr).trans (s.csu.line.put_rubout rubout)) ((if_neg cr).trans free)
    · have cr := notCr (.inr rubout)
      refine becomes_of ((s.csu.line.echo_rubout rubout).trans (if_pos (by simpa using none_)))
        ((if_neg cr).trans ((s.csu.line.put_rubout rubout).trans ?_)) ((if_neg cr).trans free)
      rw [none_, List.dropLast_nil, ← none_]
    · subst cr
      exact becomes_of rfl rfl rfl
    · obtain ⟨echo, put⟩ := s.csu.line.discards control bs cr
      exact becomes_of echo ((if_neg cr).trans put) ((if_neg cr).trans free)
  · exact congrArg Host.Outcome.next (completeCharacter_held c idle watch empty (.inl line))
  · obtain ⟨d, holds⟩ := Option.isSome_iff_exists.1 full
    exact congrArg Host.Outcome.next (completeCharacter_lost d idle watch holds (.inl line) c)
  · refine congrArg Host.Outcome.next ?_
    cases holds : s.csu.holding with
    | none => exact takeHolding_none holds
    | some d => exact takeHolding_waits d idle watch holds (.inl line)

/-! ### The words of a line (R174) -/

theorem wordsFrom_word (acc line : Bytes) (h : acc ≠ []) : wordsFrom acc line ≠ [] := by
  induction line generalizing acc with
  | nil => simp [wordsFrom, h]
  | cons b rest ih =>
    unfold wordsFrom
    split
    · simp [h]
    · exact ih _ (by simp)

/-- A line has no words when it is of spaces alone. -/
theorem lineWords_eq_nil (line : Bytes) : lineWords line = [] ↔ ∀ b ∈ line, b = 0x20 := by
  unfold lineWords
  induction line with
  | nil => simp [wordsFrom]
  | cons b rest ih =>
    unfold wordsFrom
    split
    next space => simp only [space, if_true, List.isEmpty_nil, ih, List.forall_mem_cons, true_and]
    next letter =>
      exact iff_of_false (wordsFrom_word _ _ (by simp)) fun all => letter (all b List.mem_cons_self)

theorem spell_nonempty {ws : List Bytes} {w : Spelled} (h : spell ws = some w) : ws ≠ [] := by
  rintro rfl
  exact nomatch h

/-- The commands that a line can spell (Table 10-3). -/
def Instr.isLine (c : Instr) : Prop :=
  ∀ s, exec c s = .next (commandRow (refusalOf c) (effectOf c) s)

theorem showOf_isLine (i : ShowItem) : Instr.isLine (showOf i) := by cases i <;> exact fun _ => rfl

theorem spellShow_isLine (args : List Bytes) : Instr.isLine (spellShow args).command := by
  unfold spellShow
  split
  · split
    · exact showOf_isLine _
    · exact fun _ => rfl
  · exact fun _ => rfl

theorem spellWatch_isLine (args : List Bytes) : Instr.isLine (spellWatch args).command := by
  unfold spellWatch
  split <;> exact fun _ => rfl

theorem spellCue_isLine (args : List Bytes) : Instr.isLine (spellCue args).command := by
  unfold spellCue
  split <;> exact fun _ => rfl

theorem spellClear_isLine (args : List Bytes) : Instr.isLine (spellClear args).command := by
  unfold spellClear
  split
  · exact fun _ => rfl
  · split
    · exact fun _ => rfl
    split
    · exact fun _ => rfl
    split <;> exact fun _ => rfl

theorem isLine_of_ite {p : Prop} [Decidable p] {x w : Spelled} {o : Option Spelled}
    (h : (if p then some x else o) = some w) (first : Instr.isLine x.command)
    (later : o = some w → Instr.isLine w.command) : Instr.isLine w.command := by
  split at h
  · exact Option.some.inj h ▸ first
  · exact later h

/-- What a line spells is a command with a row of its own. -/
theorem spell_isLine {ws : List Bytes} {w : Spelled} (h : spell ws = some w) : Instr.isLine w.command := by
  cases ws with
  | nil => exact nomatch h
  | cons b args =>
    refine isLine_of_ite h (fun _ => rfl) fun h => isLine_of_ite h (spellShow_isLine args) fun h =>
      isLine_of_ite h (spellWatch_isLine args) fun h => isLine_of_ite h (fun _ => rfl) fun h =>
      isLine_of_ite h (fun _ => rfl) fun h => isLine_of_ite h (fun _ => rfl) fun h =>
      isLine_of_ite h (spellCue_isLine args) fun h => isLine_of_ite h (fun _ => rfl) fun h =>
      isLine_of_ite h (fun _ => rfl) fun h => isLine_of_ite h (spellClear_isLine args) fun h =>
      isLine_of_ite h (fun _ => rfl) nofun

/-! ### A command line taken (R170) -/

theorem takeLineWaiting_some {s : State} {l : CommandLine} (taken : s.csu.takesLines = true)
    (waits : s.csu.waiting = some l) :
    takeLineWaiting s = dealWithLine l (repliesSent (speak { s with csu := { s.csu with waiting := none } })) := by
  simp only [takeLineWaiting, takeLineWith, waits, taken, if_true]
  rfl

section
variable {l : CommandLine} (s : State) (overrun : l.overrun = false) (long : l.tooLong = false)
include overrun long

theorem dealWithLine_blank (blank : ∀ b ∈ l.chars, b = 0x20) : dealWithLine l s = s := by
  simp only [dealWithLine, overrun, long, (lineWords_eq_nil _).2 blank, Bool.false_eq_true, if_false, List.isEmpty_nil,
    if_true]

theorem dealWithLine_words (words : lineWords l.chars ≠ []) :
    dealWithLine l s = executeWords (lineWords l.chars) s := by
  have some_ : ¬ (lineWords l.chars).isEmpty = true := by simpa using words
  simp only [dealWithLine, overrun, long, Bool.false_eq_true, if_false, if_neg some_]

end

/-! ### What commands leave of the transmit buffer -/

/-- An operation without the console leaves the transmit buffer. -/
theorem Foot.tx {ps : List Part} {s t : State} (h : Foot ps s t) (n : Part.console ∉ ps := by decide) :
    t.csu.tx = s.csu.tx := (congrArg Csu.tx (h.console n) :)

theorem sendReply_tx {r : Reply} {s t : State} (h : t.csu.tx = s.csu.tx) : s.csu.tx <+: (sendReply r t).csu.tx :=
  ⟨[.reply r r.length], by rw [← h]; rfl⟩

/-- A command's effect sends behind what the buffer holds. -/
theorem effectOf_tx (c : Instr) (s : State) : s.csu.tx <+: (effectOf c s).csu.tx := by
  cases c with
  | load | reset | clearAttn | clearCapture | clearCounts => exact sendReply_tx rfl
  | showState | showRef | showPorts | showLanes | showFilter | showRoster | showCues | showPeers | showSlots
  | showFeed | showSpool | showTake | showCapture | showCounts | showAttn | showConfig => exact sendReply_tx rfl
  | watch item =>
    cases item with
    | none => exact List.prefix_rfl
    | some i => exact sendReply_tx rfl
  | arm =>
    have foot : Foot [.rst, .attn, .ports, .link, .dlu, .pcu] (armBlocks s)
        (sendBeacon (enableLanes (fillRoster (armBlocks s)))) :=
      ((fillRoster_foot _).grow.seq (enableLanes_foot _).grow).seq (sendBeacon_foot _).grow
    exact sendReply_tx foot.tx
  | go =>
    have foot : Foot [.tlu, .ports, .dlu, .aou, .attn] s
        (originate .start (put32 s.goBase) (adoptEpoch s.goBase s.ownId s)) :=
      (adoptEpoch_foot _ _ _).grow.seq (originate_foot .start _ _).grow
    exact sendReply_tx foot.tx
  | endPerformance =>
    have foot : Foot [.tlu, .ports, .dlu, .kou, .ksp, .aou, .cfr] s
        (settle (originate .endFrame (put32 ((s.tlu.epoch.map (·.base)).getD 0) ++ put32 s.endIndex)
          (enterEnding s.endIndex s))) :=
      ((enterEnding_foot _ _).grow.seq (originate_foot .endFrame _ _).grow).seq (settle_foot _).grow
    exact sendReply_tx foot.tx
  | cue i v => exact sendReply_tx (originate_foot .cue _ s).tx
  | cut =>
    have foot : Foot (.attn :: settleParts) s (settle (cutTrigger (·.cutOp) .operator s)) :=
      (cutTrigger_foot _ _ _).grow.seq (settle_foot _).grow
    exact sendReply_tx foot.tx
  | uncut =>
    have foot : Foot settleParts s (if s.isCut then settle (leaveCut s) else s) := by
      split
      · exact (leaveCut_foot _).grow.seq (settle_foot _)
      · exact .refl _ _
    exact sendReply_tx foot.tx
  | _ => exact List.prefix_rfl

theorem refuseLine_tx (r : RefusalCode) (s : State) : s.csu.tx <+: (refuseLine r s).csu.tx := sendReply_tx rfl

theorem command_tx (refusal : State → Option RefusalCode) (c : Instr) (s : State) :
    s.csu.tx <+: (command refusal (effectOf c) s).csu.tx := by
  unfold command
  split
  · exact refuseLine_tx _ _
  · have sent := effectOf_tx c (s.countCsu fun x => { x with cmdTaken := up x.cmdTaken })
    exact sent

/-- A line dealt with is answered behind what the buffer holds. -/
theorem dealWithLine_tx (l : CommandLine) (s : State) : s.csu.tx <+: (dealWithLine l s).csu.tx := by
  unfold dealWithLine
  split
  · exact refuseLine_tx _ _
  split
  · exact refuseLine_tx _ _
  split
  · exact List.prefix_rfl
  unfold executeWords
  split
  · exact refuseLine_tx _ _
  split
  · exact command_tx _ _ _
  · exact refuseLine_tx _ _

/-! ### Breaks (R171) -/

theorem brk_length : (Reply.refused .brk).length = 6 := by decide

theorem breakEffect_load (s : State) (load : s.csu.load ≠ .idle) : breakEffect s = { s with csu := { s.csu with
    load := .idle
    tx := s.csu.tx ++ [.reply (.refused .brk) 6]
    counts := { s.csu.counts with loadFailed := up s.csu.counts.loadFailed } } } := by
  rw [show breakEffect s = abandonLoad (.refused .brk) s from if_pos load, abandonLoad, sendReply, brk_length]
  rfl

section
variable (s : State) (idle : s.csu.load = .idle)
include idle

theorem breakEffect_watch (watch : s.csu.watch.isSome = true) : breakEffect s = { s with csu := { s.csu with
    watch := none, tx := s.csu.tx ++ [.reply .ok 4, .reply (.refused .brk) 6] } } := by
  have ends : breakEffect s = sendReply (.refused .brk) (endWatch s) :=
    (if_neg (Classical.not_not.2 idle)).trans (if_pos watch)
  rw [ends, sendReply, brk_length]
  show { s with csu := { s.csu with
    watch := none, tx := (s.csu.tx ++ [TxItem.reply .ok 4]) ++ [TxItem.reply (.refused .brk) 6] } } = _
  rw [List.append_assoc]
  rfl

theorem breakEffect_line (watch : s.csu.watch = none) : breakEffect s = { s with csu := { s.csu with
    line := {}, tx := s.csu.tx ++ if s.csu.silent then [] else [.reply (.refused .brk) 6] } } := by
  have ends : breakEffect s = answerBreak { s with csu := { s.csu with line := {} } } :=
    (if_neg (Classical.not_not.2 idle)).trans (if_neg (by rw [watch]; exact nofun))
  rw [ends, answerBreak, sendReply, brk_length]
  cases s.csu.silent with
  | false => rfl
  | true => exact congrArg (fun tx => { s with csu := { s.csu with line := {}, tx := tx } }) (List.append_nil _).symm

end

theorem breakEffect_holding (s : State) : (breakEffect s).csu.holding = s.csu.holding := by
  unfold breakEffect answerBreak
  split
  · rfl
  split
  · rfl
  split <;> rfl

theorem breakEffect_tx (s : State) : s.csu.tx <+: (breakEffect s).csu.tx := by
  unfold breakEffect answerBreak
  split
  · exact sendReply_tx rfl
  split
  · exact (sendReply_tx (s := s) rfl).trans (sendReply_tx rfl)
  split
  · exact List.prefix_rfl
  · exact sendReply_tx rfl

theorem takeLineWith_tx (s : State) : s.csu.tx <+: (takeLineWith id s).csu.tx := by
  unfold takeLineWith
  split
  · exact List.prefix_rfl
  split
  · exact dealWithLine_tx _ (speak (s.onCsu fun u => { u with waiting := none }))
  · exact List.prefix_rfl

theorem takeBreak_holding (s : State) : (takeBreak s).csu.holding = none := by
  rw [takeBreak, breakEffect_holding]
  rfl

theorem takeBreak_tx (s : State) : s.csu.tx <+: (takeBreak s).csu.tx := by
  have ends := breakEffect_tx (((takeLineWith id s).onCsu fun u => { u with holding := none }).countCsu fun x =>
    { x with conBreak := up x.conBreak })
  exact (takeLineWith_tx s).trans ends

/-- A break with no complete line waiting: the holding character is emptied, and what the break ends is ended. -/
theorem takeBreak_none {s : State} (none_ : s.csu.waiting = none) :
    takeBreak s = breakEffect { s with csu := { s.csu with
      holding := none, counts := { s.csu.counts with conBreak := up s.csu.counts.conBreak } } } := by
  have nothing : takeLineWith id s = s := by simp only [takeLineWith, none_]
  rw [takeBreak, nothing]
  rfl

/-- Settles O15: a line in the first of its four ways, and a break by what it ends. -/
theorem linesAndBreaksTaken : Obligations.LinesAndBreaksTaken := by
  refine ⟨?_, fun s => ⟨_, rfl, ?_, ?_⟩, ?_⟩
  · intro s l taken waits u
    have run {t : State} (h : dealWithLine l (repliesSent (speak u)) = t) : exec .commandLineTaken s = .next t :=
      congrArg Host.Outcome.next ((takeLineWaiting_some taken waits).trans h)
    refine ⟨fun marked => run (if_pos marked), fun good long => run ?_, fun good short blank => run ?_,
      fun good short word unknown => run ?_, fun w good short spelled => ?_⟩
    · rw [dealWithLine, good, long]
      rfl
    · exact dealWithLine_blank _ good short blank
    · have words : lineWords l.chars ≠ [] := fun none_ => by
        obtain ⟨b, m, letter⟩ := word
        exact letter ((lineWords_eq_nil _).1 none_ b m)
      rw [dealWithLine_words _ good short words, executeWords, unknown]
      rfl
    · have words : dealWithLine l (repliesSent (speak u)) = _ :=
        dealWithLine_words _ good short (spell_nonempty spelled)
      refine ⟨fun wordsGood => ?_, fun wordsBad =>
        ⟨(refusalOf w.command (repliesSent (speak u))).getD .arg, run (words.trans ?_)⟩⟩
      · refine (run (words.trans ?_)).trans (spell_isLine spelled u).symm
        have takes : u.csu.takesLines = true := taken
        rw [executeWords, spelled]
        exact (if_pos wordsGood).trans (if_pos takes).symm
      · rw [executeWords, spelled]
        exact if_neg (by simp [wordsBad])
  · exact takeBreak_holding s
  · exact takeBreak_tx s
  · intro s none_ counted brk
    have run {t : State} (h : breakEffect { s with csu := { s.csu with holding := none, counts := counted } } = t) :
        exec .breakTaken s = .next t := congrArg Host.Outcome.next ((takeBreak_none none_).trans h)
    refine ⟨fun idle watch => run ?_, fun idle watch => run ?_, fun load => run (breakEffect_load _ load)⟩
    · exact breakEffect_line _ idle watch
    · exact breakEffect_watch _ idle watch

end Sys2Proof.Machine
end

section
/-! LOAD from its OK on (O16). -/

namespace Sys2Proof.Machine

/-! ### The bytes of a LOAD (R176, Table 10-4) -/

theorem ovr_length : (Reply.refused .ovr).length = 6 := by decide

theorem time_length : (Reply.refused .time).length = 7 := by decide

theorem abandonLoad_eq (r : Reply) (s : State) : abandonLoad r s = { s with csu := { s.csu with
    load := .idle
    tx := s.csu.tx ++ [.reply r r.length]
    counts := { s.csu.counts with loadFailed := up s.csu.counts.loadFailed } } } := rfl

/-- Before the binary phase nothing is taken from the holding character (R176). -/
theorem takeHolding_announced {s : State} (load : s.csu.load = .announced) : takeHolding s = s := by
  unfold takeHolding
  split
  · rfl
  · exact if_neg (by simp [Csu.canTake, load])

/-- A character held in the binary phase is the next byte of the block. -/
theorem takeHolding_binary {s : State} {bs : Bytes} {d : Time} {b : Byte} (load : s.csu.load = .binary bs d)
    (holds : s.csu.holding = some b) :
    takeHolding s = loadByte bs b (s.onCsu fun u => { u with holding := none }) := by
  simp only [takeHolding, holds, Csu.canTake, takeCharacter, State.onCsu, load, if_true]

theorem completeCharacter_binary {s : State} {bs : Bytes} {d : Time} (load : s.csu.load = .binary bs d)
    (free : s.csu.holding = none) (b : Byte) : completeCharacter b s = loadByte bs b s := by
  rw [completeCharacter_free b free]
  refine (takeHolding_binary (s := s.onCsu fun u => { u with holding := some b }) load rfl).trans ?_
  refine congrArg (loadByte bs b) ?_
  show { s with csu := { s.csu with holding := none } } = s
  rw [← free]

theorem loadByte_more {s : State} {bs : Bytes} (b : Byte) (h : bs.length + 1 ≠ 1026) : loadByte bs b s =
    { s with csu := { s.csu with load := .binary (bs ++ [b]) (s.now + 2000000000) } } :=
  if_neg (by rw [List.length_append]; exact h)

theorem loadByte_last {s : State} {bs : Bytes} (b : Byte) (h : bs.length + 1 = 1026) :
    loadByte bs b s = finishLoad (bs ++ [b]) s :=
  if_pos (by rw [List.length_append]; exact h)

/-! ### The configuration taken (R112, R177, R178) -/

theorem checkBlock_digest {bs : Bytes} {c : Configuration} {digest : Word} (h : checkBlock bs = .loaded c digest) :
    digest = crc32 (bs.take 11) := by
  unfold checkBlock at h
  split at h
  · exact nomatch h
  · split at h
    · exact nomatch h
    · exact (LoadResult.loaded.inj h).2.symm

theorem reloadLines_getElem? (patch : List (Option PatchEntry)) (k i : Nat) (ls : List CaptureLine) :
    (reloadLines patch k ls)[i]? = ls[i]?.map fun l => l.reload (lineInUse patch (k + i)) := by
  induction ls generalizing k i with
  | nil => rfl
  | cons l rest ih =>
    cases i with
    | zero => rfl
    | succ i =>
      rw [reloadLines, List.getElem?_cons_succ, List.getElem?_cons_succ, ih, Nat.add_right_comm, Nat.add_assoc]

theorem reload_getElem? (initial : List CueValue) (u : Pcu) {i : Nat} (h : i < 17) :
    (u.reload initial)[i]? = some (reloadItem (initial.getD i .dark) (u.item i)) := by
  simp [Pcu.reload, List.getElem?_map, List.getElem?_range h]

/-- The cue table of the first LOAD (R112). -/
theorem reload_none (initial : List CueValue) {u : Pcu} (none_ : u.cues = none) : u.reload initial =
    (List.range 17).map fun i => ({ value := initial.getD i .dark, number := 0, origin := 0 } : CueItem) := by
  simp only [Pcu.reload, Pcu.item, none_, Option.bind_none, reloadItem]

theorem fillLines_take (n : Nat) (k : Kou) : (fillLines n k).take = k.take := by
  induction n generalizing k with
  | zero => rfl
  | succ n ih =>
    unfold fillLines
    split
    · rfl
    · split
      · exact ih _
      · rfl

theorem archiveSettle_take (s : State) : (archiveSettle s).kou.take = s.kou.take := by
  show (if s.archiveDriven && s.kou.ready then
    { fillLines 2 s.kou with lines := startRecord (fillLines 2 s.kou).lines } else fillLines 2 s.kou).take = _
  split <;> exact fillLines_take 2 s.kou

/-! ### The first HELLO (R45, R49) -/

/-- The station as HELLO starts, before the two HELLOs. -/
def helloStarted (s : State) : State := s.onLku fun k => { k with
  portA := k.portA.listenIfCarrier
  portB := k.portB.listenIfCarrier
  helloAt := some (s.now + millis 1) }

theorem startHello_port (s : State) (p : PortId) : (startHello s).port p =
    (s.port p).listenIfCarrier.takeHello (helloBytes (helloStarted s) p) := by
  have started := offerHellos_port (helloStarted s) p
  rw [show (helloStarted s).port p = (s.port p).listenIfCarrier by cases p <;> rfl] at started
  exact started

theorem startHello_lku (s : State) : (startHello s).lku.digest = s.lku.digest ∧
    (startHello s).lku.enabled = s.lku.enabled ∧ (startHello s).lku.helloAt = some (s.now + 1000000) := by
  have foot : Foot [.ports] (helloStarted s) (startHello s) := (offerHello_foot _ _).seq (offerHello_foot _ _)
  obtain ⟨enabled, digest, helloAt⟩ := foot.link (by decide)
  exact ⟨digest, enabled, helloAt⟩

/-- What a LOAD does to the Link Unit: HELLO starts at the entry into CONFIGURED (R45, R178). -/
theorem applyLoad_lku (c : Configuration) (digest : Word) (s : State) : (applyLoad c digest s).lku =
    if s.unconfigured then (startHello (loadBlocks c digest s)).lku else { s.lku with digest := some digest } := by
  rw [applyLoad, (archiveSettle_foot _).lku (by decide) (by decide)]
  split <;> rfl

theorem listenIfCarrier_link (x : Port) : x.listenIfCarrier.link =
    if x.link = .down ∧ x.carrier = true then .listen else x.link := by
  unfold Port.listenIfCarrier
  split <;> rfl

theorem listenIfCarrier_rest (x : Port) : x.listenIfCarrier.tx = x.tx ∧
    x.listenIfCarrier.linkQueue = x.linkQueue ∧ x.listenIfCarrier.seen1 = x.seen1 ∧
    x.listenIfCarrier.seen2 = x.seen2 := by
  unfold Port.listenIfCarrier
  split <;> exact ⟨rfl, rfl, rfl, rfl⟩

/-- The fields of a HELLO are those of the station, its link and the seen mask. -/
theorem helloBytes_congr {s t : State} {p : PortId} (own : t.ownId = s.ownId) (tlu : t.tlu = s.tlu)
    (digest : t.lku.digest = s.lku.digest) (enabled : t.lku.enabled = s.lku.enabled)
    (seen1 : (t.port p).seen1 = (s.port p).seen1) (seen2 : (t.port p).seen2 = (s.port p).seen2) :
    helloBytes t p = helloBytes s p := by
  simp only [helloBytes, own, tlu, digest, enabled, seen1, seen2]

/-- The entry into CONFIGURED, at a port: carrier, and the first HELLO. -/
theorem applyLoad_port (c : Configuration) (digest : Word) {s : State} (first : s.unconfigured = true) (p : PortId) :
    let t := applyLoad c digest s
    (t.port p).link = (if (s.port p).link = .down ∧ (s.port p).carrier = true then .listen else (s.port p).link) ∧
    ((s.port p).tx = none → (s.port p).linkQueue = [] →
      (t.port p).tx = some (.hello (helloBytes t p)) ∧ (t.port p).linkQueue = []) := by
  intro t
  let b := loadBlocks c digest s
  have port : t.port p = (s.port p).listenIfCarrier.takeHello (helloBytes (helloStarted b) p) := by
    have started : t.port p = (startHello b).port p := by
      show (applyLoad c digest s).lku.port p = _
      rw [applyLoad_lku, if_pos first]
      rfl
    rw [started, startHello_port]
    cases p <;> rfl
  obtain ⟨tx, queue, seen1, seen2⟩ := listenIfCarrier_rest (s.port p)
  have greeted := Port.takeHello_greeted (helloBytes (helloStarted b) p) (s.port p).listenIfCarrier
  rw [← port] at greeted
  have foot : Foot [.ports, .link, .kou] b t := applyLoad_foot_blocks c digest s
  have bytes : helloBytes t p = helloBytes (helloStarted b) p := by
    have lku : t.lku = (startHello b).lku := (applyLoad_lku c digest s).trans (if_pos first)
    obtain ⟨digest', enabled, -⟩ := startHello_lku b
    have started : (helloStarted b).port p = (s.port p).listenIfCarrier := by cases p <;> rfl
    refine helloBytes_congr ?_ (foot.tlu (by decide)) ?_ ?_ ?_ ?_
    · rw [State.ownId, State.ownId, foot.config (by decide)]
      rfl
    · rw [lku, digest']
      rfl
    · rw [lku, enabled]
      rfl
    · rw [started, greeted.rest]
    · rw [started, greeted.rest]
  refine ⟨?_, fun idle empty => ?_⟩
  · rw [← listenIfCarrier_link, greeted.rest]
  · obtain ⟨-, -, -, starts⟩ :=
      Port.takeHello_cases (helloBytes (helloStarted b) p) (s.port p).listenIfCarrier
    rw [port, starts (queue.trans empty) (tx.trans idle), bytes]
    exact ⟨rfl, queue.trans empty⟩

/-- Settles O16: LOAD byte by byte, its failures, and the configuration taken. -/
theorem loadRuns : Obligations.LoadRuns := by
  refine ⟨fun s => ⟨fun b load free => ?_, fun b c load holds => ?_, fun load free => ?_, fun b load holds => ?_,
    fun bs d b load free more => ?_, fun bs d load => ?_⟩, fun s bs d b load free last => ⟨fun r bad => ?_,
    fun c digest good => ?_⟩⟩
  · refine congrArg Host.Outcome.next ((completeCharacter_free b free).trans ?_)
    exact takeHolding_announced (s := s.onCsu fun u => { u with holding := some b }) load
  · have lost : completeCharacter b s = abandonLoad (.refused .ovr) (s.countCsu fun x =>
        { x with conOverrun := up x.conOverrun }) := by
      have held : s.csu.holding.isSome = true := by rw [holds]; rfl
      simp only [completeCharacter, takeHolding_announced load, held, if_true, overrun, load]
    refine congrArg Host.Outcome.next (lost.trans ?_)
    rw [abandonLoad_eq, ovr_length]
    rfl
  · refine congrArg Host.Outcome.next ((if_pos load).trans ?_)
    exact takeHolding_none (s := (repliesSent s).onCsu fun u =>
      { u with load := .binary [] (s.now + seconds 2) }) free
  · refine congrArg Host.Outcome.next ((if_pos load).trans ?_)
    exact takeHolding_binary (s := (repliesSent s).onCsu fun u =>
      { u with load := .binary [] (s.now + seconds 2) }) rfl holds
  · exact congrArg Host.Outcome.next ((completeCharacter_binary load free b).trans (loadByte_more b (by omega)))
  · have ends : loadTimeout s = abandonLoad (.refused .time) (s.reach d) := by simp only [loadTimeout, load]
    refine congrArg Host.Outcome.next (ends.trans ?_)
    rw [abandonLoad_eq, time_length]
    rfl
  · have ends : completeCharacter b s = abandonLoad r s := by
      rw [completeCharacter_binary load free, loadByte_last b last, finishLoad, bad]
    exact congrArg Host.Outcome.next ends
  · let v := s.onCsu fun u => { u with load := .idle }
    let t := applyLoad c digest v
    have runs : completeCharacter b s = sendReply .ok t := by
      rw [completeCharacter_binary load free, loadByte_last b last, finishLoad, good]
    have foot : Foot [.ports, .link, .kou] (loadBlocks c digest v) t := applyLoad_foot_blocks c digest v
    have lku : t.lku = _ := applyLoad_lku c digest v
    have pcu : t.pcu = s.pcu.load c := foot.pcu (by decide)
    have unconfigured (first : s.tlu.station = .unconfigured) : v.unconfigured = true := beq_iff_eq.2 first
    have started (first : s.tlu.station = .unconfigured) : t.lku = (startHello (loadBlocks c digest v)).lku :=
      lku.trans (if_pos (unconfigured first))
    have kept (later : s.tlu.station ≠ .unconfigured) : t.lku = { s.lku with digest := some digest } :=
      lku.trans (if_neg fun first => later (beq_iff_eq.1 first))
    obtain ⟨digest', enabled, helloAt⟩ := startHello_lku (loadBlocks c digest v)
    refine ⟨_, congrArg Host.Outcome.next runs, checkBlock_digest good, foot.tlu (by decide), ?_, ?_, ?_,
      fun first => ⟨?_, fun p => (applyLoad_port c digest (unconfigured first) p).1⟩,
      fun first p => (applyLoad_port c digest (unconfigured first) p).2, kept, foot.dlu_eq,
      (congrArg Pcu.peers pcu :), (congrArg Pcu.clock pcu :), fun none_ => ?_, fun items some_ length => ?_,
      foot.sgc (by decide), foot.rst (by decide), foot.ksp (by decide), ?_, foot.aou (by decide), fun k l line => ?_⟩
    · show { t.csu with tx := t.csu.tx ++ [TxItem.reply .ok 4] } = _
      rw [foot.csu_eq]
      rfl
    · by_cases first : s.tlu.station = .unconfigured
      · exact (congrArg Lku.digest (started first)).trans digest'
      · exact (congrArg Lku.digest (kept first) :)
    · by_cases first : s.tlu.station = .unconfigured
      · exact (congrArg Lku.enabled (started first)).trans enabled
      · exact (congrArg Lku.enabled (kept first) :)
    · exact (congrArg Lku.helloAt (started first)).trans helloAt
    · exact ((congrArg Pcu.cues pcu).trans (congrArg some (reload_none c.cueInit none_)) :)
    · refine ⟨s.pcu.reload c.cueInit, (congrArg Pcu.cues pcu :), ?_, fun i x item => ?_⟩
      · rw [Pcu.reload, List.length_map, List.length_range]
      · have within : i < 17 := length ▸ (List.getElem?_eq_some_iff.1 item).1
        rw [reload_getElem? c.cueInit s.pcu within, Pcu.item, some_, Option.bind_some, item, reloadItem]
    · have settled := archiveSettle_take (if v.unconfigured then startHello (loadBlocks c digest v) else loadBlocks c digest v)
      refine settled.trans ?_
      split
      · rw [(startHello_foot _).kou (by decide)]
        rfl
      · rfl
    · have cfr : t.cfr = s.cfr.reload c := foot.cfr (by decide)
      show t.cfr.lines[k]? = _
      rw [cfr, Cfr.reload, reloadLines_getElem?, line, Nat.zero_add]
      rfl

end Sys2Proof.Machine
end

section
/-! The configuration that a LOAD accepts (O17). -/

namespace Sys2Proof.Machine

/-! ### The checks of the block (R177) -/

theorem firstBad_cons {n : FieldName} {ok : Bool} {rest : List (FieldName × Bool)} :
    firstBad ((n, ok) :: rest) = none ↔ ok = true ∧ firstBad rest = none := by
  cases ok <;> simp [firstBad]

theorem within_iff {lo hi n : Nat} : within lo hi n = true ↔ lo ≤ n ∧ n ≤ hi := by
  simp [within]

theorem allDistinct_iff (xs : List Nat) : allDistinct xs = true ↔ xs.Nodup := by
  induction xs with
  | nil => exact ⟨fun _ => .nil, fun _ => rfl⟩
  | cons x rest ih => simp [allDistinct, ih]

theorem checkBlock_loaded {bs : Bytes} {c : Configuration} {digest : Word} (h : checkBlock bs = .loaded c digest) :
    wordSum bs = 0 ∧ firstBad (fieldChecks bs) = none ∧ c = decodeBlock bs := by
  unfold checkBlock at h
  split at h
  · exact nomatch h
  next sum =>
    split at h
    · exact nomatch h
    next good => exact ⟨Classical.not_not.1 sum, good, (LoadResult.loaded.inj h).1.symm⟩

/-- The entries of a table lie at its offsets. -/
theorem mem_offsets {start size n j : Nat} : j ∈ offsets start size n ↔ ∃ i, i < n ∧ start + size * i = j := by
  simp [offsets]

theorem zeroAt_iff {bs : Bytes} {i : Nat} : zeroAt bs i = true ↔ byteAt bs i = 0 := beq_iff_eq

/-- A run of zeros reads as 0, within the block and beyond. -/
theorem byteAt_of_zeros {bs : Bytes} {start n j : Nat} (zeros : ((bs.drop start).take n).all (· == 0) = true)
    (low : start ≤ j) (high : j < start + n) : byteAt bs j = 0 := by
  have none_ : bs.getD j 0 = 0 := by
    rw [List.getD_eq_getElem?_getD]
    cases at_ : bs[j]? with
    | none => rfl
    | some b =>
      have there : ((bs.drop start).take n)[j - start]? = some b := by
        rw [List.getElem?_take_of_lt (by omega), List.getElem?_drop, Nat.add_sub_cancel' low, at_]
      exact beq_iff_eq.1 (List.all_eq_true.1 zeros b (List.mem_of_getElem? there))
  rw [byteAt, none_]
  rfl

/-! ### The patch (R26) -/

theorem patch_inRange {bs : Bytes} (valid : patchValid bs = true) :
    (∀ e, some e ∈ patchTable bs → e.track ≤ 511 ∧ e.group ≤ 15) ∧
    ((patchTable bs).filterMap fun o => o.map (·.track)).Nodup := by
  obtain ⟨ranges, distinct⟩ := (Bool.and_eq_true _ _).mp valid
  refine ⟨fun e m => ?_, (allDistinct_iff _).1 distinct⟩
  have entry := List.all_eq_true.1 ranges (some e) m
  simp only [Option.all_some, Bool.and_eq_true, within_iff] at entry
  omega

theorem patch_padded {bs : Bytes} {i : Nat} (pad : patchPad bs (18 + i) = true) : byteAt bs (18 + i) < 4 ∧
    ((byteAt bs (18 + i)).testBit 0 = false → byteAt bs (18 + i) = 0 ∧ byteAt bs (19 + i) = 0 ∧
      byteAt bs (20 + i) = 0 ∧ byteAt bs (21 + i) = 0) := by
  rw [show 19 + i = 18 + i + 1 by omega, show 20 + i = 18 + i + 2 by omega, show 21 + i = 18 + i + 3 by omega]
  unfold patchPad at pad
  split at pad
  next used =>
    have := of_decide_eq_true pad
    exact ⟨by omega, fun unused => absurd used (by simp [unused])⟩
  next =>
    simp only [Bool.and_eq_true, zeroAt_iff] at pad
    omega

/-! ### The static list (R177, Table 6-2) -/

theorem staticEntry_staticAt (bs : Bytes) (i : Nat) : (staticEntry (staticAt bs i)).track = wordAt16 bs (i + 3) := by
  unfold staticAt
  split <;> rfl

theorem statics_inRange {bs : Bytes} (valid : staticsValid bs = true) :
    let statics := (staticOffsets bs).map (staticAt bs)
    statics.length = byteAt bs 167 ∧ byteAt bs 167 ≤ 64 ∧ (statics.map fun x => (staticEntry x).track).Nodup ∧
    (∀ k o g, StaticEntry.pin k o g ∈ statics → k ≤ 511 ∧ 1 ≤ o ∧ o ≤ 16 ∧ o ≠ byteAt bs 11 ∧ g ≤ 15) ∧
    (∀ k, StaticEntry.bar k ∈ statics → k ≤ 511) := by
  intro statics
  simp only [staticsValid, Bool.and_eq_true, within_iff, allDistinct_iff] at valid
  obtain ⟨⟨count, entries⟩, distinct⟩ := valid
  have entry {x : StaticEntry} (m : x ∈ statics) : ∃ i, staticAt bs i = x ∧ staticValid bs i = true := by
    obtain ⟨i, there, rfl⟩ := List.mem_map.1 m
    exact ⟨i, rfl, List.all_eq_true.1 entries i there⟩
  refine ⟨?_, count.2, ?_, fun k o g m => ?_, fun k m => ?_⟩
  · simp only [statics, staticOffsets, offsets, List.length_map, List.length_range]
    omega
  · rw [List.map_map]
    exact (List.map_congr_left fun i _ => staticEntry_staticAt bs i) ▸ distinct
  · obtain ⟨i, is, good⟩ := entry m
    unfold staticAt at is
    split at is
    next pin =>
      simp only [StaticEntry.pin.injEq] at is
      obtain ⟨rfl, rfl, rfl⟩ := is
      simp only [staticValid, pin, Bool.and_eq_true, within_iff, bne_iff_ne] at good
      omega
    · exact nomatch is
  · obtain ⟨i, is, good⟩ := entry m
    unfold staticAt at is
    split at is
    · exact nomatch is
    · simp only [StaticEntry.bar.injEq] at is
      simp only [staticValid, Bool.and_eq_true, within_iff] at good
      omega

/-! ### The cue items (R111) -/

theorem cueInit_group {i n : Nat} (low : i < 16) (valid : (cueOfCode i n).isSome = true) :
    n = 0 ∧ cueOfCode i n = some .dark ∨ n = 1 ∧ cueOfCode i n = some .primed ∨ n = 2 ∧ cueOfCode i n = some .on := by
  rw [cueOfCode, if_pos low] at valid ⊢
  unfold groupValueOf at valid ⊢
  split at valid <;> simp_all

theorem cueInit_freeze {n : Nat} (valid : (cueOfCode 16 n).isSome = true) :
    n = 0 ∧ cueOfCode 16 n = some .off ∨ n = 1 ∧ cueOfCode 16 n = some .on := by
  rw [cueOfCode, if_neg (by decide), if_pos rfl] at valid ⊢
  unfold freezeValueOf at valid ⊢
  split at valid <;> simp_all

/-- The item of a valid cue table at an index (R111). -/
theorem cueInit_getElem? {bs : Bytes} (valid : cueInitValid bs = true) {i : Nat} (h : i < 17) :
    (cueOfCode i (byteAt bs (488 + i))).isSome = true ∧
    ∀ v, cueOfCode i (byteAt bs (488 + i)) = some v → (decodeBlock bs).cueInit[i]? = some v := by
  refine ⟨List.all_eq_true.1 valid i (List.mem_range.2 h), fun v code => ?_⟩
  show ((List.range 17).map fun i => (cueOfCode i (byteAt bs (488 + i))).getD .dark)[i]? = some v
  rw [List.getElem?_map, List.getElem?_range h, Option.map_some, code, Option.getD_some]

theorem cueInit_inRange {bs : Bytes} (valid : cueInitValid bs = true) :
    (∀ i, i < 16 → byteAt bs (488 + i) = 0 ∧ (decodeBlock bs).cueInit[i]? = some .dark ∨
      byteAt bs (488 + i) = 1 ∧ (decodeBlock bs).cueInit[i]? = some .primed ∨
      byteAt bs (488 + i) = 2 ∧ (decodeBlock bs).cueInit[i]? = some .on) ∧
    (byteAt bs 504 = 0 ∧ (decodeBlock bs).cueInit[16]? = some .off ∨
      byteAt bs 504 = 1 ∧ (decodeBlock bs).cueInit[16]? = some .on) := by
  refine ⟨fun i low => ?_, ?_⟩
  · obtain ⟨good, item⟩ := cueInit_getElem? valid (show i < 17 by omega)
    exact (cueInit_group low good).imp (.imp_right (item _)) (.imp (.imp_right (item _)) (.imp_right (item _)))
  · obtain ⟨good, item⟩ := cueInit_getElem? valid (show 16 < 17 by omega)
    exact (cueInit_freeze good).imp (.imp_right (item _)) (.imp_right (item _))

/-! ### The on-off fields and PAD (R187) -/

theorem onOff_cases {bs : Bytes} {i : Nat} (valid : onOff bs i = true) :
    byteAt bs i = 0 ∧ (byteAt bs i == 1) = false ∨ byteAt bs i = 1 ∧ (byteAt bs i == 1) = true := by
  have := of_decide_eq_true valid
  obtain off | on : byteAt bs i = 0 ∨ byteAt bs i = 1 := by omega
  · exact .inl ⟨off, by rw [off]; rfl⟩
  · exact .inr ⟨on, by rw [on]; rfl⟩

/-- PAD: the patch, the statics within the count, and the two runs of zeros. -/
theorem padValid_parts {bs : Bytes} (valid : padValid bs = true) :
    (∀ i, i < 32 → patchPad bs (18 + 4 * i) = true) ∧
    (∀ i, i < min (byteAt bs 167) 64 → staticPad bs (168 + 5 * i) = true) ∧
    ((bs.drop (168 + 5 * byteAt bs 167)).take (320 - 5 * byteAt bs 167)).all (· == 0) = true ∧
    ((bs.drop 516).take 508).all (· == 0) = true := by
  simp only [padValid, Bool.and_eq_true] at valid
  obtain ⟨⟨⟨patch, statics⟩, table⟩, rest⟩ := valid
  exact ⟨fun i h => List.all_eq_true.1 patch _ (mem_offsets.2 ⟨i, h, rfl⟩),
    fun i h => List.all_eq_true.1 statics _ (mem_offsets.2 ⟨i, h, rfl⟩), table, rest⟩

theorem static_padded {bs : Bytes} {i : Nat} (pad : staticPad bs (168 + i) = true) (bar : byteAt bs (168 + i) = 2) :
    byteAt bs (169 + i) = 0 ∧ byteAt bs (170 + i) = 0 := by
  rw [show 169 + i = 168 + i + 1 by omega, show 170 + i = 168 + i + 2 by omega]
  simpa [staticPad, bar, zeroAt_iff] using pad

/-- Settles O17: each field by its check. -/
theorem loadedConfigurationInRange : Obligations.LoadedConfigurationInRange := by
  intro bs c digest loaded
  obtain ⟨sum, good, rfl⟩ := checkBlock_loaded loaded
  simp only [fieldChecks, firstBad_cons, within_iff] at good
  obtain ⟨-, rate, budget, ceiling, age, station, attn, lead, drainEnd, patch, high, low, hold, guard, limit, static,
    cueInit, airRole, latency, conceal, cutMode, cutRef, cutEpoch, cutDup, cutOp, keepRole, resend, pad, -⟩ := good
  obtain ⟨patchRange, patchNodup⟩ := patch_inRange patch
  obtain ⟨count, most, staticNodup, pins, bars⟩ := statics_inRange static
  obtain ⟨groups, freeze⟩ := cueInit_inRange cueInit
  obtain ⟨patchPad, staticPad, table, rest⟩ := padValid_parts pad
  have size : (decodeBlock bs).statics.length = byteAt bs 167 := count
  have limits (i : Nat) (h : i < 16) : byteAt bs (151 + 1 * i) ≤ 32 :=
    (within_iff.1 (List.all_eq_true.1 limit _ (mem_offsets.2 ⟨i, h, rfl⟩))).2
  refine ⟨sum, budget.1, budget.2, ceiling.2, age.1, age.2, station.1, station.2, lead.1, lead.2, drainEnd.1,
    drainEnd.2, ?_, patchRange, patchNodup, high.1, high.2, low.1, ?_, hold.1, hold.2, ?_, ?_, count ▸ most, staticNodup,
    pins, bars, ?_, latency.1, latency.2, conceal.2, resend.1, resend.2, attn.2, rfl, ?_, ?_, ?_, groups, freeze,
    fun i h => patch_padded (patchPad i h), count, fun i h bar => ?_, fun j least most' => ?_, fun j least most' => ?_⟩
  · simp [decodeBlock, patchTable, offsets]
  · show byteAt bs 147 + 8 ≤ byteAt bs 146
    omega
  · simp [decodeBlock, offsets]
  · intro n m
    obtain ⟨j, there, rfl⟩ := List.mem_map.1 m
    obtain ⟨i, h, rfl⟩ := mem_offsets.1 there
    exact limits i h
  · simp [decodeBlock]
  · show byteAt bs 4 = 1 ∧ (if byteAt bs 4 = 1 then SampleRate.r48 else .r96) = .r48 ∨
      byteAt bs 4 = 2 ∧ (if byteAt bs 4 = 1 then SampleRate.r48 else .r96) = .r96
    obtain one | two : byteAt bs 4 = 1 ∨ byteAt bs 4 = 2 := by omega
    · exact .inl ⟨one, if_pos one⟩
    · exact .inr ⟨two, if_neg (by omega)⟩
  · show byteAt bs 508 = 1 ∧ cutModeOf (byteAt bs 508) = .quiet ∨ byteAt bs 508 = 2 ∧ cutModeOf (byteAt bs 508) = .stop ∨
      byteAt bs 508 = 3 ∧ cutModeOf (byteAt bs 508) = .float
    obtain one | two | three : byteAt bs 508 = 1 ∨ byteAt bs 508 = 2 ∨ byteAt bs 508 = 3 := by omega
    · exact .inl ⟨one, by rw [one]; rfl⟩
    · exact .inr (.inl ⟨two, by rw [two]; rfl⟩)
    · exact .inr (.inr ⟨three, by rw [three]; rfl⟩)
  · simp only [List.forall_mem_cons, List.not_mem_nil, false_implies, implies_true, and_true]
    exact ⟨onOff_cases guard, onOff_cases airRole, onOff_cases cutRef, onOff_cases cutEpoch, onOff_cases cutDup,
      onOff_cases cutOp, onOff_cases keepRole⟩
  · exact static_padded (staticPad i (by omega)) bar
  · rw [size] at least
    exact byteAt_of_zeros table least (by omega)
  · exact byteAt_of_zeros rest least most'

end Sys2Proof.Machine
end

section
/-! The house reference: marks and its loss (O18). -/

namespace Sys2Proof.Machine

/-! ### What the tests at the end of an event leave of the reference -/

/-- The tests change the station, the drain timer, the void run and END_UNDRAINED alone. -/
theorem settle_tlu_fields (s : State) : ∃ st timer void n, (settle s).tlu = { s.tlu with
    station := st
    endTimer := timer
    voidRun := void
    counts := { s.tlu.counts with endUndrained := n } } := by
  obtain same | ⟨-, n, done⟩ := settle_tlu s
  · exact ⟨_, _, _, _, same⟩
  · exact ⟨_, _, _, _, done⟩

theorem discardPeriod_none {s : State} (none_ : s.cfr.period = none) : discardPeriod s = s := by
  simp only [discardPeriod, none_]

/-- With no accumulation open the tests leave the Capture Front. -/
theorem settle_cfr {s : State} (none_ : s.cfr.period = none) : (settle s).cfr = s.cfr := by
  have cfr : (reported s).cfr = s.cfr := (reported_foot s).cfr (by decide)
  obtain ⟨-, -, -, done⟩ | ⟨same, -⟩ := testDone_cases (reported s)
  · rw [settle_eq, done, enterDone, discardPeriod_none]
    · exact cfr
    · exact (congrArg Cfr.period cfr).trans none_
  · rw [settle_eq, same, cfr]

/-! ### The accumulations discarded (R29) -/

theorem countDiscards_getElem? {chs : List Nat} (distinct : chs.Nodup) (cs : List ChannelCounts) (k : Nat) :
    (countDiscards chs cs)[k]? = cs[k]?.map fun c => { c with segDiscard := upIf (decide (k ∈ chs)) c.segDiscard } := by
  induction chs generalizing cs with
  | nil =>
    simp [countDiscards, upIf]
  | cons ch rest ih =>
    obtain ⟨fresh, distinct⟩ := List.nodup_cons.1 distinct
    rw [countDiscards, ih distinct, modifyAt_getElem?]
    by_cases here : k = ch
    · subst here
      simp [upIf, fresh, Function.comp_def]
    · simp [here]

theorem discardPeriod_discarded (s : State) : s.Discarded (discardPeriod s) := by
  refine ⟨discardPeriod_period s, fun p open_ distinct k c channel => ?_⟩
  have channels : (discardPeriod s).cfr.channels =
      if p.index.isSome then countDiscards (p.accs.map (·.channel)) s.cfr.channels else s.cfr.channels := by
    simp only [discardPeriod, open_]
    rfl
  rw [channels]
  cases p.index with
  | none => exact channel
  | some n =>
    have among : decide (k ∈ p.accs.map (·.channel)) = p.accs.any fun a => a.channel == k := by
      rw [Bool.eq_iff_iff]
      simp
    rw [if_pos (show (some n).isSome = true from rfl), countDiscards_getElem? distinct, channel, among]
    rfl

/-! ### The reference is no longer LOCKED (R1, R2, R4) -/

theorem leaveLocked_tlu (cause : Cause) (cut : CutCause) (s : State) :
    (leaveLocked cause cut s).tlu = { s.tlu with voidNoted := false } := by
  rw [leaveLocked, (discardPeriod_foot _).tlu (by decide), (cutTrigger_foot _ _ _).tlu (by decide), raiseAttn_tlu]
  rfl

/-- What the loss of the lock brings: the accumulations gone, REF raised, the reference trigger presented. -/
theorem leaveLocked_brings (cause : Cause) (cut : CutCause) (s : State) :
    s.Discarded (settle (leaveLocked cause cut s)) ∧ State.Raised .ref cause s (settle (leaveLocked cause cut s)) ∧
    State.Triggered (·.cutRef) cut s (settle (leaveLocked cause cut s)) := by
  let v := s.onTlu fun t => { t with voidNoted := false }
  let a := raiseAttn .ref cause v
  let c := cutTrigger (·.cutRef) cut a
  have csu : (settle (discardPeriod c)).csu = c.csu := by rw [settle_csu, (discardPeriod_foot c).csu_eq]
  have aou : c.aou.SameCut (settle (discardPeriod c)).aou := by
    have same := settle_sameCut (discardPeriod c)
    rwa [(discardPeriod_foot c).aou (by decide)] at same
  refine ⟨?_, fun pending counts => ?_, ?_⟩
  · have cfr : c.cfr = s.cfr := (cutTrigger_foot _ _ a).cfr (by decide)
    have gone := discardPeriod_discarded c
    rw [State.Discarded, cfr] at gone
    rw [State.Discarded, show (settle (leaveLocked cause cut s)).cfr = _ from settle_cfr (discardPeriod_period c)]
    exact gone
  · obtain ⟨raised, counted⟩ := raiseAttn_raised .ref cause v pending counts
    obtain ⟨kept, keptCount⟩ := cutTrigger_unraised (show AttnClass.ref ≠ .cut by decide) (·.cutRef) cut a
    rw [show (settle (leaveLocked cause cut s)).csu = c.csu from csu]
    exact ⟨kept.trans raised, keptCount.trans counted⟩
  · have quiet : State.Unraised .cut s a := raiseAttn_unraised (show AttnClass.cut ≠ .ref by decide) cause v
    have triggered : State.Triggered (·.cutRef) cut s c := (cutTrigger_triggered (·.cutRef) cut a).behind
      ⟨rfl, rfl, rfl⟩ quiet rfl (modifyAt_length _ _ _) (modifyAt_length _ _ _)
    exact triggered.before aou (congrArg Csu.pendingAttn csu) (congrArg Csu.attnRaised csu)

/-! ### A mark by the reference state (Table 1-2) -/

section
variable {s : State} {count : Word} {spacing : Nat}

theorem takeMark_first (unlocked : s.tlu.ref = .noRef ∨ s.tlu.ref = .lost) :
    takeMark count spacing s = s.onTlu (Tlu.mark count s.lossDue .acquiring 1) := by
  obtain none_ | lost := unlocked
  · simp only [takeMark, none_]
  · simp only [takeMark, lost]

theorem takeMark_counts (acquiring : s.tlu.ref = .acquiring) (continues : s.continuesRun count spacing = true)
    (short : s.tlu.run + 1 < 3) :
    takeMark count spacing s = s.onTlu (Tlu.mark count s.lossDue .acquiring (s.tlu.run + 1)) := by
  simp only [takeMark, acquiring, continues, if_true, if_neg (Nat.not_le.2 short)]

theorem takeMark_restarts (acquiring : s.tlu.ref = .acquiring) (breaks : s.continuesRun count spacing = false) :
    takeMark count spacing s = s.onTlu (Tlu.mark count s.lossDue .acquiring 1) := by
  simp only [takeMark, acquiring, breaks, Bool.false_eq_true, if_false]

theorem takeMark_breaks (locked : s.tlu.ref = .locked) (breaks : s.continuesRun count spacing = false) :
    takeMark count spacing s = breakRun (s.onTlu (Tlu.mark count s.lossDue .acquiring 1)) := by
  simp only [takeMark, locked, breaks, Bool.false_eq_true, if_false]

/-- The Timeline Unit after a mark that takes a boundary. -/
theorem takeMark_boundary_tlu (h : s.MarksBoundary count spacing) : ∃ i, (takeMark count spacing s).tlu =
    { (s.tlu.mark count s.lossDue .locked (s.tlu.run + 1)).atBoundary count with codedIndex := i } := by
  rw [takeMark_of_boundary h]
  exact takeBoundary_tlu count _

theorem takeMark_breaks_tlu (locked : s.tlu.ref = .locked) (breaks : s.continuesRun count spacing = false) :
    (takeMark count spacing s).tlu = { s.tlu.mark count s.lossDue .acquiring 1 with
      voidNoted := false
      counts := { s.tlu.counts with refJump := up s.tlu.counts.refJump } } := by
  rw [takeMark_breaks locked breaks, breakRun, leaveLocked_tlu]
  rfl

end

/-- A mark that neither takes a boundary nor breaks a lock leaves the reference ACQUIRING. -/
theorem takeMark_acquires {s : State} {count : Word} {spacing : Nat} (plain : ¬ s.MarksBoundary count spacing)
    (held : ¬ (s.tlu.ref = .locked ∧ s.continuesRun count spacing = false)) :
    ∃ run, takeMark count spacing s = s.onTlu (Tlu.mark count s.lossDue .acquiring run) := by
  by_cases locked : s.tlu.ref = .locked
  · have continues : s.continuesRun count spacing = true := by simpa [locked] using held
    exact absurd ⟨.inl locked, State.continuesRun_iff.1 continues⟩ plain
  by_cases acquiring : s.tlu.ref = .acquiring
  · by_cases continues : s.continuesRun count spacing = true
    · have short : s.tlu.run + 1 < 3 := by
        refine Classical.byContradiction fun enough => ?_
        exact plain ⟨.inr ⟨acquiring, by omega⟩, State.continuesRun_iff.1 continues⟩
      exact ⟨_, takeMark_counts acquiring continues short⟩
    · exact ⟨_, takeMark_restarts acquiring (Bool.eq_false_iff.2 continues)⟩
  · have first : s.tlu.ref = .noRef ∨ s.tlu.ref = .lost := by
      cases ref : s.tlu.ref with
      | noRef => exact .inl rfl
      | lost => exact .inr rfl
      | acquiring => exact absurd ref acquiring
      | locked => exact absurd ref locked
    exact ⟨_, takeMark_first first⟩

/-- Every mark: what it leaves of the Timeline Unit whatever the reference state. -/
theorem takeMark_always (count : Word) (spacing : Nat) (s : State) :
    let t := (takeMark count spacing s).tlu
    t.lastMark = some count ∧ t.lossTimer = some s.lossDue ∧ t.counts.refLoss = s.tlu.counts.refLoss ∧
    (¬ (s.tlu.ref = .locked ∧ s.continuesRun count spacing = false) → t.counts.refJump = s.tlu.counts.refJump) := by
  intro t
  by_cases boundary : s.MarksBoundary count spacing
  · obtain ⟨i, tlu⟩ := takeMark_boundary_tlu boundary
    rw [show t = _ from tlu]
    exact ⟨rfl, rfl, rfl, fun _ => rfl⟩
  by_cases broken : s.tlu.ref = .locked ∧ s.continuesRun count spacing = false
  · rw [show t = _ from takeMark_breaks_tlu broken.1 broken.2]
    exact ⟨rfl, rfl, rfl, fun n => absurd broken n⟩
  · obtain ⟨run, acquires⟩ := takeMark_acquires boundary broken
    rw [show t = _ from congrArg State.tlu acquires]
    exact ⟨rfl, rfl, rfl, fun _ => rfl⟩

/-! ### The loss timer (R2) -/

theorem loseReference_of_acquiring {s : State} (h : s.tlu.ref ≠ .locked) :
    loseReference s = s.onTlu fun t => { t with ref := .lost, lossTimer := none } :=
  if_neg h

theorem loseReference_of_locked {s : State} (h : s.tlu.ref = .locked) :
    loseReference s = leaveLocked .refLoss .refLoss (s.onTlu fun t => { t with
      ref := .lost, lossTimer := none, counts := { t.counts with refLoss := up t.counts.refLoss } }) :=
  if_pos h

/-- Settles O18: Table 1-2 row by row, and the loss of the reference. -/
theorem referenceMoves : Obligations.ReferenceMoves := by
  refine ⟨fun s count spacing => ⟨fun unconfigured => ?_, ?_⟩, fun s => ⟨fun none_ => ?_, fun d runs ref => ?_⟩⟩
  · exact congrArg Host.Outcome.next (if_pos (beq_iff_eq.2 unconfigured))
  · intro configured continues
    have runs : exec (.markTaken count spacing) s = .next (settle (takeMark count spacing s)) :=
      congrArg Host.Outcome.next (if_neg fun n => configured (beq_iff_eq.1 n))
    have iff : s.continuesRun count spacing = true ↔ continues := State.continuesRun_iff
    have broken : s.continuesRun count spacing = false ↔ ¬ continues := by rw [← iff, Bool.not_eq_true]
    obtain ⟨st, timer, void, n, tlu⟩ := settle_tlu_fields (takeMark count spacing s)
    obtain ⟨mark, loss, losses, jumps⟩ := takeMark_always count spacing s
    refine ⟨_, runs, ?_⟩
    rw [tlu]
    refine ⟨mark, loss, losses, fun unlocked => ?_, fun acquiring run enough => ?_, fun acquiring run short => ?_,
      fun acquiring breaks => ?_, fun locked run => ?_, fun locked breaks => ?_, fun n => jumps fun b =>
        n ⟨b.1, broken.1 b.2⟩⟩
    · rw [takeMark_first unlocked]
      exact ⟨rfl, rfl, rfl⟩
    · obtain ⟨i, boundary⟩ := takeMark_boundary_tlu (s := s) ⟨.inr ⟨acquiring, enough⟩, run⟩
      rw [boundary]
      exact ⟨rfl, rfl, rfl⟩
    · rw [takeMark_counts acquiring (iff.2 run) short]
      exact ⟨rfl, rfl, rfl⟩
    · rw [takeMark_restarts acquiring (broken.2 breaks)]
      exact ⟨rfl, rfl, rfl⟩
    · obtain ⟨i, boundary⟩ := takeMark_boundary_tlu (s := s) ⟨.inl locked, run⟩
      rw [boundary]
      exact ⟨rfl, rfl, rfl⟩
    · have row := takeMark_breaks locked (broken.2 breaks)
      obtain ⟨gone, raised, triggered⟩ := leaveLocked_brings .refJump .refJump
        ((s.onTlu (Tlu.mark count s.lossDue .acquiring 1)).onTlu fun t => { t with
          counts := { t.counts with refJump := up t.counts.refJump } })
      rw [takeMark_breaks_tlu locked (broken.2 breaks), row]
      exact ⟨rfl, rfl, rfl, rfl, gone, raised, triggered⟩
  · have waits : lossTimerExpires s = s := by simp only [lossTimerExpires, none_]
    exact congrArg Host.Outcome.next waits
  · have expires : lossTimerExpires s = settle (loseReference (s.reach d)) := by simp only [lossTimerExpires, runs]
    have now : (loseReference (s.reach d)).now = max s.now d := (loseReference_foot _).now (by decide)
    obtain ⟨st, timer, void, n, tlu⟩ := settle_tlu_fields (loseReference (s.reach d))
    refine ⟨_, congrArg Host.Outcome.next expires, (settle_now _).trans now, ?_⟩
    rw [tlu]
    by_cases locked : s.tlu.ref = .locked
    · have notAcquiring : s.tlu.ref ≠ .acquiring := by rw [locked]; exact nofun
      obtain ⟨gone, raised, triggered⟩ := leaveLocked_brings .refLoss .refLoss ((s.reach d).onTlu fun t => { t with
        ref := .lost, lossTimer := none, counts := { t.counts with refLoss := up t.counts.refLoss } })
      rw [loseReference_of_locked (s := s.reach d) locked, leaveLocked_tlu]
      exact ⟨rfl, rfl, fun n => absurd n notAcquiring, rfl, fun _ => ⟨rfl, gone, raised, triggered⟩⟩
    · rw [loseReference_of_acquiring (s := s.reach d) locked]
      refine ⟨rfl, rfl, fun _ => ⟨rfl, settle_csu _, ?_⟩, rfl, fun n => absurd n locked⟩
      exact (settle_sameCut _).1

end Sys2Proof.Machine
end

section
/-! A boundary under an epoch (O19). -/

namespace Sys2Proof.Machine

/-! ### The index of a boundary (R3, R5, R9) -/

section
variable {t : Tlu} {e : Epoch} {count : Word} (held : t.epoch = some e)
include held

theorem Tlu.indexAt_of_epoch : t.indexAt count = some (count - e.base) := by
  rw [indexAt, held, Option.map_some]

theorem Tlu.voidAt_of_epoch : t.voidAt count = t.isVoid (count - e.base) := by
  rw [voidAt, indexAt_of_epoch held, Option.map_some, Option.getD_some]

theorem Tlu.entersAt_iff :
    t.entersAt count = true ↔ t.station = .armed ∧ 0 ≤ (count - e.base : Index).toInt := by
  simp [entersAt, indexAt_of_epoch held]

theorem Tlu.highAt_of_epoch :
    t.highAt count = if t.raisesHigh count then some (count - e.base : Index) else t.high := by
  simp only [highAt, indexAt_of_epoch held]

end

theorem Tlu.not_void_of_station {t : Tlu} (h : ¬ (t.station = .running ∨ t.station = .ending)) (n : Index) :
    t.isVoid n = false := by
  rw [Bool.eq_false_iff, Ne, isVoid_iff]
  exact fun void => h void.1

/-- A boundary before index 0 in ARMED, or in DONE: its index is current, and nothing more. -/
theorem Tlu.atBoundary_idle {t : Tlu} {e : Epoch} {count : Word} (held : t.epoch = some e)
    (idle : ¬ (t.station = .running ∨ t.station = .ending)) (stays : t.entersAt count = false) :
    (t.atBoundary count).station = t.station ∧ (t.atBoundary count).curIndex = some (count - e.base : Index) ∧
    (t.atBoundary count).high = t.high := by
  have void : t.voidAt count = false := by rw [voidAt_of_epoch held, not_void_of_station idle]
  have still : (t.station == .running || t.station == .ending) = false := by simpa using idle
  have raises : t.raisesHigh count = false := by rw [raisesHigh, stays, still]; rfl
  refine ⟨?_, ?_, ?_⟩
  · simp only [atBoundary, stays, Bool.false_eq_true, if_false]
  · simp only [atBoundary, void, Bool.false_eq_true, if_false, indexAt_of_epoch held]
  · simp only [atBoundary, highAt_of_epoch held, raises, Bool.false_eq_true, if_false]

/-- The boundary that enters RUNNING. -/
theorem Tlu.atBoundary_enters {t : Tlu} {e : Epoch} {count : Word} (held : t.epoch = some e)
    (enters : t.entersAt count = true) :
    (t.atBoundary count).station = .running ∧ (t.atBoundary count).curIndex = some (count - e.base : Index) ∧
    (t.atBoundary count).high = some (count - e.base : Index) := by
  have armed := ((entersAt_iff held).1 enters).1
  have void : t.voidAt count = false := by
    rw [voidAt_of_epoch held, not_void_of_station (by rw [armed]; exact fun h => h.elim nofun nofun)]
  have raises : t.raisesHigh count = true := by rw [raisesHigh, enters]; rfl
  refine ⟨?_, ?_, ?_⟩
  · simp only [atBoundary, enters, if_true]
  · simp only [atBoundary, void, Bool.false_eq_true, if_false, indexAt_of_epoch held]
  · simp only [atBoundary, highAt_of_epoch held, raises, if_true]

/-- A boundary presented in RUNNING or ENDING, above H. -/
theorem Tlu.atBoundary_raises {t : Tlu} {e : Epoch} {count : Word} (held : t.epoch = some e)
    (performs : t.station = .running ∨ t.station = .ending) (above : t.isVoid (count - e.base) = false) :
    t.atBoundary count = { t with
      houseCount := some count
      curIndex := some (count - e.base : Index)
      high := some (count - e.base : Index)
      voidRun := false } := by
  have void : t.voidAt count = false := by rw [voidAt_of_epoch held, above]
  have stays : t.entersAt count = false := by
    rw [Bool.eq_false_iff, Ne, entersAt_iff held]
    rintro ⟨armed, -⟩
    rw [armed] at performs
    exact performs.elim nofun nofun
  have raises : t.raisesHigh count = true := by
    have moves : (t.station == .running || t.station == .ending) = true := by simpa using performs
    rw [raisesHigh, void, moves]
    exact Bool.or_true _
  simp only [atBoundary, stays, void, highAt_of_epoch held, raises, indexAt_of_epoch held, Bool.false_eq_true, if_false,
    if_true, Bool.or_false, upIf]

/-- A void boundary: the current index and H stay. -/
theorem Tlu.atBoundary_void {t : Tlu} {e : Epoch} {count : Word} (held : t.epoch = some e)
    (void : t.isVoid (count - e.base) = true) : t.atBoundary count = { t with
      houseCount := some count
      voidRun := true
      voidNoted := true
      counts := { t.counts with refVoid := up t.counts.refVoid } } := by
  have performs := ((isVoid_iff _ _).1 void).1
  have void' : t.voidAt count = true := by rw [voidAt_of_epoch held, void]
  have stays : t.entersAt count = false := by
    rw [Bool.eq_false_iff, Ne, entersAt_iff held]
    rintro ⟨armed, -⟩
    rw [armed] at performs
    exact performs.elim nofun nofun
  have raises : t.raisesHigh count = false := by
    rw [raisesHigh, stays, void', Bool.not_true, Bool.and_false]
    rfl
  simp only [atBoundary, stays, void', highAt_of_epoch held, raises, Bool.false_eq_true, if_false, if_true, Bool.or_true,
    upIf]

/-! ### What a void boundary leaves (R5) -/

/-- A class that was not raised, and the sets of the two lists. -/
structure State.QuietOf (c : AttnClass) (s t : State) : Prop where
  unraised : State.Unraised c s t
  pending : t.csu.pendingAttn.length = s.csu.pendingAttn.length
  raised : t.csu.attnRaised.length = s.csu.attnRaised.length

theorem State.QuietOf.refl (c : AttnClass) (s : State) : State.QuietOf c s s := ⟨⟨rfl, rfl⟩, rfl, rfl⟩

theorem State.QuietOf.trans {c : AttnClass} {s t u : State} (h : State.QuietOf c s t) (k : State.QuietOf c t u) :
    State.QuietOf c s u :=
  ⟨⟨k.unraised.1.trans h.unraised.1, k.unraised.2.trans h.unraised.2⟩, k.pending.trans h.pending,
    k.raised.trans h.raised⟩

theorem Foot.quietOf {ps : List Part} {s t : State} (h : Foot ps s t) (c : AttnClass)
    (n : Part.attn ∉ ps := by decide) : State.QuietOf c s t :=
  ⟨h.unraised n c, congrArg List.length (h.attn n).1, congrArg List.length (h.attn n).2⟩

theorem raiseAttn_quietOf {c d : AttnClass} (h : d ≠ c) (x : Cause) (s : State) :
    State.QuietOf d s (raiseAttn c x s) :=
  ⟨raiseAttn_unraised h x s, modifyAt_length _ _ _, modifyAt_length _ _ _⟩

theorem State.QuietOf.raised_behind {c : AttnClass} {x : Cause} {s t u : State} (h : State.QuietOf c s t)
    (k : State.Raised c x t u) : State.Raised c x s u := by
  intro pending counts
  obtain ⟨cause, raised⟩ := k (h.pending.trans pending) (h.raised.trans counts)
  rw [h.unraised.1] at cause
  rw [h.unraised.2] at raised
  exact ⟨cause, raised⟩

theorem State.QuietOf.raised_before {c : AttnClass} {x : Cause} {s t u : State} (h : State.Raised c x s t)
    (k : State.QuietOf c t u) : State.Raised c x s u := by
  intro pending counts
  obtain ⟨cause, raised⟩ := h pending counts
  exact ⟨k.unraised.1.trans cause, k.unraised.2.trans raised⟩

/-- The coding of segments raises no class but SPOOL. -/
theorem appendKeep_quietOf {c : AttnClass} (h : c ≠ .spool) (b : KeepBody) (s : State) :
    State.QuietOf c s (appendKeep b s) := by
  unfold appendKeep
  split
  · exact .refl _ _
  split
  · have loses := (State.onKsp_foot Ksp.lose s).quietOf c
    dsimp only
    split
    · exact loses.trans (raiseAttn_quietOf h _ _)
    · exact loses
  · exact (State.onKsp_foot _ _).quietOf c

theorem makeKeep_quietOf {c : AttnClass} (h : c ≠ .spool) (g : Segment) (s : State) :
    State.QuietOf c s (makeKeep g s) := by
  unfold makeKeep
  split
  · exact ((State.onSgc_foot _ _).quietOf c).trans (appendKeep_quietOf h _ _)
  · exact .refl _ _

theorem codeSegment_quietOf {c : AttnClass} (h : c ≠ .spool) (s : State) : State.QuietOf c s (codeSegment s) := by
  unfold codeSegment
  split
  · exact .refl _ _
  split
  · exact (completeBatch_foot _ _).quietOf c
  · exact ((((makeAir_foot _ _ _).quietOf c).trans (makeKeep_quietOf h _ _)).trans ((drain_foot _).quietOf c)).trans
      ((continueBatch_foot _ _ _).quietOf c)

theorem codeSegments_quietOf {c : AttnClass} (h : c ≠ .spool) (n : Nat) (s : State) :
    State.QuietOf c s (codeSegments n s) := by
  induction n generalizing s with
  | zero => exact .refl _ _
  | succ n ih => exact (codeSegment_quietOf h s).trans (ih _)

theorem finishBatch_quietOf {c : AttnClass} (h : c ≠ .spool) (s : State) : State.QuietOf c s (finishBatch s) := by
  unfold finishBatch
  split
  · exact .refl _ _
  · exact codeSegments_quietOf h _ _

theorem deliver_air_shrinks (bs : Bytes) (s : State) : s.aou.Shrinks (deliver .air true bs s).aou := by
  unfold deliver
  split
  · exact takeArrival_shrinks _ (s.countDlu RingKind.air.countDelivered)
  · exact .refl _

theorem originate_air_shrinks (body : Bytes) (s : State) : s.aou.Shrinks (originate .air body s).aou := by
  cases muted : s.dlu.muted with
  | some x =>
    have declined : originate .air body s = s.countDlu fun c => { c with muteDeclined := up c.muteDeclined } :=
      if_pos (by simp [State.muted, muted])
    rw [declined]
    exact .of_window rfl rfl
  | none =>
    rw [originate_speaking muted]
    generalize ringBytes .air s.nextHeader body = bs
    exact deliver_air_shrinks bs (s.issuing .air bs)

/-- The coding of segments opens no slot. -/
theorem makeAir_shrinks (b : Batch) (g : Segment) (s : State) : s.aou.Shrinks (makeAir b g s).aou := by
  unfold makeAir
  split
  · exact originate_air_shrinks _ (s.onSgc _)
  · exact .refl _

theorem codeSegment_shrinks (s : State) : s.aou.Shrinks (codeSegment s).aou := by
  unfold codeSegment
  split
  · exact .refl _
  split
  · exact (completeBatch_foot _ _).shrinks
  · exact (((makeAir_shrinks _ _ _).trans (makeKeep_foot _ _).shrinks).trans (drain_foot _).shrinks).trans
      (continueBatch_foot _ _ _).shrinks

theorem codeSegments_shrinks (n : Nat) (s : State) : s.aou.Shrinks (codeSegments n s).aou := by
  induction n generalizing s with
  | zero => exact .refl _
  | succ n ih => exact (codeSegment_shrinks s).trans (ih _)

theorem finishBatch_shrinks (s : State) : s.aou.Shrinks (finishBatch s).aou := by
  unfold finishBatch
  split
  · exact .refl _
  · exact codeSegments_shrinks _ _

/-- A boundary that is presented with no index and enters nothing: the period closes, and one may open. -/
theorem takeBoundary_plain {count : Word} {s : State} (none_ : s.tlu.presents count = none)
    (stays : (finishBatch s).tlu.entersAt count = false) : takeBoundary count s =
      feedSettle (openPeriod none (closePeriod none (tluBoundary count (finishBatch s)))) := by
  have presents : (finishBatch s).tlu.presents count = none := (finishBatch_presents count s).trans none_
  simp only [takeBoundary, presents, stays, gradeAt, ageAt, slotAt, driverAt, Option.isSome_none, Bool.false_and,
    Bool.false_eq_true, if_false]

theorem closePeriod_none_sgc (s : State) : (closePeriod none s).sgc = s.sgc := by
  unfold closePeriod
  split
  · rfl
  · dsimp only
    split
    · contradiction
    · rfl

/-- What a void boundary leaves, beside the Timeline Unit. -/
theorem takeBoundary_void {count : Word} {s : State} {e : Epoch} (held : s.tlu.epoch = some e)
    (void : s.tlu.isVoid (count - e.base) = true) :
    let t := takeBoundary count s
    t.aou.openMark = s.aou.openMark ∧ t.sgc.grade = s.sgc.grade ∧ t.rst = s.rst ∧
    (s.tlu.voidNoted = false → State.Raised .ref .refVoid s t) ∧
    (s.tlu.voidNoted = true → State.Unraised .ref s t) := by
  intro t
  let f := finishBatch s
  obtain ⟨i, tlu⟩ := finishBatch_tlu s
  have held' : f.tlu.epoch = some e := (congrArg Tlu.epoch tlu).trans held
  have void' : f.tlu.isVoid (count - e.base) = true := by
    rw [show f.tlu = _ from tlu]
    exact void
  have none_ : s.tlu.presents count = none := Tlu.presents_eq_none fun e' held'' => by
    obtain rfl := Option.some.inj (held.symm.trans held'')
    exact void
  have stays : f.tlu.entersAt count = false := by
    rw [Bool.eq_false_iff, Ne, Tlu.entersAt_iff held']
    rintro ⟨armed, -⟩
    have performs := ((Tlu.isVoid_iff _ _).1 void').1
    rw [armed] at performs
    exact performs.elim nofun nofun
  let b := tluBoundary count f
  have plain : t = feedSettle (openPeriod none (closePeriod none b)) := takeBoundary_plain none_ stays
  have rest : Foot [.cfr, .sgc, .tlu, .aou] b t := by
    rw [plain]
    exact ((closePeriod_foot none b).grow.seq (openPeriod_foot none _).grow).seq (feedSettle_foot _).grow
  have boundary : b = if f.tlu.voidNoted = false then raiseAttn .ref .refVoid (f.onTlu (Tlu.atBoundary count))
      else f.onTlu (Tlu.atBoundary count) := by
    simp only [b, tluBoundary, Tlu.voidAt_of_epoch held', void', Bool.true_and, Bool.not_eq_true']
  have noted : f.tlu.voidNoted = s.tlu.voidNoted := (congrArg Tlu.voidNoted tlu :)
  have coded : State.QuietOf .ref s f := finishBatch_quietOf (by decide) s
  refine ⟨?_, ?_, ?_, fun first => ?_, fun again => ?_⟩
  · have aou : b.aou = f.aou := (tluBoundary_foot count f).aou (by decide)
    have shrinks : (openPeriod none (closePeriod none b)).aou.Shrinks t.aou := by
      rw [plain]
      exact .settled (.refl _)
    rw [shrinks.mark, (openPeriod_foot none _).aou (by decide), (closePeriod_foot none _).aou (by decide), aou]
    exact (finishBatch_shrinks s).mark
  · have sgc : t.sgc = f.sgc := by
      rw [plain, (feedSettle_foot _).sgc (by decide), (openPeriod_foot none _).sgc (by decide), closePeriod_none_sgc,
        (tluBoundary_foot count f).sgc (by decide)]
    rw [sgc]
    exact (finishBatch_grade s).1
  · rw [show t.rst = _ from takeBoundary_rst count s, none_]
    rfl
  · have raised : State.Raised .ref .refVoid f b := by
      rw [boundary, if_pos (noted.trans first)]
      exact raiseAttn_raised .ref .refVoid (f.onTlu (Tlu.atBoundary count))
    exact (rest.quietOf .ref).raised_before (coded.raised_behind raised)
  · have quiet : State.QuietOf .ref f b := by
      rw [boundary, if_neg (by rw [noted, again]; exact nofun)]
      exact (State.onTlu_foot _ _).quietOf .ref
    exact ((coded.trans quiet).trans (rest.quietOf .ref)).unraised

/-- The tests of an event, with the station and the void run that they leave. -/
theorem settle_tlu_outcome (s : State) : ∃ st timer void n,
    (settle s).tlu = { s.tlu with
      station := st, endTimer := timer, voidRun := void, counts := { s.tlu.counts with endUndrained := n } } ∧
    (st = s.tlu.station ∧ void = s.tlu.voidRun ∨ s.tlu.station = .ending ∧ st = .done ∧ void = false) := by
  obtain same | ⟨ending, n, done⟩ := settle_tlu s
  · exact ⟨_, _, _, _, same, .inl ⟨rfl, rfl⟩⟩
  · exact ⟨_, _, _, _, done, .inr ⟨ending, rfl, rfl⟩⟩

/-- Settles O19: a boundary by the station state and by H. -/
theorem boundaryIndex : Obligations.BoundaryIndex := by
  intro s count e locked held run n configured
  let m := s.onTlu (Tlu.mark count s.lossDue .locked (s.tlu.run + 1))
  have taken : takeMark count s.rate.samples s = takeBoundary count m := takeMark_of_boundary ⟨.inl locked, rfl, run⟩
  have runs : exec (.markTaken count s.rate.samples) s = .next (settle (takeBoundary count m)) := by
    refine congrArg Host.Outcome.next ((if_neg fun n => configured (beq_iff_eq.1 n)).trans ?_)
    rw [taken]
  have held' : m.tlu.epoch = some e := held
  obtain ⟨i, tlu⟩ := takeBoundary_tlu count m
  have still (idle : (m.tlu.atBoundary count).station ≠ .ending) :
      (settle (takeBoundary count m)).tlu = { m.tlu.atBoundary count with codedIndex := i } := by
    rw [settle_tlu_of, tlu]
    rw [tlu]
    exact idle
  refine ⟨_, runs, fun armed before => ?_, fun armed after => ?_, fun done => ?_, fun performs => ?_⟩
  · have stays : m.tlu.entersAt count = false := by
      rw [Bool.eq_false_iff, Ne, Tlu.entersAt_iff held']
      exact fun enters => absurd before (Int.not_lt.2 enters.2)
    obtain ⟨station, index, high⟩ := Tlu.atBoundary_idle held' (t := m.tlu) (count := count)
      (by rw [show m.tlu.station = .armed from armed]; exact fun h => h.elim nofun nofun) stays
    rw [still (by rw [station, show m.tlu.station = .armed from armed]; exact nofun)]
    exact ⟨station.trans armed, index, high⟩
  · obtain ⟨station, index, high⟩ := Tlu.atBoundary_enters held' ((Tlu.entersAt_iff held').2 ⟨armed, after⟩)
    rw [still (by rw [station]; exact nofun)]
    exact ⟨station, index, high⟩
  · have stays : m.tlu.entersAt count = false := by
      rw [Bool.eq_false_iff, Ne, Tlu.entersAt_iff held', show m.tlu.station = .done from done]
      exact fun enters => nomatch enters.1
    obtain ⟨station, index, high⟩ := Tlu.atBoundary_idle held' (t := m.tlu) (count := count)
      (by rw [show m.tlu.station = .done from done]; exact fun h => h.elim nofun nofun) stays
    rw [still (by rw [station, show m.tlu.station = .done from done]; exact nofun)]
    exact ⟨station.trans done, index, high⟩
  · obtain ⟨st, timer, void, k, settled, outcome⟩ := settle_tlu_outcome (takeBoundary count m)
    have foot : Foot settleParts (takeBoundary count m) (settle (takeBoundary count m)) := settle_foot _
    obtain ⟨f, aou⟩ := settle_aou (takeBoundary count m)
    have csu := settle_csu (takeBoundary count m)
    rw [tlu] at settled outcome
    rw [settled]
    cases isVoid : m.tlu.isVoid n with
    | false =>
      have boundary := Tlu.atBoundary_raises held' performs isVoid
      rw [boundary] at outcome
      rw [boundary]
      refine ⟨outcome.imp And.left fun done => ⟨done.1, done.2.1⟩, fun _ => ⟨rfl, rfl,
        outcome.elim And.right fun done => done.2.2, rfl⟩, fun below => ?_⟩
      have void := (Tlu.isVoid_iff m.tlu n).2 ⟨performs, below⟩
      rw [isVoid] at void
      exact nomatch void
    | true =>
      have boundary := Tlu.atBoundary_void held' isVoid
      obtain ⟨mark, grade, rst, first, again⟩ := takeBoundary_void held' isVoid
      rw [boundary] at outcome
      rw [boundary]
      refine ⟨outcome.imp And.left fun done => ⟨done.1, done.2.1⟩, fun above => ?_, fun _ => ⟨rfl, rfl, fun notDone =>
        outcome.elim And.right fun done => absurd done.2.1 notDone, rfl, ?_, ?_, ?_, rfl, fun h => ?_, fun h => ?_⟩⟩
      · obtain ⟨h, high, below⟩ := ((Tlu.isVoid_iff m.tlu n).1 isVoid).2
        have := above h high
        omega
      · rw [aou]
        exact mark
      · rw [foot.sgc (by decide)]
        exact grade
      · rw [foot.rst (by decide), rst]
        rfl
      · rw [State.Raised, csu]
        exact first h
      · rw [State.Unraised, csu]
        exact again h

end Sys2Proof.Machine
end

section
/-! The bits of a capture line (O24): the search, the slots, and what a run of bits makes of a line. -/

namespace Sys2Proof.Machine

/-! ### The search for the sync pattern (R19) -/

theorem notSync_iff (bits : List Bool) :
    notSync bits = true ↔ 16 ≤ bits.length ∧ bits.take 16 ≠ syncWord := by
  simp [notSync]

theorem notSync_false_iff (bits : List Bool) :
    notSync bits = false ↔ (16 ≤ bits.length → bits.take 16 = syncWord) := by
  rw [← Bool.not_eq_true, notSync_iff]
  exact Decidable.not_and_not_right

theorem givesUp_iff (bits : List Bool) :
    givesUp bits = true ↔ (16 ≤ bits.length ∧ bits.take 16 ≠ syncWord) ∨
      (232 ≤ bits.length ∧ (bits.drop 216).take 16 ≠ syncWord) := by
  have far : 16 ≤ (bits.drop 216).length ↔ 232 ≤ bits.length := by
    rw [List.length_drop]
    omega
  rw [givesUp, Bool.or_eq_true, notSync_iff, notSync_iff, far]

theorem search_suffix : ∀ bits : List Bool, search bits <:+ bits
  | [] => List.suffix_refl _
  | b :: rest => by
    by_cases up : givesUp (b :: rest) = true
    · rw [search, if_pos up]
      exact (search_suffix rest).trans (List.suffix_cons b rest)
    · exact ⟨[], by rw [search, if_neg up, List.nil_append]⟩

theorem search_stops : ∀ bits : List Bool, givesUp (search bits) = false
  | [] => by decide
  | b :: rest => by
    by_cases up : givesUp (b :: rest) = true
    · rw [search, if_pos up]
      exact search_stops rest
    · rw [search, if_neg up]
      exact Bool.not_eq_true _ ▸ up

theorem search_passes : ∀ (bits : List Bool) (n : Nat), n < bits.length - (search bits).length →
    givesUp (bits.drop n) = true
  | [], _, h => absurd h (by simp)
  | b :: rest, n, h => by
    by_cases up : givesUp (b :: rest) = true
    · rw [search, if_pos up, List.length_cons] at h
      cases n with
      | zero => exact up
      | succ n => exact search_passes rest n (by omega)
    · rw [search, if_neg up] at h
      omega

/-! ### The slots of a frame (Table 2-1) -/

/-- Bits read most significant first, behind a value read before them. -/
theorem testBit_foldl (bits : List Bool) : ∀ (n k : Nat),
    (bits.foldl (fun n b => 2 * n + b.toNat) n).testBit k =
      if k < bits.length then bits.getD (bits.length - 1 - k) false else n.testBit (k - bits.length) := by
  induction bits with
  | nil => intro n k; simp
  | cons b rest ih =>
    intro n k
    rw [List.foldl_cons, ih, List.length_cons]
    by_cases inside : k < rest.length
    · have place : rest.length + 1 - 1 - k = rest.length - 1 - k + 1 := by omega
      rw [if_pos inside, if_pos (by omega), place, List.getD_cons_succ]
    · rw [if_neg inside]
      by_cases first : k = rest.length
      · subst first
        simp only [Nat.sub_self, Nat.testBit_zero]
        cases b
        case false => simp
        case true => simp
      · have place : k - rest.length = k - (rest.length + 1) + 1 := by omega
        have half : (2 * n + b.toNat) / 2 = n := by
          have small := b.toNat_lt
          omega
        rw [if_neg (by omega), place, Nat.testBit_succ, half]

theorem slotOf_getMsbD (bits : List Bool) (full : bits.length = 25) (j : Nat) (h : j < 25) :
    (slotOf bits).getMsbD j = bits.getD j false := by
  have place : bits.length - 1 - (25 - 1 - j) = j := by omega
  simp only [slotOf, BitVec.getMsbD, BitVec.getLsbD_ofNat, testBit_foldl, place]
  simp [h, show 24 - j < 25 by omega, show 24 - j < bits.length by omega]

theorem slotsOf_length : ∀ (n : Nat) (bits : List Bool), (slotsOf n bits).length = n
  | 0, _ => rfl
  | n + 1, bits => congrArg (· + 1) (slotsOf_length n (bits.drop 25))

theorem slotsOf_getMsbD : ∀ (n : Nat) (bits : List Bool), bits.length = 25 * n →
    ∀ i j, i < n → j < 25 → ((slotsOf n bits).getD i 0).getMsbD j = bits.getD (25 * i + j) false
  | 0, _, _, i, _, hi, _ => absurd hi (Nat.not_lt_zero i)
  | n + 1, bits, full, 0, j, _, hj => by
    have first : (bits.take 25).length = 25 := by
      rw [List.length_take]
      omega
    rw [slotsOf, List.getD_cons_zero, slotOf_getMsbD _ first j hj]
    simp [hj]
  | n + 1, bits, full, i + 1, j, hi, hj => by
    have rest : (bits.drop 25).length = 25 * n := by
      rw [List.length_drop]
      omega
    rw [slotsOf, List.getD_cons_succ, slotsOf_getMsbD n _ rest i j (by omega) hj]
    simp only [List.getD_eq_getElem?_getD, List.getElem?_drop]
    congr 2
    omega

/-! ### A state with one line replaced -/

/-- A state with one capture line, and the console, replaced. -/
def State.lineBecomes (k : Nat) (m : CaptureLine) (u : Csu) (s : State) : State :=
  { s with cfr := { s.cfr with lines := s.cfr.lines.set k m }, csu := u }

section
variable {s : State} {k : Nat} {l : CaptureLine} (here : s.cfr.lines[k]? = some l)
include here

theorem State.captureLine_of : s.captureLine k = l := by
  rw [State.captureLine, List.getD_eq_getElem?_getD, here]
  rfl

theorem State.lineBecomes_line (m : CaptureLine) (u : Csu) :
    (s.lineBecomes k m u).cfr.lines[k]? = some m := by
  obtain ⟨inside, -⟩ := List.getElem?_eq_some_iff.mp here
  exact List.getElem?_set_self inside

theorem State.onLine_becomes (f : CaptureLine → CaptureLine) :
    s.onLine k f = s.lineBecomes k (f l) s.csu := by
  rw [State.onLine, State.onCfr, modifyAt_eq_set f k _ l here]
  rfl

theorem lineError_becomes (f : CaptureFlag) :
    lineError k f s = s.lineBecomes k ((l.countError f).withFlag f true)
      (if l.flag f then s.csu else s.csu.raise .capture (.capture k f)) := by
  rw [lineError, State.captureLine_of here, State.onLine_becomes here]
  by_cases set : l.flag f = true
  · rw [if_pos set, if_pos set]
  · rw [if_neg set, if_neg set]
    rfl

end

theorem State.lineBecomes_again (k : Nat) (m n : CaptureLine) (u v : Csu) (s : State) :
    (s.lineBecomes k m u).lineBecomes k n v = s.lineBecomes k n v := by
  simp only [State.lineBecomes, List.set_set]

/-- What a LOCKED line and the console become when the line loses framing (R20, R23). -/
theorem framingLost_becomes {s : State} {k : Nat} {l : CaptureLine}
    (here : s.cfr.lines[k]? = some l) :
    framingLost k s = s.lineBecomes k { l with
        state := .hunting, buffer := [], framing := true, framingCount := up l.framingCount }
      (if l.framing then s.csu else s.csu.raise .capture (.capture k .framing)) := by
  rw [framingLost, lineError_becomes here .framing,
    State.onLine_becomes (State.lineBecomes_line here _ _), State.lineBecomes_again]
  rfl

/-! ### A run of bits, by the state of the line (R18 to R21) -/

section
variable {s : State} {k n : Nat} {l : CaptureLine} {bits : List Bool}
  (here : s.cfr.lines[k]? = some l)
include here

theorem receiveBits_off (state : l.state = .off) : receiveBits k n bits s = s := by
  cases n with
  | zero => rfl
  | succ n => rw [receiveBits, State.captureLine_of here, state]

theorem receiveBits_hunting (state : l.state = .hunting) : receiveBits k (n + 1) bits s =
    if (search bits).length < 432 then s.onLine k (CaptureLine.hold (search bits))
    else receiveBits k n ((search bits).drop 432)
      (s.onLine k (CaptureLine.lock (slotsOf 8 ((search bits).drop 232)))) := by
  rw [receiveBits, State.captureLine_of here, state]

theorem receiveBits_locked (state : l.state = .locked) : receiveBits k (n + 1) bits s =
    if notSync bits then receiveBits k n bits (framingLost k s)
    else if bits.length < 216 then s.onLine k (CaptureLine.hold bits)
    else receiveBits k n (bits.drop 216) (frameComplete k (slotsOf 8 (bits.drop 16)) s) := by
  rw [receiveBits, State.captureLine_of here, state]

theorem receiveBits_seeks (state : l.state = .hunting) (few : (search bits).length < 432) :
    receiveBits k (n + 1) bits s = s.lineBecomes k { l with held := search bits } s.csu := by
  rw [receiveBits_hunting here state, if_pos few, State.onLine_becomes here]
  rfl

theorem receiveBits_waits (state : l.state = .locked) (few : bits.length < 216)
    (sync : notSync bits = false) :
    receiveBits k (n + 1) bits s = s.lineBecomes k { l with held := bits } s.csu := by
  rw [receiveBits_locked here state, if_neg (Bool.not_eq_true _ ▸ sync), if_pos few,
    State.onLine_becomes here]
  rfl

/-- The bits of a line that has just locked, or has just stored a frame, and has no more. -/
theorem receiveBits_ends (state : l.state = .locked) :
    receiveBits k (n + 1) [] s = s.lineBecomes k { l with held := [] } s.csu :=
  receiveBits_waits here state (by decide) (by decide)

theorem receiveBits_locks (state : l.state = .hunting) (full : (search bits).length = 432) :
    receiveBits k (n + 2) bits s = s.lineBecomes k { l with
      state := .locked, buffer := [slotsOf 8 ((search bits).drop 232)], held := [] } s.csu := by
  have none : (search bits).drop 432 = [] := List.drop_eq_nil_of_le (Nat.le_of_eq full)
  rw [receiveBits_hunting here state, if_neg (Nat.not_lt_of_le (Nat.le_of_eq full.symm)), none, State.onLine_becomes here,
    receiveBits_ends (State.lineBecomes_line here _ _) rfl, State.lineBecomes_again]
  rfl

theorem receiveBits_completes (state : l.state = .locked) (full : bits.length = 216)
    (sync : notSync bits = false) :
    receiveBits k (n + 2) bits s =
      receiveBits k (n + 1) [] (frameComplete k (slotsOf 8 (bits.drop 16)) s) := by
  have none : bits.drop 216 = [] := List.drop_eq_nil_of_le (Nat.le_of_eq full)
  rw [receiveBits_locked here state, if_neg (Bool.not_eq_true _ ▸ sync), if_neg (Nat.not_lt_of_le (Nat.le_of_eq full.symm)), none]

theorem receiveBits_stores (state : l.state = .locked) (full : bits.length = 216)
    (sync : notSync bits = false) (room : l.buffer.length < 2) :
    receiveBits k (n + 2) bits s = s.lineBecomes k { l with
      buffer := l.buffer ++ [slotsOf 8 (bits.drop 16)], held := [] } s.csu := by
  have ended := receiveBits_ends (n := n) (State.lineBecomes_line here
    (l.join (slotsOf 8 (bits.drop 16))) s.csu) state
  rw [receiveBits_completes here state full sync, frameComplete, State.captureLine_of here,
    if_pos room, State.onLine_becomes here, ended, State.lineBecomes_again]
  rfl

theorem receiveBits_overruns (state : l.state = .locked) (full : bits.length = 216)
    (sync : notSync bits = false) (two : 2 ≤ l.buffer.length) :
    receiveBits k (n + 2) bits s = s.lineBecomes k { l with
        overrun := true, overrunCount := up l.overrunCount, held := [] }
      (if l.overrun then s.csu else s.csu.raise .capture (.capture k .overrun)) := by
  have ended := receiveBits_ends (n := n) (State.lineBecomes_line here
    ((l.countError .overrun).withFlag .overrun true)
    (if l.overrun then s.csu else s.csu.raise .capture (.capture k .overrun))) state
  rw [receiveBits_completes here state full sync, frameComplete, State.captureLine_of here,
    if_neg (Nat.not_lt_of_le two), lineError_becomes here .overrun]
  refine ended.trans ?_
  rw [State.lineBecomes_again]
  rfl

theorem receiveBits_loses (state : l.state = .locked) (lost : notSync bits = true)
    (few : (search bits).length < 432) :
    receiveBits k (n + 2) bits s = s.lineBecomes k { l with
        state := .hunting, buffer := [], held := search bits
        framing := true, framingCount := up l.framingCount }
      (if l.framing then s.csu else s.csu.raise .capture (.capture k .framing)) := by
  rw [receiveBits_locked here state, if_pos lost, framingLost_becomes here, receiveBits_seeks (State.lineBecomes_line here _ _) rfl few,
    State.lineBecomes_again]
  rfl

theorem lineBits_eq : lineBits k bits s =
    receiveBits k ((l.held ++ bits).length + 2) (l.held ++ bits) s := by
  rw [lineBits, State.captureLine_of here]

theorem clockStops_becomes : clockStops k s =
    if l.state = .locked then s.lineBecomes k { l with held := [] } s.csu else s := by
  cases state : l.state
  case off => simp only [clockStops, State.captureLine_of here, state, reduceCtorEq, if_false]
  case hunting => simp only [clockStops, State.captureLine_of here, state, reduceCtorEq, if_false]
  case locked =>
    simp only [clockStops, State.captureLine_of here, state, if_true]
    rw [State.onLine_becomes here, CaptureLine.hold, state]

end

/-! ### The events (R19 to R21, log 7) -/

/-- Whatever bits the lines receive, each stays in its place. -/
theorem receiveBits_lines (k : Nat) : ∀ (n : Nat) (bits : List Bool) (s : State),
    (receiveBits k n bits s).cfr.lines.length = s.cfr.lines.length
  | 0, _, _ => rfl
  | n + 1, bits, s => by
    have changed (f : CaptureLine → CaptureLine) (t : State) :
        (t.onLine k f).cfr.lines.length = t.cfr.lines.length := modifyAt_length _ _ _
    unfold receiveBits
    split
    case h_1 => rfl
    case h_2 =>
      dsimp only
      split
      · exact changed _ _
      · rw [receiveBits_lines, changed]
    case h_3 =>
      split
      · rw [receiveBits_lines, framingLost, changed, lineError_lines_length]
      · split
        · exact changed _ _
        · rw [receiveBits_lines, frameComplete]
          split
          · exact changed _ _
          · exact lineError_lines_length _ _ _

theorem lineBits_line {s : State} {k : Nat} {l : CaptureLine} (here : s.cfr.lines[k]? = some l)
    (bits : List Bool) : ∃ m, (lineBits k bits s).cfr.lines[k]? = some m := by
  obtain ⟨inside, -⟩ := List.getElem?_eq_some_iff.mp here
  exact ⟨_, List.getElem?_eq_getElem ((receiveBits_lines k _ _ s).symm ▸ inside)⟩

/-- Either event brings its runs to the line (log 7). -/
theorem exec_runs {k : Nat} {event : List (List Bool) → Instr}
    (kind : event = (fun runs => .sampleFrameComplete k runs) ∨
      event = (fun runs => .lossOfFraming { line := k, runs := runs })) (runs : List (List Bool))
    (s : State) : exec (event runs) s = .next (lineRuns k runs s) := by
  obtain rfl | rfl := kind
  case inl => rfl
  case inr => rfl

theorem lineRuns_one (k : Nat) (bits : List Bool) (s : State) :
    lineRuns k [bits] s = lineBits k bits s := rfl

theorem lineRuns_more (k : Nat) (bits next : List Bool) (later : List (List Bool)) (s : State) :
    lineRuns k (bits :: next :: later) s =
      lineRuns k (next :: later) (clockStops k (lineBits k bits s)) := rfl

/-- Settles O24: the search and the slots by recursion on the bits; the events by the state of the line and
the bits it has then, each a frame or less. -/
theorem sampleFramesTaken : Obligations.SampleFramesTaken := by
  refine ⟨fun bits => ⟨search_suffix bits, ?_, fun n h => ?_⟩, fun bits full => ?_, ?_⟩
  case refine_1 =>
    intro up
    exact Bool.false_ne_true ((search_stops bits).symm.trans ((givesUp_iff _).mpr up))
  case refine_2 => exact (givesUp_iff _).mp (search_passes bits n h)
  case refine_3 => exact ⟨slotsOf_length 8 bits, slotsOf_getMsbD 8 bits full⟩
  case refine_4 =>
    intro s k l bits event here kind all withLine becomes raised
    have one (bits : List Bool) : exec (event [bits]) s =
        .next (receiveBits k ((l.held ++ bits).length + 2) (l.held ++ bits) s) := by
      rw [exec_runs kind, lineRuns_one, lineBits_eq here]
    have sync (h : 16 ≤ all.length → all.take 16 = syncWord) : notSync all = false :=
      (notSync_false_iff _).mpr h
    refine ⟨exec_runs kind [] s, ?_, ?_, ?_, ?_, ?_, ?_, ?_, ?_⟩
    case refine_1 =>
      intro next later
      obtain ⟨m, kept⟩ := lineBits_line here bits
      refine ⟨_, m, exec_runs kind _ s, kept, ?_⟩
      rw [exec_runs kind, exec_runs kind, lineRuns_more, lineRuns_one, clockStops_becomes kept]
      rfl
    case refine_2 =>
      intro next state few first long other found
      have held := receiveBits_waits (n := all.length + 1) here state few (sync first)
      have stopped : clockStops k (s.lineBecomes k { l with held := all } s.csu) =
          s.lineBecomes k { l with held := [] } s.csu := by
        rw [clockStops_becomes (State.lineBecomes_line here _ _), if_pos state]
        exact State.lineBecomes_again _ _ _ _ _ _
      have fresh := State.lineBecomes_line here { l with held := [] } s.csu
      have lost := receiveBits_loses (n := next.length) fresh state
        ((notSync_iff next).mpr ⟨long, other⟩) found
      rw [exec_runs kind, lineRuns_more, lineBits_eq here, held, stopped, lineRuns_one, lineBits_eq fresh]
      refine congrArg Host.Outcome.next (lost.trans ?_)
      rw [State.lineBecomes_again]
      rfl
    case refine_3 => exact fun state => (one bits).trans (by rw [receiveBits_off here state])
    case refine_4 => exact fun state few => (one bits).trans (by rw [receiveBits_seeks here state few]; rfl)
    case refine_5 => exact fun state full => (one bits).trans (by rw [receiveBits_locks here state full]; rfl)
    case refine_6 =>
      exact fun state few first => (one bits).trans
        (by rw [receiveBits_waits here state few (sync first)]; rfl)
    case refine_7 =>
      intro state full first
      have good := sync fun _ => first
      exact ⟨fun room => (one bits).trans (by rw [receiveBits_stores here state full good room]; rfl),
        fun two => (one bits).trans (by rw [receiveBits_overruns here state full good two]; rfl)⟩
    case refine_8 =>
      intro state long other found
      have lost := (notSync_iff all).mpr ⟨long, other⟩
      exact (one bits).trans (by rw [receiveBits_loses here state lost found]; rfl)

end Sys2Proof.Machine
end

section
/-! A take from the four capture lines (O25). -/

namespace Sys2Proof.Machine

/-! ### Several raises of one class (R180) -/

/-- The console's attentions after a class has been raised for each of a list of causes, in order. -/
def Csu.raiseAll (c : AttnClass) (causes : List Cause) (u : Csu) : Csu :=
  causes.foldl (fun v x => v.raise c x) u

theorem Csu.raiseAll_append (c : AttnClass) (xs ys : List Cause) (u : Csu) :
    u.raiseAll c (xs ++ ys) = (u.raiseAll c xs).raiseAll c ys := List.foldl_append

theorem Csu.raiseAll_attentions (c : AttnClass) (xs : List Cause) : ∀ u : Csu,
    u.raiseAll c xs = { u with
      pendingAttn := (u.raiseAll c xs).pendingAttn
      attnRaised := (u.raiseAll c xs).attnRaised } := by
  induction xs with
  | nil => exact fun _ => rfl
  | cons x xs ih => exact fun u => ih (u.raise c x)

theorem Csu.raiseAll_pending (c : AttnClass) (xs : List Cause) : ∀ u : Csu,
    u.pendingAttn.length = 11 → (u.raiseAll c xs).pendingAttn.getD c.rank none =
      (u.pendingAttn.getD c.rank none).or xs.head? := by
  induction xs with
  | nil => exact fun u _ => (Option.or_none).symm
  | cons x xs ih =>
    intro u full
    have inside : c.rank < u.pendingAttn.length := full ▸ c.rank_lt
    refine (ih (u.raise c x) ((modifyAt_length _ _ _).trans full)).trans ?_
    cases old : u.pendingAttn[c.rank] with
    | none => simp [Csu.raise, List.getD_eq_getElem?_getD, modifyAt_getElem?, inside, old]
    | some y => simp [Csu.raise, List.getD_eq_getElem?_getD, modifyAt_getElem?, inside, old]

theorem Csu.raiseAll_raised (c : AttnClass) (xs : List Cause) : ∀ u : Csu,
    u.attnRaised.length = 11 → (u.raiseAll c xs).attnRaised.getD c.rank 0 =
      upBy (u.attnRaised.getD c.rank 0) xs.length := by
  induction xs with
  | nil => exact fun u _ => (upBy_zero _).symm
  | cons x xs ih =>
    intro u full
    have inside : c.rank < u.attnRaised.length := full ▸ c.rank_lt
    refine (ih (u.raise c x) ((modifyAt_length _ _ _).trans full)).trans ?_
    simp [Csu.raise, List.getD_eq_getElem?_getD, modifyAt_getElem?, inside, upBy_up]

theorem Csu.raiseAll_other {a c : AttnClass} (other : a ≠ c) (xs : List Cause) : ∀ u : Csu,
    (u.raiseAll c xs).pendingAttn.getD a.rank none = u.pendingAttn.getD a.rank none ∧
    (u.raiseAll c xs).attnRaised.getD a.rank 0 = u.attnRaised.getD a.rank 0 := by
  have apart : a.rank ≠ c.rank := fun e => other (AttnClass.rank_inj.1 e)
  induction xs with
  | nil => exact fun _ => ⟨rfl, rfl⟩
  | cons x xs ih =>
    intro u
    obtain ⟨pending, raised⟩ := ih (u.raise c x)
    refine ⟨pending.trans ?_, raised.trans ?_⟩
    · simp [Csu.raise, List.getD_eq_getElem?_getD, modifyAt_getElem?, apart]
    · simp [Csu.raise, List.getD_eq_getElem?_getD, modifyAt_getElem?, apart]

theorem State.raisedFor_of_csu {c : AttnClass} {xs : List Cause} {s t : State}
    (csu : t.csu = s.csu.raiseAll c xs) : State.RaisedFor c xs s t := by
  intro pending raised
  rw [csu]
  exact ⟨Csu.raiseAll_pending c xs _ pending, Csu.raiseAll_raised c xs _ raised⟩

/-! ### One line of a take (R22, Table 2-4) -/

/-- What a take makes of a line. -/
def CaptureLine.taken (l : CaptureLine) : CaptureLine :=
  match l.state, l.buffer with
  | .off, _ | .hunting, _ => l
  | .locked, [] => { l with underrun := true, underrunCount := up l.underrunCount }
  | .locked, f :: rest =>
    let bad := (f.filter fun x => !parityGood x).length
    { l with
      buffer := rest
      parity := l.parity || decide (0 < bad)
      parityCount := upBy l.parityCount bad }

/-- The cause a take from a line raises CAPTURE with, if it sets a flag. -/
def CaptureLine.takeCause (k : Nat) (l : CaptureLine) : Option Cause :=
  match l.state, l.buffer with
  | .locked, [] => if l.underrun then none else some (.capture k .underrun)
  | .locked, f :: _ => if l.parity || f.all parityGood then none else some (.capture k .parity)
  | .hunting, _ => none
  | .off, _ => none

/-- The state after a take from one line. -/
def State.takes (k : Nat) (l : CaptureLine) (s : State) : State :=
  { s with
    cfr := { s.cfr with
      lines := s.cfr.lines.set k l.taken
      period := s.cfr.period.map fun p => { p with accs := p.accs.map (Accumulation.feed k l.yields) } }
    csu := s.csu.raiseAll .capture (l.takeCause k).toList }

theorem set_of_getElem? {xs : List α} {k : Nat} {x : α} (here : xs[k]? = some x) : xs.set k x = xs := by
  obtain ⟨inside, rfl⟩ := List.getElem?_eq_some_iff.mp here
  exact List.set_getElem_self inside

/-- Several parity errors on a line: only the first can raise CAPTURE. -/
theorem lineErrors_parity {k : Nat} (n : Nat) : ∀ {s : State} {l : CaptureLine},
    s.cfr.lines[k]? = some l → lineErrors k .parity n s = s.lineBecomes k { l with
        parity := l.parity || decide (0 < n), parityCount := upBy l.parityCount n }
      (s.csu.raiseAll .capture
        (if l.parity || decide (n = 0) then none else some (Cause.capture k .parity)).toList) := by
  induction n with
  | zero =>
    intro s l here
    have same : s.cfr.lines.set k l = s.cfr.lines := set_of_getElem? here
    simp [lineErrors, upBy_zero, State.lineBecomes, same, Csu.raiseAll]
  | succ n ih =>
    intro s l here
    rw [lineErrors, lineError_becomes here, ih (State.lineBecomes_line here _ _),
      State.lineBecomes_again]
    cases set : l.parity
    case true =>
      simp [CaptureLine.withFlag, CaptureLine.countError, CaptureLine.flag, set, upBy_up,
        State.lineBecomes, Csu.raiseAll]
    case false =>
      simp [CaptureLine.withFlag, CaptureLine.countError, CaptureLine.flag, set, upBy_up,
        State.lineBecomes, Csu.raiseAll]

theorem afterTake_becomes {s : State} {k : Nat} {l : CaptureLine} (here : s.cfr.lines[k]? = some l) :
    afterTake k s = s.lineBecomes k l.taken (s.csu.raiseAll .capture (l.takeCause k).toList) := by
  have same : s.lineBecomes k l s.csu = s := by
    rw [State.lineBecomes, set_of_getElem? here]
  unfold afterTake
  rw [State.captureLine_of here]
  cases state : l.state
  case off => simp [CaptureLine.taken, CaptureLine.takeCause, state, Csu.raiseAll, same]
  case hunting => simp [CaptureLine.taken, CaptureLine.takeCause, state, Csu.raiseAll, same]
  case locked =>
    cases waiting : l.buffer with
    | nil =>
      simp only [CaptureLine.taken, CaptureLine.takeCause, state, waiting]
      rw [lineError_becomes here]
      cases set : l.underrun
      case true => simp [CaptureLine.flag, set, Csu.raiseAll, CaptureLine.withFlag,
        CaptureLine.countError, state, waiting]
      case false => simp [CaptureLine.flag, set, Csu.raiseAll, CaptureLine.withFlag,
        CaptureLine.countError, state, waiting]
    | cons f rest =>
      have clean : f.all parityGood = decide ((f.filter fun x => !parityGood x).length = 0) := by
        rw [Bool.eq_iff_iff, List.all_eq_true, decide_eq_true_iff, List.length_eq_zero_iff,
          List.filter_eq_nil_iff]
        simp
      simp only [CaptureLine.taken, CaptureLine.takeCause, state, waiting]
      rw [State.onLine_becomes here, lineErrors_parity _ (State.lineBecomes_line here _ _),
        State.lineBecomes_again, clean]
      simp only [State.lineBecomes, state]

theorem takeLine_takes {s : State} {k : Nat} {l : CaptureLine} (here : s.cfr.lines[k]? = some l) :
    takeLine k s = s.takes k l := by
  have fed : (feedPeriod k l.yields s).cfr.lines[k]? = some l := here
  rw [takeLine, State.captureLine_of here, afterTake_becomes fed]
  rfl

theorem State.takes_apart {s : State} {k j : Nat} (l : CaptureLine) (apart : k ≠ j) :
    (s.takes k l).cfr.lines[j]? = s.cfr.lines[j]? := List.getElem?_set_ne apart

/-! ### The samples of a take (R27) -/

theorem Accumulation.feed_own (xs : List TakenSample) (a : Accumulation) {x : TakenSample}
    (sample : xs[a.channel % 8]? = some x) : a.feed (a.channel / 8) xs = a.push x := by
  rw [Accumulation.feed, if_pos rfl, sample]

theorem Accumulation.feed_nothing (xs : List TakenSample) (a : Accumulation)
    (nothing : xs[a.channel % 8]? = none) : a.feed (a.channel / 8) xs = a := by
  rw [Accumulation.feed, if_pos rfl, nothing]

theorem Accumulation.feed_other {k : Nat} (xs : List TakenSample) {a : Accumulation}
    (other : a.channel / 8 ≠ k) : a.feed k xs = a := if_neg other

theorem Accumulation.feed_channel (k : Nat) (xs : List TakenSample) (a : Accumulation) :
    (a.feed k xs).channel = a.channel := by
  unfold Accumulation.feed
  split
  · split <;> rfl
  · rfl

/-- An accumulation is fed by the line of its channel alone. -/
theorem Accumulation.feed_all (ys : Nat → List TakenSample) (a : Accumulation)
    (line : a.channel / 8 < 4) :
    (((a.feed 0 (ys 0)).feed 1 (ys 1)).feed 2 (ys 2)).feed 3 (ys 3) =
      a.feed (a.channel / 8) (ys (a.channel / 8)) := by
  have other {k : Nat} (b : Accumulation) (same : b.channel = a.channel) (apart : a.channel / 8 ≠ k) :
      b.feed k (ys k) = b := Accumulation.feed_other _ (same.symm ▸ apart)
  have same (k : Nat) : (a.feed k (ys k)).channel = a.channel := a.feed_channel k _
  obtain h | h | h | h : a.channel / 8 = 0 ∨ a.channel / 8 = 1 ∨ a.channel / 8 = 2 ∨
    a.channel / 8 = 3 := by omega
  · rw [h, other _ (same 0) (by omega), other _ (same 0) (by omega), other _ (same 0) (by omega)]
  · rw [h, other a rfl (by omega), other _ (same 1) (by omega), other _ (same 1) (by omega)]
  · rw [h, other a rfl (by omega), other a rfl (by omega), other _ (same 2) (by omega)]
  · rw [h, other a rfl (by omega), other a rfl (by omega), other a rfl (by omega)]

theorem CaptureLine.feed_off {l : CaptureLine} (off : l.state = .off) (a : Accumulation) :
    a.feed (a.channel / 8) l.yields = a :=
  a.feed_nothing _ (by simp [CaptureLine.yields, off])

theorem CaptureLine.feed_zeros {l : CaptureLine} (zeros : l.yields = zeroTake) (a : Accumulation) :
    a.feed (a.channel / 8) l.yields =
      { a with samples := a.samples ++ [0], damage := a.damage + 1 } := by
  have inside : a.channel % 8 < 8 := Nat.mod_lt _ (by decide)
  have zero : l.yields[a.channel % 8]? = some { value := 0, damaged := true } := by
    rw [zeros, zeroTake, List.getElem?_replicate, if_pos inside]
  rw [a.feed_own _ zero]
  rfl

theorem CaptureLine.feed_frame {l : CaptureLine} {f : List LineSlot} {rest : List (List LineSlot)}
    (locked : l.state = .locked) (waiting : l.buffer = f :: rest) (a : Accumulation) {x : LineSlot}
    (slot : f[a.channel % 8]? = some x) :
    a.feed (a.channel / 8) l.yields = if parityGood x then
        { a with samples := a.samples ++ [x.extractLsb' 1 24] }
      else { a with samples := a.samples ++ [0], damage := a.damage + 1 } := by
  have sample : l.yields[a.channel % 8]? = some (takeSlot x) := by
    simp [CaptureLine.yields, locked, waiting, slot]
  rw [a.feed_own _ sample, takeSlot]
  split <;> rfl

/-! ### The four lines of a take (R22, log 47) -/

theorem exec_sampleTake (s : State) : exec .sampleTake s = .next (takeAll s) := rfl

section
variable {s : State} (open_ : s.unconfigured = false) (four : s.cfr.lines.length = 4)
include open_ four

theorem takeAll_eq : takeAll s = (((s.takes 0 (s.captureLine 0)).takes 1 (s.captureLine 1)).takes 2
    (s.captureLine 2)).takes 3 (s.captureLine 3) := by
  have line (k : Nat) (h : k < 4) : s.cfr.lines[k]? = some (s.captureLine k) :=
    State.getElem?_captureLine (four ▸ h)
  have second : (s.takes 0 (s.captureLine 0)).cfr.lines[1]? = some (s.captureLine 1) :=
    (State.takes_apart _ (by decide)).trans (line 1 (by decide))
  have third : ((s.takes 0 (s.captureLine 0)).takes 1 (s.captureLine 1)).cfr.lines[2]? =
      some (s.captureLine 2) :=
    (State.takes_apart _ (by decide)).trans
      ((State.takes_apart _ (by decide)).trans (line 2 (by decide)))
  have fourth : (((s.takes 0 (s.captureLine 0)).takes 1 (s.captureLine 1)).takes 2
      (s.captureLine 2)).cfr.lines[3]? = some (s.captureLine 3) :=
    (State.takes_apart _ (by decide)).trans ((State.takes_apart _ (by decide)).trans
      ((State.takes_apart _ (by decide)).trans (line 3 (by decide))))
  rw [takeAll, if_neg (Bool.not_eq_true _ ▸ open_), takeLine_takes (line 0 (by decide)),
    takeLine_takes second, takeLine_takes third, takeLine_takes fourth]

theorem takeAll_line {k : Nat} {l : CaptureLine} (here : s.cfr.lines[k]? = some l) :
    (takeAll s).cfr.lines[k]? = some l.taken := by
  obtain ⟨inside, -⟩ := List.getElem?_eq_some_iff.mp here
  rw [takeAll_eq open_ four, ← State.captureLine_of here]
  obtain rfl | rfl | rfl | rfl : k = 0 ∨ k = 1 ∨ k = 2 ∨ k = 3 := by omega
  all_goals simp [State.takes, four]

theorem takeAll_csu : (takeAll s).csu = s.csu.raiseAll .capture
    ((List.range 4).filterMap fun k => (s.captureLine k).takeCause k) := by
  have causes : (List.range 4).filterMap (fun k => (s.captureLine k).takeCause k) =
      (((s.captureLine 0).takeCause 0).toList ++ ((s.captureLine 1).takeCause 1).toList ++
        ((s.captureLine 2).takeCause 2).toList) ++ ((s.captureLine 3).takeCause 3).toList := by
    have one (k : Nat) (ks : List Nat) :
        (k :: ks).filterMap (fun k => (s.captureLine k).takeCause k) =
          ((s.captureLine k).takeCause k).toList ++
            ks.filterMap (fun k => (s.captureLine k).takeCause k) := by
      rw [List.filterMap_cons]
      cases (s.captureLine k).takeCause k with
      | none => rfl
      | some x => rfl
    rw [show List.range 4 = [0, 1, 2, 3] from rfl, one, one, one, one, List.filterMap_nil,
      List.append_nil, List.append_assoc, List.append_assoc]
  rw [takeAll_eq open_ four, causes, Csu.raiseAll_append, Csu.raiseAll_append, Csu.raiseAll_append]
  rfl

theorem takeAll_period_none (none : s.cfr.period = none) : (takeAll s).cfr.period = .none := by
  rw [takeAll_eq open_ four]
  simp only [State.takes, none, Option.map_none]

theorem takeAll_period {p : Period} (under : s.cfr.period = some p) : ∃ q,
    (takeAll s).cfr.period = some q ∧ q.index = p.index ∧ q.accs.length = p.accs.length ∧
    ∀ (i : Nat) (a : Accumulation) (l : CaptureLine), p.accs[i]? = some a →
      s.cfr.lines[a.channel / 8]? = some l → q.accs[i]? = some (a.feed (a.channel / 8) l.yields) := by
  let fed := fun k => List.map (Accumulation.feed k (s.captureLine k).yields)
  refine ⟨{ p with accs := fed 3 (fed 2 (fed 1 (fed 0 p.accs))) }, ?_, rfl, by simp [fed],
    fun i a l acc here => ?_⟩
  · rw [takeAll_eq open_ four]
    simp only [State.takes, under, Option.map_some, fed]
  · obtain ⟨inside, -⟩ := List.getElem?_eq_some_iff.mp here
    have own := a.feed_all (fun k => (s.captureLine k).yields) (four ▸ inside)
    simp only [fed, List.getElem?_map, acc, Option.map_some]
    rw [own, State.captureLine_of here]

theorem takeAll_frame : takeAll s = { s with
    cfr := { s.cfr with lines := (takeAll s).cfr.lines, period := (takeAll s).cfr.period }
    csu := { s.csu with
      pendingAttn := (takeAll s).csu.pendingAttn
      attnRaised := (takeAll s).csu.attnRaised } } := by
  have attentions : (takeAll s).csu = { s.csu with
      pendingAttn := (takeAll s).csu.pendingAttn
      attnRaised := (takeAll s).csu.attnRaised } := by
    rw [takeAll_csu open_ four]
    exact Csu.raiseAll_attentions _ _ _
  rw [← attentions, takeAll_eq open_ four]
  rfl

end

/-- Settles O25: a take is the takes of its four lines in order; each line, each accumulation and each raise
is that of one of them. -/
theorem sampleTakeTaken : Obligations.SampleTakeTaken := by
  intro s
  refine ⟨fun shut => ?_,
    fun open_ four => ⟨takeAll s, exec_sampleTake s, takeAll_frame open_ four, ?_, ?_, ?_, ?_, ?_⟩⟩
  case refine_1 => rw [exec_sampleTake, takeAll, if_pos shut]
  case refine_2 => exact State.raisedFor_of_csu (takeAll_csu open_ four)
  case refine_3 =>
    intro a other
    rw [takeAll_csu open_ four]
    exact Csu.raiseAll_other other _ _
  case refine_4 =>
    intro k l here
    have line := takeAll_line open_ four here
    refine ⟨fun apart => line.trans ?_, fun locked waiting => line.trans ?_,
      fun f rest locked waiting => line.trans ?_⟩
    · cases state : l.state
      case off => simp only [CaptureLine.taken, state]
      case hunting => simp only [CaptureLine.taken, state]
      case locked => exact absurd state apart
    · simp only [CaptureLine.taken, locked, waiting]
    · simp only [CaptureLine.taken, locked, waiting]
  case refine_5 => exact takeAll_period_none open_ four
  case refine_6 =>
    intro p under
    obtain ⟨q, later, index, length, fed⟩ := takeAll_period open_ four under
    refine ⟨q, later, index, length, fun i a l acc here => ⟨fun off => ?_, ?_, ?_⟩⟩
    · rw [fed i a l acc here, CaptureLine.feed_off off]
    · rintro (hunting | ⟨locked, empty⟩)
      · rw [fed i a l acc here, CaptureLine.feed_zeros (by simp [CaptureLine.yields, hunting])]
      · rw [fed i a l acc here, CaptureLine.feed_zeros (by simp [CaptureLine.yields, locked, empty])]
    · intro f rest x locked waiting slot
      rw [fed i a l acc here, CaptureLine.feed_frame locked waiting a slot]

end Sys2Proof.Machine
end

section
/-! The coding of a segment (O26). -/

namespace Sys2Proof.Machine

/-! ### The payloads (R37, R39, Table 3-2) -/

theorem airPayload_length (g : Nat) (xs : List Sample) : (airPayload g xs).length = gradeSize g := by
  rw [airPayload, List.length_map, List.length_range]

theorem samples_flatMap_length (xs : List Sample) : (xs.flatMap sampleBytes).length = 3 * xs.length := by
  induction xs with
  | nil => rfl
  | cons x xs ih =>
    rw [List.flatMap_cons, List.length_append, ih, List.length_cons]
    show 3 + _ = _
    omega

/-- A sample is put back together from its three bytes. -/
theorem sample_of_bytes (x : Sample) :
    (x.extractLsb' 16 8 ++ x.extractLsb' 8 8 ++ x.extractLsb' 0 8 : BitVec 24) = x := by
  ext i hi
  simp only [BitVec.getElem_append, BitVec.getElem_extractLsb']
  split
  · simp [BitVec.getLsbD_eq_getElem hi]
  · split
    · rw [show 8 + (i - 8) = i by omega, BitVec.getLsbD_eq_getElem hi]
    · rw [show 16 + (i - 8 - 8) = i by omega, BitVec.getLsbD_eq_getElem hi]

theorem rawSamples_flatMap (xs : List Sample) : rawSamples (xs.flatMap sampleBytes) = xs := by
  induction xs with
  | nil => rfl
  | cons x xs ih =>
    show (_ :: rawSamples (xs.flatMap sampleBytes)) = _
    rw [ih]
    exact congrArg (· :: xs) (sample_of_bytes x)

theorem keepsRaw_false {r : SampleRate} {xs : List Sample} (coded : keepsRaw r xs = false) :
    Config.keepDecode (Config.keepEncode xs) = xs ∧ 16 ≤ (Config.keepEncode xs).length ∧
      (Config.keepEncode xs).length < r.raw := by
  simp only [keepsRaw, isCoded, Bool.not_eq_false', Bool.and_eq_true, beq_iff_eq,
    decide_eq_true_iff] at coded
  exact ⟨coded.1.1, coded.1.2, coded.2⟩

theorem keepPayload_raw {r : SampleRate} {xs : List Sample} (raw : keepsRaw r xs = true) :
    keepPayload r xs = xs.flatMap sampleBytes := if_pos raw

theorem keepPayload_coded {r : SampleRate} {xs : List Sample} (coded : keepsRaw r xs = false) :
    keepPayload r xs = Config.keepEncode xs := if_neg (Bool.not_eq_true _ ▸ coded)

theorem keepPayload_raw_length {r : SampleRate} {xs : List Sample} (full : xs.length = r.samples)
    (raw : keepsRaw r xs = true) : (keepPayload r xs).length = r.raw := by
  rw [keepPayload_raw raw, samples_flatMap_length, full, SampleRate.raw]

/-- The KEEP payload of a full segment: its length tells its form, and both forms give back the samples. -/
theorem keepPayload_spec {r : SampleRate} {xs : List Sample} (full : xs.length = r.samples) :
    16 ≤ (keepPayload r xs).length ∧ (keepPayload r xs).length ≤ r.raw ∧
    keepSamples r (keepPayload r xs) = xs ∧
    (keepsRaw r xs = true ↔ (keepPayload r xs).length = r.raw) := by
  cases form : keepsRaw r xs
  case true =>
    have length := keepPayload_raw_length full form
    have large : 16 ≤ r.raw := by cases r <;> decide
    refine ⟨length.symm ▸ large, Nat.le_of_eq length, ?_, fun _ => length, fun _ => rfl⟩
    rw [keepSamples, if_pos length, keepPayload_raw form, rawSamples_flatMap]
  case false =>
    obtain ⟨back, long, short⟩ := keepsRaw_false form
    have notRaw : (keepPayload r xs).length ≠ r.raw := by
      rw [keepPayload_coded form]
      exact Nat.ne_of_lt short
    refine ⟨?_, ?_, ?_, fun h => absurd h Bool.false_ne_true, fun h => absurd h notRaw⟩
    · rw [keepPayload_coded form]
      exact long
    · rw [keepPayload_coded form]
      exact Nat.le_of_lt short
    · rw [keepSamples, if_neg notRaw, keepPayload_coded form, back]

/-! ### The AIR record (R37, R76, R77, R131) -/

/-- An origination that is not declined, its offers made once it is numbered and counted (R77). -/
theorem originate_offers {s : State} (speaks : s.dlu.muted = none) (k : RingKind) (body : Bytes) :
    let frame := ringBytes k s.nextHeader body
    originate k body s = deliver k true frame
      (offerFrame .b k.lane frame (offerFrame .a k.lane frame { s with dlu := { s.dlu with
        nextSeq := s.dlu.nextSeq + 1
        counts := { s.dlu.counts with
          originated := up s.dlu.counts.originated
          origUnsent := upIf ((s.port .a).offer k.lane != .queued && (s.port .b).offer k.lane != .queued)
            s.dlu.counts.origUnsent } } })) := by
  have open_ : ¬ s.muted = true := by simp [State.muted, speaks]
  intro frame
  rw [originate, if_neg open_, originateFrame]
  simp only [Offer.not_isQueued]
  rfl

theorem originate_declined {s : State} (muted : s.dlu.muted.isSome = true) (k : RingKind) (body : Bytes) :
    originate k body s = s.countDlu fun c => { c with muteDeclined := up c.muteDeclined } :=
  if_pos muted

/-- An AIR frame read back, delivered at its own station: where there is an Air Outlet, it takes the record. -/
theorem deliver_air (h : RingHeader) (a : AirBody) (s : State) (origin : h.origin < 256)
    (track : a.track < 65536) (group : a.group < 256) (grade : a.load.grade ≤ 7)
    (size : a.load.payload.length = gradeSize a.load.grade) :
    deliver .air true (ringBytes .air h (airBytes a)) s = if s.airRole = true then
        takeArrival { track := a.track, origin := h.origin, index := a.index, load := a.load }
          (s.countDlu RingKind.air.countDelivered)
      else s := by
  obtain ⟨crc, r⟩ := ringBytes_reads .air h (airBytes a)
  have read := parseAir_of_reads track group grade size r
  have header := ringHeader_ringBytes .air h (airBytes a) origin
  generalize ringBytes .air h (airBytes a) = bs at read header
  simp only [deliver, State.delivers, toBlock, Bool.not_true, Bool.false_or, if_true, read, header]

/-! ### The KEEP record (R38, R149, R151) -/

theorem State.rate_of {s : State} {c : Configuration} (loaded : s.csu.config = some c) : s.rate = c.rate := by
  rw [State.rate, loaded]
  rfl

/-- The append of a record, by what of the state it reads (R151). -/
theorem appendKeep_eq (b : KeepBody) (s : State) : appendKeep b s =
    if s.armedOnward = false then s
    else if s.ksp.full = true then { s with
      ksp := { s.ksp with
        lostRun := up s.ksp.lostRun
        counts := { s.ksp.counts with spoolLost := up s.ksp.counts.spoolLost } }
      csu := if s.ksp.lostRun = 0 then s.csu.raise .spool (.spoolFull s.ksp.write) else s.csu }
    else { s with ksp := { s.ksp with
      entries := s.ksp.entries ++ [{ b with sequence := s.ksp.write, lossBefore := s.ksp.lostRun }]
      write := s.ksp.write + 1
      lostRun := 0
      counts := { s.ksp.counts with spoolAppended := up s.ksp.counts.spoolAppended } } } := by
  rw [appendKeep]
  cases s.armedOnward
  case false => rfl
  case true =>
    cases s.ksp.full
    case false => rfl
    case true =>
      by_cases first : s.ksp.lostRun = 0
      · simp only [if_pos first, Bool.not_true, Bool.false_eq_true, reduceCtorEq, if_false, if_true]
        rfl
      · simp only [if_neg first, Bool.not_true, Bool.false_eq_true, reduceCtorEq, if_false, if_true]
        rfl

/-! ### The batch goes on (R35) -/

/-- The batch goes on with the rest, or completes with its index reported. -/
theorem continueBatch_eq (b : Batch) (rest : List Segment) (s : State) : continueBatch b rest s = { s with
    sgc := { s.sgc with batch := if rest = [] then none else some { b with segments := rest } }
    tlu := { s.tlu with codedIndex := if rest = [] then some b.index else s.tlu.codedIndex } } := by
  cases rest with
  | nil => rfl
  | cons g rest => rfl

theorem codeSegment_eq {s : State} {b : Batch} {g : Segment} {rest : List Segment}
    (batch : s.sgc.batch = some b) (segments : b.segments = g :: rest) :
    let k := makeKeep g (makeAir b g s)
    codeSegment s = { drain k with
      sgc := { k.sgc with batch := if rest = [] then none else some { b with segments := rest } }
      tlu := { s.tlu with codedIndex := if rest = [] then some b.index else s.tlu.codedIndex } } := by
  intro k
  have sgc : (drain k).sgc = k.sgc := (drain_foot k).sgc (by decide)
  have tlu : (drain k).tlu = s.tlu := by
    rw [(drain_foot k).tlu (by decide), (makeKeep_foot _ _).tlu (by decide),
      (makeAir_foot _ _ _).tlu (by decide)]
  simp only [codeSegment, batch, segments]
  rw [continueBatch_eq, show (drain (makeKeep g (makeAir b g s))) = drain k from rfl, sgc, tlu]

theorem makeAir_sgc (b : Batch) (g : Segment) (s : State) : (makeAir b g s).sgc = { s.sgc with
    counts := { s.sgc.counts with
      airMade := upIf (b.groups.getD g.group .dark).onAir s.sgc.counts.airMade } } := by
  unfold makeAir Batch.groupState
  cases (b.groups.getD g.group .dark).onAir
  case false => rfl
  case true => exact (originate_foot .air _ _).sgc (by decide)

theorem makeKeep_sgc (g : Segment) (s : State) : (makeKeep g s).sgc = { s.sgc with
    counts := { s.sgc.counts with
      keepMade := upIf g.keep s.sgc.counts.keepMade
      keepRaw := upIf (g.keep && keepsRaw s.rate g.samples) s.sgc.counts.keepRaw } } := by
  unfold makeKeep
  cases g.keep
  case false => rfl
  case true => exact (appendKeep_foot _ _).sgc (by decide)

/-- The record that is made, in a state that agrees with an earlier one in what the making reads. -/
theorem makeKeep_eq (g : Segment) {s u : State} {c : Configuration} (loaded : s.csu.config = some c)
    (csu : u.csu = s.csu) (tlu : u.tlu = s.tlu) (ksp : u.ksp = s.ksp) :
    let counted := { u with sgc := { u.sgc with counts := { u.sgc.counts with
      keepMade := up u.sgc.counts.keepMade
      keepRaw := upIf (keepsRaw c.rate g.samples) u.sgc.counts.keepRaw } } }
    makeKeep g u = if g.keep = false then u
      else if s.armedOnward = false then counted
      else if s.ksp.full = true then { counted with
        ksp := { s.ksp with
          lostRun := up s.ksp.lostRun
          counts := { s.ksp.counts with spoolLost := up s.ksp.counts.spoolLost } }
        csu := if s.ksp.lostRun = 0 then s.csu.raise .spool (.spoolFull s.ksp.write) else s.csu }
      else { counted with ksp := { s.ksp with
        entries := s.ksp.entries ++ [{
          sequence := s.ksp.write, track := g.track, group := g.group, index := g.index
          damage := g.damage, lossBefore := s.ksp.lostRun, payload := keepPayload c.rate g.samples }]
        write := s.ksp.write + 1
        lostRun := 0
        counts := { s.ksp.counts with spoolAppended := up s.ksp.counts.spoolAppended } } } := by
  intro counted
  have rate : u.rate = c.rate := State.rate_of (csu ▸ loaded)
  have armed : counted.armedOnward = s.armedOnward := by
    show u.armedOnward = s.armedOnward
    rw [State.armedOnward, State.armedOnward, tlu]
  cases keep : g.keep
  case false => simp only [makeKeep, keep, if_true]; rfl
  case true =>
    have made : makeKeep g u = appendKeep (keepRecord c.rate g) counted := by
      rw [makeKeep, if_pos keep, rate]
      rfl
    rw [made, appendKeep_eq, armed]
    show (if _ then counted else if u.ksp.full = true then _ else _) = _
    rw [ksp, csu]
    rfl

/-- What a KEEP record makes of the spool and of the attentions (R151). -/
theorem makeKeep_spool (g : Segment) {s u : State} (csu : u.csu = s.csu) (tlu : u.tlu = s.tlu)
    (ksp : u.ksp = s.ksp) :
    let t := makeKeep g u
    (g.keep = false ∨ s.armedOnward = false →
      t.ksp.write = s.ksp.write ∧ t.ksp.lostRun = s.ksp.lostRun ∧ t.csu = s.csu) ∧
    (g.keep = true → s.armedOnward = true → s.ksp.full = false →
      t.ksp.write = s.ksp.write + 1 ∧ t.ksp.lostRun = 0 ∧ t.csu = s.csu) ∧
    (g.keep = true → s.armedOnward = true → ¬ s.ksp.full = false →
      t.ksp.write = s.ksp.write ∧ t.ksp.lostRun = up s.ksp.lostRun ∧
      t.csu = if s.ksp.lostRun = 0 then s.csu.raise .spool (.spoolFull s.ksp.write) else s.csu) := by
  intro t
  cases keep : g.keep
  case false =>
    have same : t = u := by rw [show t = makeKeep g u from rfl, makeKeep, keep]; rfl
    rw [same, ksp, csu]
    exact ⟨fun _ => ⟨rfl, rfl, rfl⟩, fun h => absurd h Bool.false_ne_true,
      fun h => absurd h Bool.false_ne_true⟩
  case true =>
    let v := u.onSgc fun c => { c with counts := { c.counts with
      keepMade := up c.counts.keepMade
      keepRaw := upIf (keepsRaw u.rate g.samples) c.counts.keepRaw } }
    have made : t = appendKeep (keepRecord u.rate g) v := if_pos keep
    have armed : v.armedOnward = s.armedOnward := by
      show u.armedOnward = s.armedOnward
      rw [State.armedOnward, State.armedOnward, tlu]
    rw [made, appendKeep_eq, armed, show v.ksp = s.ksp from ksp, show v.csu = s.csu from csu]
    refine ⟨?_, fun _ on room => ?_, fun _ on room => ?_⟩
    · rintro (h | off)
      · exact absurd h.symm Bool.false_ne_true
      · rw [if_pos off]
        exact ⟨congrArg Ksp.write ksp, congrArg Ksp.lostRun ksp, csu⟩
    · rw [if_neg (Bool.not_eq_false _ ▸ on), if_neg (Bool.not_eq_true _ ▸ room)]
      exact ⟨rfl, rfl, rfl⟩
    · rw [if_neg (Bool.not_eq_false _ ▸ on), if_pos (Bool.not_eq_false _ ▸ room)]
      exact ⟨rfl, rfl, rfl⟩

/-! ### The tests at the end of the event (log 12) -/

/-- The test of DONE can close the period under way, and leaves the capture lines. -/
theorem settle_lines (s : State) : (settle s).cfr.lines = s.cfr.lines := by
  have before : (reported s).cfr = s.cfr := (reported_foot s).cfr (by decide)
  obtain ⟨-, -, -, done⟩ | ⟨stays, -⟩ := testDone_cases (reported s)
  · rw [settle_eq, done, enterDone]
    unfold discardPeriod
    split
    · exact congrArg Cfr.lines before
    · exact (congrArg Cfr.lines before :)
  · rw [settle_eq, stays, before]

theorem exec_segmentCoded (s : State) : exec .segmentCoded s = .next (settle (codeSegment s)) := rfl

/-- The first part of O26's events: what the coding of a segment counts, appends, reports and keeps. -/
theorem segmentCoded_counts {s : State} {b : Batch} {g : Segment} {rest : List Segment}
    (batch : s.sgc.batch = some b) (segments : b.segments = g :: rest) :
    let air := (b.groups.getD g.group .dark).onAir
    let t := settle (codeSegment s)
    t.sgc = { s.sgc with
      batch := if rest = [] then none else some { b with segments := rest }
      counts := { s.sgc.counts with
        airMade := upIf air s.sgc.counts.airMade
        keepMade := upIf g.keep s.sgc.counts.keepMade
        keepRaw := upIf (g.keep && keepsRaw s.rate g.samples) s.sgc.counts.keepRaw } } ∧
    t.tlu.codedIndex = (if rest = [] then some b.index else s.tlu.codedIndex) ∧
    t.ksp.write = (makeKeep g (makeAir b g s)).ksp.write ∧
    t.ksp.lostRun = (makeKeep g (makeAir b g s)).ksp.lostRun ∧
    t.csu = (makeKeep g (makeAir b g s)).csu ∧
    t.rst = s.rst ∧ t.pcu = s.pcu ∧ t.dlu.muted = s.dlu.muted ∧ t.cfr.lines = s.cfr.lines := by
  intro air t
  have coded := codeSegment_eq batch segments
  have rate : (makeAir b g s).rate = s.rate := by
    rw [State.rate, State.rate, (makeAir_foot b g s).csu_eq]
  have code := codeSegment_foot s
  obtain ⟨-, write, lost⟩ := settle_ksp (codeSegment s)
  refine ⟨?_, ?_, write.trans ?_, lost.trans ?_, (settle_csu _).trans ?_, ?_, ?_, ?_, ?_⟩
  · rw [(settle_foot _).sgc (by decide), coded]
    dsimp only
    rw [makeKeep_sgc, makeAir_sgc, rate]
  · obtain ⟨st, timer, void, n, fields⟩ := settle_tlu_fields (codeSegment s)
    rw [fields, coded]
  · rw [coded]
    exact (drainLoop_ksp _ _).1
  · rw [coded]
    exact (drainLoop_ksp _ _).2
  · rw [coded]
    exact (drain_foot _).csu_eq
  · rw [(settle_foot _).rst (by decide), code.rst (by decide)]
  · rw [(settle_foot _).pcu (by decide), code.pcu (by decide)]
  · rw [(settle_foot _).muted (by decide), code.muted (by decide)]
  · rw [settle_lines, code.cfr (by decide)]

/-- The AIR record of a segment, in full (R37, R76, R77, R131). -/
theorem makeAir_eq {s : State} {b : Batch} {g : Segment} {c : Configuration} {inc : Word}
    (loaded : s.csu.config = some c) (incarnation : s.tlu.incarnation = some inc)
    (own : c.station ≤ 16) (grade : b.grade ≤ 7) (track : g.track ≤ 511) (group : g.group ≤ 15) :
    let load : AirPayload :=
      { grade := b.grade, damage := decide (0 < g.damage), payload := airPayload b.grade g.samples }
    let frame := ringBytes .air { origin := c.station, incarnation := inc, sequence := s.dlu.nextSeq }
      (airBytes { track := g.track, group := g.group, index := g.index, load := load })
    let made := { s with sgc := { s.sgc with
      counts := { s.sgc.counts with airMade := up s.sgc.counts.airMade } } }
    let offered := offerFrame .b 1 frame (offerFrame .a 1 frame { made with dlu := { s.dlu with
      nextSeq := s.dlu.nextSeq + 1
      counts := { s.dlu.counts with
        originated := up s.dlu.counts.originated
        origUnsent := upIf ((s.port .a).offer 1 != .queued && (s.port .b).offer 1 != .queued)
          s.dlu.counts.origUnsent } } })
    makeAir b g s = if (b.groups.getD g.group .dark).onAir = false then s
      else if s.dlu.muted.isSome = true then { made with dlu := { s.dlu with
        counts := { s.dlu.counts with muteDeclined := up s.dlu.counts.muteDeclined } } }
      else if c.airRole = true then
        takeArrival { track := g.track, origin := c.station, index := g.index, load := load }
          { offered with dlu := { offered.dlu with
            counts := { offered.dlu.counts with deliveredAir := up offered.dlu.counts.deliveredAir } } }
      else offered := by
  intro load frame made offered
  cases dark : (b.groups.getD g.group .dark).onAir
  case false => exact if_neg (Bool.not_eq_true _ ▸ dark)
  case true =>
    have makes : makeAir b g s = originate .air (airBytes (airRecord b.grade g)) made := if_pos dark
    rw [makes, if_neg (by decide)]
    by_cases muted : s.dlu.muted.isSome = true
    · rw [if_pos muted]
      exact originate_declined (s := made) muted _ _
    · have speaks : made.dlu.muted = none := Option.not_isSome_iff_eq_none.mp muted
      have header : made.nextHeader =
          { origin := c.station, incarnation := inc, sequence := s.dlu.nextSeq } :=
        nextHeader_eq (s := made) loaded incarnation
      have role : offered.airRole = c.airRole := by
        rw [State.airRole, (offers_foot 1 frame _).csu_eq]
        show (s.csu.config.map _).getD _ = _
        rw [loaded]
        rfl
      rw [if_neg muted, originate_offers speaks, header]
      refine (deliver_air _ _ offered ?_ ?_ ?_ grade (airPayload_length _ _)).trans ?_
      · show c.station < 256
        omega
      · show g.track < 65536
        omega
      · show g.group < 256
        omega
      · rw [role]
        rfl

/-- Settles O26: the payloads by their two forms; the coding of a segment by its AIR record, its KEEP record,
the drain and what becomes of the batch. -/
theorem segmentCodedTaken : Obligations.SegmentCodedTaken := by
  refine ⟨airPayload_length, rfl, fun r xs full => ?_, fun s => ⟨fun idle => ?_, ?_, ?_⟩⟩
  case refine_1 =>
    obtain ⟨least, most, back, form⟩ := keepPayload_spec full
    exact ⟨least, most, back, form, keepPayload_raw⟩
  case refine_2 => rw [exec_segmentCoded, codeSegment, idle]
  case refine_3 =>
    intro b g rest batch segments air room
    have foot := makeAir_foot b g s
    obtain ⟨quiet, appends, loses⟩ := makeKeep_spool g foot.csu_eq (foot.tlu (by decide))
      (foot.ksp (by decide))
    obtain ⟨sgc, coded, write, lost, csu, rest_⟩ := segmentCoded_counts batch segments
    refine ⟨_, exec_segmentCoded s, sgc, coded, ?_, ?_, ?_, rest_⟩
    · rw [write, lost, csu]
      exact quiet
    · rw [write, lost, csu]
      exact appends
    · rw [write, lost, csu]
      exact loses
  case refine_4 =>
    intro b g rest c inc batch segments loaded incarnation station grade track group load frame made offered u
    have air : makeAir b g s = u := makeAir_eq loaded incarnation station.2 grade track group
    have foot := makeAir_foot b g s
    rw [air] at foot
    have keep := makeKeep_eq g loaded foot.csu_eq (foot.tlu (by decide)) (foot.ksp (by decide))
    have coded := codeSegment_eq batch segments
    rw [air, keep] at coded
    rw [exec_segmentCoded, coded]

end Sys2Proof.Machine
end

section
/-! The grade at a boundary (O28). -/

namespace Sys2Proof.Machine

/-! ### What a boundary does to the coder and to the Capture Front (log 9, log 10) -/

/-- The state once the Timeline Unit and the grade have taken a boundary. -/
def graded (count : Word) (s : State) : State :=
  gradeAt (s.tlu.presents count) (s.tlu.entersAt count) (tluBoundary count (finishBatch s))

theorem finishBatch_enters (count : Word) (s : State) :
    (finishBatch s).tlu.entersAt count = s.tlu.entersAt count := by
  obtain ⟨i, tlu⟩ := finishBatch_tlu s
  rw [tlu]
  rfl

/-- The coder, the Capture Front and the Timeline Unit are those of the period that closes and of the one
that opens. -/
theorem takeBoundary_blocks (count : Word) (s : State) :
    let closed := closePeriod (s.tlu.presents count) (graded count s)
    (takeBoundary count s).sgc = closed.sgc ∧ (takeBoundary count s).tlu = closed.tlu ∧
    (takeBoundary count s).cfr = (openPeriod (s.tlu.presents count) closed).cfr := by
  intro closed
  let opened := openPeriod (s.tlu.presents count) closed
  have after : Foot [.aou, .rst, .attn] opened (takeBoundary count s) := by
    have runs : takeBoundary count s = feedSettle (slotAt (s.tlu.presents count) (finishBatch s).expectedSet
        (driverAt (s.tlu.entersAt count) (ageAt (s.tlu.presents count) opened))) := by
      rw [takeBoundary, finishBatch_presents, finishBatch_enters]
      rfl
    rw [runs]
    exact (((ageAt_foot _ _).grow.seq (driverAt_foot _ _).grow).seq (slotAt_foot _ _ _).grow).seq
      (feedSettle_foot _).grow
  have opens : Foot [.cfr] closed opened := openPeriod_foot _ _
  exact ⟨(after.sgc (by decide)).trans (opens.sgc (by decide)),
    (after.tlu (by decide)).trans (opens.tlu (by decide)), after.cfr (by decide)⟩

/-- A mark that continues the run in LOCKED takes a boundary. -/
theorem exec_markTaken_boundary {s : State} {count : Word} (configured : s.tlu.station ≠ .unconfigured)
    (locked : s.tlu.ref = .locked) (run : s.tlu.lastMark.map (· + 1) = some count) :
    exec (.markTaken count s.rate.samples) s = .next (settle (takeBoundary count
      (s.onTlu (Tlu.mark count s.lossDue .locked (s.tlu.run + 1))))) := by
  refine congrArg Host.Outcome.next ((if_neg fun n => configured (beq_iff_eq.1 n)).trans ?_)
  rw [takeMark_of_boundary ⟨.inl locked, rfl, run⟩]

theorem Tlu.not_enters {t : Tlu} {count : Word} (notArmed : t.station ≠ .armed) : t.entersAt count = false := by
  rw [Tlu.entersAt, Bool.and_eq_false_iff]
  exact .inl (beq_eq_false_iff_ne.mpr notArmed)

theorem State.cueValue_congr {s t : State} (pcu : t.pcu = s.pcu) (i : Nat) : t.cueValue i = s.cueValue i := by
  rw [State.cueValue, State.cueValue, pcu]

theorem State.airCount_congr {s t : State} (rst : t.rst = s.rst) (pcu : t.pcu = s.pcu) :
    t.airCount = s.airCount := by
  simp only [State.airCount, rst, State.cueValue_congr pcu]

/-! ### The target grade (R41) -/

theorem gradeSize_mono {g h : Nat} (le : g ≤ h) (top : h ≤ 7) : gradeSize g ≤ gradeSize h := by
  have steps : ∀ i : Fin 8, ∀ j : Fin 8, i.val ≤ j.val → gradeSize i.val ≤ gradeSize j.val := by decide
  exact steps ⟨g, by omega⟩ ⟨h, by omega⟩ le

theorem gradeWithin_le (a : Nat) : ∀ g, gradeWithin a g ≤ g
  | 0 => Nat.le_refl 0
  | g + 1 => by
    rw [gradeWithin]
    split
    · exact Nat.le_refl _
    · exact Nat.le_trans (gradeWithin_le a g) (Nat.le_succ g)

theorem gradeWithin_fits (a : Nat) : ∀ g, gradeWithin a g = 0 ∨ gradeSize (gradeWithin a g) ≤ a
  | 0 => .inl rfl
  | g + 1 => by
    rw [gradeWithin]
    split
    case isTrue fits => exact .inr fits
    case isFalse => exact gradeWithin_fits a g

theorem gradeWithin_greatest (a : Nat) : ∀ g h, h ≤ g → gradeSize h ≤ a → h ≤ gradeWithin a g
  | 0, _, le, _ => le
  | g + 1, h, le, fits => by
    rw [gradeWithin]
    split
    case isTrue => exact le
    case isFalse large =>
      have apart : h ≠ g + 1 := fun e => large (e ▸ fits)
      exact gradeWithin_greatest a g h (by omega) fits

/-- The highest grade within a ceiling whose size an allowance covers. -/
theorem targetGrade_spec {a c : Nat} (top : c ≤ 7) :
    targetGrade a c false ≤ c ∧
    (targetGrade a c false = 0 ∨ gradeSize (targetGrade a c false) ≤ a) ∧
    (∀ h, h ≤ c → gradeSize h ≤ a → h ≤ targetGrade a c false) ∧
    targetGrade a c true = targetGrade a c false - 1 := by
  have free : targetGrade a c false = min c (gradeWithin a 7) := rfl
  have held : targetGrade a c true = min c (gradeWithin a 7) - 1 := rfl
  have within : gradeWithin a 7 ≤ 7 := gradeWithin_le a 7
  rw [free, held]
  refine ⟨Nat.min_le_left _ _, ?_, fun h le fits => ?_, rfl⟩
  · obtain zero | fits := gradeWithin_fits a 7
    · left
      omega
    · right
      exact Nat.le_trans (gradeSize_mono (Nat.min_le_right _ _) within) fits
  · exact Nat.le_min.mpr ⟨le, gradeWithin_greatest a 7 h (Nat.le_trans le top) fits⟩

/-! ### The update (Table 3-7) -/

theorem closePeriod_sgc (p : Option Index) (s : State) :
    ∃ b, (closePeriod p s).sgc = { s.sgc with batch := b } := by
  have keeps (b : Batch) (t : State) : ∃ o, (takeBatch b t).sgc = { t.sgc with batch := o } := by
    unfold takeBatch
    split
    · exact ⟨none, rfl⟩
    · exact ⟨some b, rfl⟩
  unfold closePeriod
  split
  · exact ⟨_, rfl⟩
  · dsimp only
    split
    · exact keeps _ _
    · exact ⟨_, rfl⟩

/-- The coder after a grade boundary: the target from the roster, the cue table and the ports it found. -/
theorem graded_sgc {s : State} {c : Configuration} {count : Word} (loaded : s.csu.config = some c)
    {n : Index} (presented : s.tlu.presents count = some n)
    (performs : (s.tlu.atBoundary count).station = .running ∨ (s.tlu.atBoundary count).station = .ending) :
    let held := (s.port .a).heldUntil.isSome || (s.port .b).heldUntil.isSome
    let target := targetGrade (c.budget / max 1 s.airCount) c.ceiling held
    (graded count s).sgc = { (finishBatch s).sgc.update (s.tlu.entersAt count) target with
      lastTarget := some target
      lastN := some s.airCount
      lastAllowance := some (c.budget / max 1 s.airCount) } := by
  intro held target
  let b := tluBoundary count (finishBatch s)
  have foot : Foot (.attn :: codeParts) s b := (finishBatch_foot s).grow.seq (tluBoundary_foot count _).grow
  obtain ⟨i, coded⟩ := finishBatch_tlu s
  have station : b.tlu.station = (s.tlu.atBoundary count).station := by
    rw [show b.tlu = _ from tluBoundary_tlu count _, coded]
    rfl
  have going : b.performing = true := by
    rw [State.performing, station]
    simpa using performs
  have config : b.csu.config = some c := (foot.config (by decide)).trans loaded
  have count_ : b.airCount = s.airCount := State.airCount_congr (foot.rst (by decide)) (foot.pcu (by decide))
  have ports (p : PortId) : (b.port p).heldUntil = (s.port p).heldUntil :=
    (((finishBatch_steady s).trans (tluBoundary_foot count _).steady) p).heldUntil
  have anyHeld : b.anyHeld = held := by
    simp only [State.anyHeld, Port.held, ports, held]
  have sgc : b.sgc = (finishBatch s).sgc := (tluBoundary_foot count _).sgc (by decide)
  have grades : graded count s = gradeBoundary (s.tlu.entersAt count) b := by
    rw [graded, presented, gradeAt]
    exact if_pos going
  rw [grades]
  simp only [gradeBoundary, State.onSgc, count_, anyHeld, config, sgc, allowanceOf, Option.map_some,
    Option.getD_some]
  rfl

/-- The update by the order of the target and the grade (Table 3-7). -/
theorem Sgc.update_going (target : Nat) (g : Sgc) :
    let u := g.update false target
    (target < g.grade → u.grade = target ∧ u.stepUp = 0 ∧ u.counts.gradeDown = up g.counts.gradeDown) ∧
    (target = g.grade → u.grade = g.grade ∧ u.stepUp = 0) ∧
    (g.grade < target → g.stepUp + 1 < 50 → u.grade = g.grade ∧ u.stepUp = g.stepUp + 1) ∧
    (g.grade < target → 50 ≤ g.stepUp + 1 →
      u.grade = g.grade + 1 ∧ u.stepUp = 0 ∧ u.counts.gradeUp = up g.counts.gradeUp) ∧
    (g.grade < target → g.stepUp + 1 < 50 → u.counts.gradeUp = g.counts.gradeUp) ∧
    (target ≤ g.grade → u.counts.gradeUp = g.counts.gradeUp) ∧
    (g.grade ≤ target → u.counts.gradeDown = g.counts.gradeDown) := by
  simp only [Sgc.update, Bool.false_eq_true, if_false]
  refine ⟨fun lower => ?_, fun equal => ?_, fun higher soon => ?_, fun higher late => ?_, fun higher soon => ?_,
    fun lower => ?_, fun higher => ?_⟩
  · rw [if_pos lower]
    exact ⟨rfl, rfl, rfl⟩
  · rw [if_neg (by omega), if_pos equal]
    exact ⟨rfl, rfl⟩
  · rw [if_neg (by omega), if_neg (by omega), if_pos soon]
    exact ⟨rfl, rfl⟩
  · rw [if_neg (by omega), if_neg (by omega), if_neg (by omega)]
    exact ⟨rfl, rfl, rfl⟩
  · rw [if_neg (by omega), if_neg (by omega), if_pos soon]
  · by_cases less : target < g.grade
    · rw [if_pos less]
    · rw [if_neg less, if_pos (by omega)]
  · rw [if_neg (by omega)]
    split
    · rfl
    · split <;> rfl

/-- Settles O28: the target grade, and the update that a boundary presented in RUNNING or ENDING, or the one
that enters RUNNING, makes with it. -/
theorem gradeUpdated : Obligations.GradeUpdated := by
  refine ⟨fun a c top => targetGrade_spec top, ?_⟩
  intro s c count e loaded locked run held n entering going anyHeld target g presents
  let m := s.onTlu (Tlu.mark count s.lossDue .locked (s.tlu.run + 1))
  have configured : s.tlu.station ≠ .unconfigured := by
    intro h
    simp [entering, going, h] at presents
  have held' : m.tlu.epoch = some e := held
  have enters_iff : m.tlu.entersAt count = true ↔ entering := Tlu.entersAt_iff held'
  have notVoid : ¬ m.tlu.isVoid n = true := by
    rw [Tlu.isVoid_iff]
    rintro ⟨performs, h, high, below⟩
    obtain ⟨armed, -⟩ | ⟨-, k, high', above⟩ := presents
    · rw [show m.tlu.station = .armed from armed] at performs
      exact performs.elim nofun nofun
    · obtain rfl := Option.some.inj (high'.symm.trans high)
      omega
  have presented : m.tlu.presents count = some n := Tlu.presents_of_not_void held' notVoid
  have performs : (m.tlu.atBoundary count).station = .running ∨
      (m.tlu.atBoundary count).station = .ending := by
    obtain enters | ⟨performs, -⟩ := presents
    · exact .inl (Tlu.atBoundary_enters held' (enters_iff.2 enters)).1
    · rw [Tlu.atBoundary_raises held' performs (Bool.not_eq_true _ ▸ notVoid)]
      exact performs
  have sgc := graded_sgc (s := m) loaded presented performs
  obtain ⟨b, closed⟩ := closePeriod_sgc (m.tlu.presents count) (graded count m)
  obtain ⟨blocks, -, -⟩ := takeBoundary_blocks count m
  obtain ⟨grade, stepUp, gradeUp, gradeDown⟩ := finishBatch_grade m
  refine ⟨_, exec_markTaken_boundary configured locked run, ?_⟩
  rw [(settle_foot _).sgc (by decide), show (takeBoundary count m).sgc = _ from blocks, closed, sgc]
  refine ⟨rfl, rfl, fun enters => ?_, fun goes => ?_⟩
  · rw [enters_iff.2 enters]
    exact ⟨rfl, rfl, gradeUp, gradeDown⟩
  · have stays : m.tlu.entersAt count = false := Tlu.not_enters fun armed => by
      have station := goes.1
      rw [show s.tlu.station = .armed from armed] at station
      exact station.elim nofun nofun
    have update := Sgc.update_going target (finishBatch m).sgc
    rw [grade, stepUp, gradeUp, gradeDown] at update
    rw [stays]
    exact update

end Sys2Proof.Machine
end

section
/-! The accumulations at a boundary (O27). -/

namespace Sys2Proof.Machine

/-! ### The damage counters (R28) -/

/-- The damage of formed segments, by channel. -/
theorem countDamage_getElem? (gs : List Segment) : ∀ (cs : List ChannelCounts) (k : Nat),
    (countDamage gs cs)[k]? = cs[k]?.map fun c => { c with
      damage := upBy c.damage ((gs.filter fun g => g.channel == k).map fun g => g.damage).sum } := by
  induction gs with
  | nil =>
    intro cs k
    simp [countDamage, upBy_zero]
  | cons g gs ih =>
    intro cs k
    rw [countDamage, ih, modifyAt_getElem?]
    by_cases here : k = g.channel
    · subst here
      simp [Function.comp_def, upBy_upBy]
    · have other : (g.channel == k) = false := beq_eq_false_iff_ne.mpr (Ne.symm here)
      simp [here, other]

/-- The damage counters, whatever else of a channel is counted. -/
def Cfr.damages (c : Cfr) : List Counter := c.channels.map ChannelCounts.damage

theorem Cfr.damages_getElem? (c : Cfr) (k : Nat) :
    c.damages[k]? = c.channels[k]?.map ChannelCounts.damage := List.getElem?_map

theorem countDiscards_damages (chs : List Nat) : ∀ cs : List ChannelCounts,
    (countDiscards chs cs).map ChannelCounts.damage = cs.map ChannelCounts.damage := by
  induction chs with
  | nil => exact fun _ => rfl
  | cons ch chs ih =>
    intro cs
    rw [countDiscards, ih]
    ext1 k
    rw [List.getElem?_map, List.getElem?_map, modifyAt_getElem?]
    split
    · rw [Option.map_map]
      rfl
    · rfl

theorem discardPeriod_damages (s : State) : (discardPeriod s).cfr.damages = s.cfr.damages := by
  unfold discardPeriod
  split
  · rfl
  · dsimp only [State.onCfr, Cfr.damages]
    split
    · exact countDiscards_damages _ _
    · rfl

theorem settle_damages (s : State) : (settle s).cfr.damages = s.cfr.damages := by
  have before : (reported s).cfr = s.cfr := (reported_foot s).cfr (by decide)
  obtain ⟨-, -, -, done⟩ | ⟨stays, -⟩ := testDone_cases (reported s)
  · rw [settle_eq, done, enterDone, discardPeriod_damages]
    exact congrArg Cfr.damages before
  · rw [settle_eq, stays, before]

/-- Unless the station enters DONE the tests leave the Capture Front. -/
theorem settle_cfr_of_station {s : State} (stays : (settle s).tlu.station = s.tlu.station) :
    (settle s).cfr = s.cfr := by
  have before := reported_foot s
  obtain ⟨ending, -, -, done⟩ | ⟨same, -⟩ := testDone_cases (reported s)
  · rw [settle_eq, done, enterDone_station, ← before.tlu (by decide), ending] at stays
    exact nomatch stays
  · rw [settle_eq, same, before.cfr (by decide)]

/-! ### The period that closes (R28, R34) -/

/-- The segments that an indexed period gives, each with the patch entry of its channel. -/
theorem formSegments_eq (s : State) (m : Index) (p : Period) :
    p.accs.filterMap (formSegment s m) = p.accs.filterMap fun a => (s.patchOf a.channel).map fun e => ({
      channel := a.channel, track := e.track, group := e.group, keep := e.keep, index := m
      samples := a.samples, damage := a.damage } : Segment) := rfl

/-- A period that gives no batch: there is none, it has no index, or the boundary has none. -/
theorem closePeriod_dropped {o : Option Index} {s : State}
    (drops : s.cfr.period = none ∨ (∃ p, s.cfr.period = some p ∧ p.index = none) ∨ o = none) :
    closePeriod o s = s.onCfr fun c => { c with period := none } := by
  unfold closePeriod
  cases under : s.cfr.period with
  | none =>
    show s = { s with cfr := { s.cfr with period := none } }
    rw [← under]
  | some p =>
    obtain none_ | ⟨q, same, noIndex⟩ | rfl := drops
    · exact nomatch under.symm.trans none_
    · obtain rfl := Option.some.inj (under.symm.trans same)
      dsimp only
      rw [noIndex]
    · cases index : p.index with
      | none => dsimp only; rw [index]
      | some m => dsimp only; rw [index]

/-- An indexed period at a boundary with an index. -/
theorem closePeriod_formed {n m : Index} {p : Period} {s : State} (under : s.cfr.period = some p)
    (index : p.index = some m) :
    let b := s.batchOf m p
    closePeriod (some n) s = takeBatch b (s.onCfr fun c => { c with
      period := none, channels := countDamage b.segments c.channels }) := by
  unfold closePeriod
  rw [under]
  dsimp only
  rw [index]
  rfl

theorem takeBatch_empty {b : Batch} (empty : b.segments = []) (s : State) :
    takeBatch b s = completeBatch b s := if_pos (by rw [empty]; rfl)

theorem takeBatch_full {b : Batch} (full : b.segments ≠ []) (s : State) :
    takeBatch b s = s.onSgc fun c => { c with batch := some b } :=
  if_neg (by rw [List.isEmpty_iff]; exact full)

/-! ### The period that opens (R27, Table 2-7) -/

theorem State.patched_congr {s t : State} (config : t.csu.config = s.csu.config) : t.patched = s.patched := by
  simp only [State.patched, State.patchOf, config]

theorem graded_foot (count : Word) (s : State) : Foot (.attn :: codeParts) s (graded count s) :=
  ((finishBatch_foot s).grow.seq (tluBoundary_foot count _).grow).seq (gradeAt_foot _ _ _).grow

theorem graded_tlu (count : Word) (s : State) :
    ∃ i, (graded count s).tlu = { s.tlu.atBoundary count with codedIndex := i } := by
  obtain ⟨i, coded⟩ := finishBatch_tlu s
  refine ⟨i, ?_⟩
  rw [graded, (gradeAt_foot _ _ _).tlu (by decide), tluBoundary_tlu, coded]
  rfl

/-- The period after a boundary. -/
theorem takeBoundary_period (count : Word) (s : State) : (takeBoundary count s).cfr.period =
    (opensPeriod (s.tlu.atBoundary count).station s.tlu.last (s.tlu.atBoundary count).high
      (s.tlu.presents count)).map fun i => {
        index := i, accs := s.patched.map fun p => { channel := p.1, samples := [], damage := 0 } } := by
  obtain ⟨-, -, cfr⟩ := takeBoundary_blocks count s
  let closed := closePeriod (s.tlu.presents count) (graded count s)
  have closes : Foot [.cfr, .sgc, .tlu] (graded count s) closed := closePeriod_foot _ _
  have config : closed.csu.config = s.csu.config :=
    (closes.config (by decide)).trans ((graded_foot count s).config (by decide))
  obtain ⟨i, before⟩ := graded_tlu count s
  obtain ⟨j, tlu⟩ := closePeriod_tlu (s.tlu.presents count) (graded count s)
  rw [before] at tlu
  rw [cfr]
  show ((opensPeriod closed.tlu.station closed.tlu.last closed.tlu.high (s.tlu.presents count)).map
    closed.newPeriod) = _
  rw [show closed.tlu = _ from tlu]
  have accs (o : Option Index) : closed.newPeriod o = {
      index := o, accs := s.patched.map fun p => { channel := p.1, samples := [], damage := 0 } } := by
    rw [State.newPeriod, State.patched_congr config]
  rw [show closed.newPeriod = _ from funext accs]
  rfl

/-- With no batch in flight the coder and the index last coded are those the closing period leaves. -/
theorem takeBoundary_closed {s : State} (idle : s.sgc.batch = none) (count : Word) :
    let t := takeBoundary count s
    let closed := closePeriod (s.tlu.presents count) (graded count s)
    (graded count s).cfr = s.cfr ∧ (graded count s).sgc.batch = none ∧
    (graded count s).tlu.codedIndex = s.tlu.codedIndex ∧
    t.sgc = closed.sgc ∧ t.tlu.codedIndex = closed.tlu.codedIndex ∧ t.cfr.damages = closed.cfr.damages := by
  intro t closed
  have same : finishBatch s = s := by simp only [finishBatch, idle]
  obtain ⟨sgc, tlu, cfr⟩ := takeBoundary_blocks count s
  have damages : t.cfr.damages = closed.cfr.damages := (congrArg Cfr.damages cfr :)
  refine ⟨?_, ?_, ?_, sgc, congrArg Tlu.codedIndex tlu, damages⟩
  · rw [graded, (gradeAt_foot _ _ _).cfr (by decide), (tluBoundary_foot _ _).cfr (by decide), same]
  · have grade : (gradeAt (s.tlu.presents count) (s.tlu.entersAt count) (tluBoundary count s)).sgc.batch =
        (tluBoundary count s).sgc.batch := by
      unfold gradeAt
      split
      · simp only [gradeBoundary, State.onSgc, Sgc.update]
        repeat' split
        all_goals rfl
      · rfl
    rw [graded, same, grade, (tluBoundary_foot _ _).sgc (by decide), idle]
  · rw [graded, (gradeAt_foot _ _ _).tlu (by decide), same, tluBoundary_tlu]
    rfl

theorem State.onCfr_damages (s : State) (o : Option Period) :
    (s.onCfr fun c => { c with period := o }).cfr.damages = s.cfr.damages := rfl

/-- A boundary that forms no batch. -/
theorem takeBoundary_drops {s : State} (idle : s.sgc.batch = none) {count : Word}
    (drops : s.cfr.period = none ∨ (∃ p, s.cfr.period = some p ∧ p.index = none) ∨
      s.tlu.presents count = none) :
    let t := takeBoundary count s
    t.sgc.batch = none ∧ t.tlu.codedIndex = s.tlu.codedIndex ∧ t.cfr.damages = s.cfr.damages := by
  obtain ⟨cfr, batch, coded, sgc, tlu, damages⟩ := takeBoundary_closed idle count
  intro t
  have dropped : closePeriod (s.tlu.presents count) (graded count s) =
      (graded count s).onCfr fun c => { c with period := none } :=
    closePeriod_dropped (by rw [cfr]; exact drops)
  rw [dropped] at sgc tlu damages
  refine ⟨(congrArg Sgc.batch sgc).trans batch, tlu.trans coded, damages.trans ?_⟩
  rw [State.onCfr_damages, cfr]

/-- A boundary that forms the batch of an indexed period. -/
theorem takeBoundary_forms {s : State} (idle : s.sgc.batch = none) {count : Word} {n m : Index} {p : Period}
    (presented : s.tlu.presents count = some n) (under : s.cfr.period = some p) (index : p.index = some m) :
    let segments := p.accs.filterMap fun a => (s.patchOf a.channel).map fun e => ({
      channel := a.channel, track := e.track, group := e.group, keep := e.keep, index := m
      samples := a.samples, damage := a.damage } : Segment)
    let t := takeBoundary count s
    (segments = [] → t.sgc.batch = none ∧ t.tlu.codedIndex = some m) ∧
    (segments ≠ [] → t.tlu.codedIndex = s.tlu.codedIndex ∧ t.sgc.batch = some {
      index := m
      grade := t.sgc.grade
      groups := (List.range 16).map s.cueValue
      segments := segments }) ∧
    t.cfr.damages = (countDamage segments s.cfr.channels).map ChannelCounts.damage := by
  intro segments t
  obtain ⟨cfr, batch, coded, sgc, tlu, damages⟩ := takeBoundary_closed idle count
  let u := graded count s
  let b := u.batchOf m p
  let v := u.onCfr fun c => { c with period := none, channels := countDamage b.segments c.channels }
  have foot : Foot (.attn :: codeParts) s u := graded_foot count s
  have segments_eq : b.segments = segments := by
    show p.accs.filterMap (formSegment u m) = _
    simp only [formSegments_eq, State.patchOf, foot.config (by decide)]
    rfl
  have groups : b.groups = (List.range 16).map s.cueValue :=
    List.map_congr_left fun i _ => State.cueValue_congr (foot.pcu (by decide)) i
  have formed : closePeriod (s.tlu.presents count) u = takeBatch b v := by
    rw [presented]
    exact closePeriod_formed (by rw [cfr]; exact under) index
  rw [show closePeriod (s.tlu.presents count) (graded count s) = _ from formed] at sgc tlu damages
  refine ⟨fun empty => ?_, fun full => ?_, ?_⟩
  · rw [takeBatch_empty (segments_eq.trans empty)] at sgc tlu
    exact ⟨congrArg Sgc.batch sgc, tlu⟩
  · rw [takeBatch_full (segments_eq ▸ full)] at sgc tlu
    refine ⟨tlu.trans coded, (congrArg Sgc.batch sgc).trans (congrArg some ?_)⟩
    have grade : t.sgc.grade = u.sgc.grade := (congrArg Sgc.grade sgc :)
    rw [grade, ← groups, ← segments_eq]
    rfl
  · rw [damages, show (takeBatch b v).cfr = v.cfr from (takeBatch_foot b v).cfr (by decide)]
    show (countDamage b.segments u.cfr.channels).map _ = _
    rw [segments_eq, show u.cfr = s.cfr from cfr]

theorem opensPeriod_idle {st : StationState} (idle : ¬ (st = .running ∨ st = .ending))
    (last high presented : Option Index) : opensPeriod st last high presented = none := by
  cases st
  case running => exact absurd (.inl rfl) idle
  case ending => exact absurd (.inr rfl) idle
  all_goals rfl

theorem Tlu.atBoundary_stays {t : Tlu} {count : Word} (stays : t.entersAt count = false) :
    (t.atBoundary count).station = t.station := by
  simp only [atBoundary, stays, Bool.false_eq_true, if_false]

theorem Tlu.presents_of_void {t : Tlu} {e : Epoch} {count : Word} (held : t.epoch = some e)
    (void : t.isVoid (count - e.base) = true) : t.presents count = none :=
  Tlu.presents_eq_none fun e' held' => by
    obtain rfl := Option.some.inj (held.symm.trans held')
    exact void

/-- The period a boundary of an index opens, by the station state and H (Table 2-7). -/
theorem boundaryOpens {t : Tlu} {e : Epoch} {count : Word} (held : t.epoch = some e) :
    let n : Index := count - e.base
    let opens := opensPeriod (t.atBoundary count).station t.last (t.atBoundary count).high (t.presents count)
    (t.station = .armed → n.toInt < 0 → opens = none ∧ (t.atBoundary count).station = .armed) ∧
    (t.station = .armed → 0 ≤ n.toInt → opens = some (some n) ∧ (t.atBoundary count).station = .running) ∧
    (t.station = .running → ¬ t.isVoid n = true →
      opens = some (some n) ∧ (t.atBoundary count).station = .running) ∧
    (t.station = .running → t.isVoid n = true →
      opens = some none ∧ (t.atBoundary count).station = .running) ∧
    (∀ l, t.station = .ending → t.last = some l →
      (¬ t.isVoid n = true → n.toInt ≤ l.toInt → opens = some (some n)) ∧
      (¬ t.isVoid n = true → l.toInt < n.toInt → opens = none) ∧
      (t.isVoid n = true → (∀ h, t.high = some h → h.toInt ≤ l.toInt) → opens = some none) ∧
      (t.isVoid n = true → (∃ h, t.high = some h ∧ l.toInt < h.toInt) → opens = none)) := by
  intro n opens
  refine ⟨fun armed before => ?_, fun armed after => ?_, fun running above => ?_, fun running void => ?_,
    fun l ending last => ⟨fun above le => ?_, fun above gt => ?_, fun void below => ?_, fun void past => ?_⟩⟩
  · have stays : t.entersAt count = false := by
      rw [Bool.eq_false_iff, Ne, Tlu.entersAt_iff held]
      exact fun enters => absurd before (Int.not_lt.2 enters.2)
    have station := (Tlu.atBoundary_stays stays).trans armed
    refine ⟨opensPeriod_idle ?_ _ _ _, station⟩
    rw [station]
    exact fun h => h.elim nofun nofun
  · obtain ⟨station, -, -⟩ := Tlu.atBoundary_enters held ((Tlu.entersAt_iff held).2 ⟨armed, after⟩)
    have above : ¬ t.isVoid n = true := by
      rw [Tlu.not_void_of_station (by rw [armed]; exact fun h => h.elim nofun nofun)]
      exact Bool.false_ne_true
    refine ⟨?_, station⟩
    simp only [opens, station, Tlu.presents_of_not_void held above, opensPeriod]
    rfl
  · have raises := Tlu.atBoundary_raises held (.inl running) (Bool.not_eq_true _ ▸ above)
    have station : (t.atBoundary count).station = .running := by rw [raises]; exact running
    refine ⟨?_, station⟩
    simp only [opens, station, Tlu.presents_of_not_void held above, opensPeriod]
    rfl
  · have kept := Tlu.atBoundary_void held void
    have station : (t.atBoundary count).station = .running := by rw [kept]; exact running
    refine ⟨?_, station⟩
    simp only [opens, station, Tlu.presents_of_void held void, opensPeriod]
  · have raises := Tlu.atBoundary_raises held (.inr ending) (Bool.not_eq_true _ ▸ above)
    have station : (t.atBoundary count).station = .ending := by rw [raises]; exact ending
    have within : indexLe (count - e.base) l = true := decide_eq_true le
    simp only [opens, station, Tlu.presents_of_not_void held above, opensPeriod, last, Option.map_some,
      Option.getD_some, within, if_true]
    rfl
  · have raises := Tlu.atBoundary_raises held (.inr ending) (Bool.not_eq_true _ ▸ above)
    have station : (t.atBoundary count).station = .ending := by rw [raises]; exact ending
    have beyond : indexLe (count - e.base) l = false := decide_eq_false (Int.not_le.mpr gt)
    simp only [opens, station, Tlu.presents_of_not_void held above, opensPeriod, last, Option.map_some,
      Option.getD_some, beyond, Bool.false_eq_true, if_false]
  · have kept := Tlu.atBoundary_void held void
    have station : (t.atBoundary count).station = .ending := by rw [kept]; exact ending
    have high : (t.atBoundary count).high = t.high := by rw [kept]
    have within : (t.high.map fun h => indexLt l h).getD false = false := by
      cases top : t.high with
      | none => rfl
      | some h => exact decide_eq_false (Int.not_lt.mpr (below h top))
    simp only [opens, station, high, Tlu.presents_of_void held void, opensPeriod, last, Option.bind_some,
      within, Bool.false_eq_true, if_false]
  · obtain ⟨h, top, gt⟩ := past
    have kept := Tlu.atBoundary_void held void
    have station : (t.atBoundary count).station = .ending := by rw [kept]; exact ending
    have high : (t.atBoundary count).high = some h := by rw [kept]; exact top
    have beyond : indexLt l h = true := decide_eq_true gt
    simp only [opens, station, high, Tlu.presents_of_void held void, opensPeriod, last, Option.bind_some,
      Option.map_some, Option.getD_some, beyond, if_true]

/-- Settles O27: the period that closes forms its batch or is dropped, and the period that opens is that of
the station state and of H after the boundary. -/
theorem segmentsFormed : Obligations.SegmentsFormed := by
  intro s count locked run configured idle
  let m := s.onTlu (Tlu.mark count s.lossDue .locked (s.tlu.run + 1))
  let u := takeBoundary count m
  have idle' : m.sgc.batch = none := idle
  obtain ⟨i, tlu⟩ := takeBoundary_tlu count m
  have settled_sgc : (settle u).sgc = u.sgc := (settle_foot u).sgc (by decide)
  have settled_coded : (settle u).tlu.codedIndex = u.tlu.codedIndex := by
    obtain ⟨st, timer, void, k, fields⟩ := settle_tlu_fields u
    rw [fields]
  have settled_damage (k : Nat) : ((settle u).cfr.channels[k]?).map ChannelCounts.damage =
      u.cfr.damages[k]? := by
    rw [← settle_damages u, Cfr.damages_getElem?]
  have station : u.tlu.station = (m.tlu.atBoundary count).station := (congrArg Tlu.station tlu :)
  have period : u.cfr.period = (opensPeriod (m.tlu.atBoundary count).station m.tlu.last
      (m.tlu.atBoundary count).high (m.tlu.presents count)).map fun i => {
        index := i, accs := s.patched.map fun p => { channel := p.1, samples := [], damage := 0 } } :=
    takeBoundary_period count m
  have settled_period {st : StationState} (after : (m.tlu.atBoundary count).station = st)
      (stays : st ≠ .ending) : (settle u).cfr.period = u.cfr.period := by
    rw [settle_cfr_of_station]
    rw [settle_tlu_of u (by rw [station, after]; exact stays)]
  have ending_period (stays : (settle u).tlu.station = .ending) : (settle u).cfr.period = u.cfr.period := by
    have before : u.tlu.station = .ending := by
      obtain same | ⟨was, -, -⟩ := settle_tlu u
      · rw [← same]
        exact stays
      · exact was
    rw [settle_cfr_of_station (stays.trans before.symm)]
  refine ⟨settle u, exec_markTaken_boundary configured locked run, ?_⟩
  generalize settle u = t at *
  intro opened damage
  refine ⟨fun quiet still => ?_, fun e held prepared => ?_⟩
  case refine_1 =>
    have stays : m.tlu.entersAt count = false := by
      obtain noEpoch | other | other := quiet
      · simp only [Tlu.entersAt, Tlu.indexAt, show m.tlu.epoch = none from noEpoch, Option.map_none,
          Option.getD_none, Bool.and_false]
      · exact Tlu.not_enters (by rw [show m.tlu.station = _ from other]; exact nofun)
      · exact Tlu.not_enters (by rw [show m.tlu.station = _ from other]; exact nofun)
    have idle_ : ¬ ((m.tlu.atBoundary count).station = .running ∨ (m.tlu.atBoundary count).station = .ending) := by
      rw [Tlu.atBoundary_stays stays]
      simpa [State.performing, m, State.onTlu, Tlu.mark] using still
    refine ⟨?_, fun none_ => ?_⟩
    · rw [settled_period rfl fun ending => idle_ (.inr ending), period, opensPeriod_idle idle_]
      rfl
    · obtain ⟨batch, coded, -⟩ := takeBoundary_drops idle' (count := count) (.inl none_)
      exact ⟨(congrArg Sgc.batch settled_sgc).trans batch, settled_coded.trans coded⟩
  case refine_2 =>
    intro n void
    have held' : m.tlu.epoch = some e := held
    have void_iff : m.tlu.isVoid n = true ↔ void := by
      rw [Tlu.isVoid_iff]
      exact and_congr_left' (by simp [State.performing, m, State.onTlu, Tlu.mark])
    obtain ⟨waits, enters, goes, halts, ends⟩ := boundaryOpens (count := count) held'
    have opens {st : StationState} {o : Option (Option Index)}
        (found : opensPeriod (m.tlu.atBoundary count).station m.tlu.last (m.tlu.atBoundary count).high
          (m.tlu.presents count) = o ∧ (m.tlu.atBoundary count).station = st) (stays : st ≠ .ending) :
        t.cfr.period = o.map fun i => {
          index := i, accs := s.patched.map fun p => { channel := p.1, samples := [], damage := 0 } } := by
      rw [settled_period found.2 stays, period, found.1]
    refine ⟨fun p k under index above => ?_, fun drops => ?_, fun armed before => opens (waits armed before) nofun,
      fun armed after => opens (enters armed after) nofun,
      fun running above => opens (goes running ((not_congr void_iff).mpr above)) nofun,
      fun running below => opens (halts running (void_iff.mpr below)) nofun, fun l ending last open_ => ?_⟩
    · intro segments
      have presented := Tlu.presents_of_not_void held' ((not_congr void_iff).mpr above)
      obtain ⟨empty, full, damages⟩ := takeBoundary_forms idle' presented under index
      refine ⟨fun none_ => ?_, fun some_ => ?_, fun _ k c channel => ?_⟩
      · rw [settled_sgc, settled_coded]
        exact empty none_
      · rw [settled_sgc, settled_coded]
        exact full some_
      · refine (settled_damage k).trans ?_
        rw [damages, List.getElem?_map, countDamage_getElem?, show m.cfr.channels[k]? = _ from channel]
        rfl
    · have nothing : s.cfr.period = none ∨ (∃ p, s.cfr.period = some p ∧ p.index = none) ∨
          m.tlu.presents count = none :=
        drops.imp_right fun h => h.imp_right fun below => Tlu.presents_of_void held' (void_iff.mpr below)
      obtain ⟨batch, coded, damages⟩ := takeBoundary_drops idle' (count := count) nothing
      refine ⟨(congrArg Sgc.batch settled_sgc).trans batch, settled_coded.trans coded, fun k => ?_⟩
      refine (settled_damage k).trans ?_
      rw [damages, Cfr.damages_getElem?]
      rfl
    · have opens {o : Option (Option Index)}
          (found : opensPeriod (m.tlu.atBoundary count).station m.tlu.last (m.tlu.atBoundary count).high
            (m.tlu.presents count) = o) : t.cfr.period = o.map fun i => {
            index := i, accs := s.patched.map fun p => { channel := p.1, samples := [], damage := 0 } } := by
        rw [ending_period open_, period, found]
      obtain ⟨first, second, third, fourth⟩ := ends l ending last
      exact ⟨fun above le => opens (first ((not_congr void_iff).mpr above) le),
        fun above gt => opens (second ((not_congr void_iff).mpr above) gt),
        fun below top => opens (third (void_iff.mpr below) top),
        fun below top => opens (fourth (void_iff.mpr below) top)⟩

end Sys2Proof.Machine
end

section
/-! The first copy: the filter, the offer, the relay and the delivery (O37), and a frame of the own origin (O38). -/

namespace Sys2Proof.Machine

/-! ### The filter (R71, R72, Table 5-3) -/

theorem newer_self (a : Word) : newer a a = false := by
  simp [newer]

theorem newer_ne {a b : Word} (h : newer a b = true) : a ≠ b := by
  rintro rfl
  exact Bool.false_ne_true ((newer_self a).symm.trans h)

section
variable {e : FilterEntry} {h : RingHeader}

theorem filterFrame_same (same : h.incarnation = e.incarnation) :
    filterFrame (some e) h = filterSequence e h.sequence := if_pos same

theorem filterFrame_new (new : newer h.incarnation e.incarnation = true) :
    filterFrame (some e) h = .newIncarnation (freshEntry h.incarnation h.sequence) :=
  (if_neg (newer_ne new)).trans (if_pos new)

theorem filterFrame_stale (old : newer h.incarnation e.incarnation = false)
    (other : h.incarnation ≠ e.incarnation) : filterFrame (some e) h = .stale :=
  (if_neg other).trans (if_neg (Bool.not_eq_true _ ▸ old))

end

section
variable {e : FilterEntry} {n : Word} (notNewer : newer n e.top = false)
include notNewer

theorem filterSequence_seen (near : (e.top - n).toNat < 64)
    (seen : e.seen.getLsbD (e.top - n).toNat = true) : filterSequence e n = .duplicate := by
  rw [filterSequence, if_neg (Bool.not_eq_true _ ▸ notNewer)]
  exact (if_pos near).trans (if_pos seen)

theorem filterSequence_missed (near : (e.top - n).toNat < 64)
    (unseen : e.seen.getLsbD (e.top - n).toNat = false) : filterSequence e n =
      .accepted { e with seen := e.seen ||| BitVec.twoPow 64 (e.top - n).toNat } := by
  rw [filterSequence, if_neg (Bool.not_eq_true _ ▸ notNewer)]
  exact (if_pos near).trans (if_neg (Bool.not_eq_true _ ▸ unseen))

end

/-- The bits of a window that advances. -/
theorem FilterEntry.advance_seen (e : FilterEntry) (n : Word) {i : Nat} (inside : i < 64) :
    let d := (n - e.top).toNat
    (e.advance n).seen.getLsbD i = (i == 0 || (decide (d ≤ i) && e.seen.getLsbD (i - d))) := by
  intro d
  have one : (1#64).getLsbD i = (i == 0) := by
    rw [BitVec.getLsbD_one, Bool.eq_iff_iff]
    simp
  show (if d < 64 then (e.seen <<< d) ||| 1 else 1 : BitVec 64).getLsbD i = _
  by_cases near : d < 64
  · rw [if_pos near, BitVec.getLsbD_or, BitVec.getLsbD_shiftLeft, Bool.or_comm]
    refine congr (congrArg _ one) ?_
    rw [show decide (d ≤ i) = !decide (i < d) by rw [← decide_not]; exact decide_eq_decide.mpr Nat.not_lt.symm]
    simp [inside]
  · rw [if_neg near]
    refine one.trans ?_
    have far : ¬ d ≤ i := by omega
    simp [far]

/-- A frame that the filter has accepted is a duplicate when it comes again. -/
theorem filterFrame_again {o : Option FilterEntry} {h : RingHeader} {f : FilterEntry}
    (first : filterFrame o h = .accepted f ∨ filterFrame o h = .newIncarnation f) :
    filterFrame (some f) h = .duplicate := by
  have fresh : filterFrame (some (freshEntry h.incarnation h.sequence)) h = .duplicate := by
    have zero : (h.sequence - h.sequence).toNat = 0 := by simp
    rw [filterFrame_same rfl]
    refine filterSequence_seen (newer_self _) ?_ ?_
    · show (h.sequence - h.sequence).toNat < 64
      omega
    · show (1#64).getLsbD (h.sequence - h.sequence).toNat = true
      rw [zero]
      rfl
  cases o with
  | none =>
    obtain accepted | new := first
    · exact FilterResult.accepted.inj accepted ▸ fresh
    · exact nomatch new
  | some e =>
    by_cases same : h.incarnation = e.incarnation
    · rw [filterFrame_same same] at first
      by_cases new : newer h.sequence e.top = true
      · rw [filterSequence_of_newer new] at first
        obtain accepted | wrong := first
        · obtain rfl := FilterResult.accepted.inj accepted
          have zero : (h.sequence - h.sequence).toNat = 0 := by simp
          rw [filterFrame_same (e := e.advance h.sequence) same]
          refine filterSequence_seen (newer_self _) ?_ ?_
          · show (h.sequence - h.sequence).toNat < 64
            omega
          · show (e.advance h.sequence).seen.getLsbD (h.sequence - h.sequence).toNat = true
            rw [zero, FilterEntry.advance_seen e _ (by decide)]
            rfl
        · exact nomatch wrong
      · have notNewer := Bool.not_eq_true _ ▸ new
        by_cases near : (e.top - h.sequence).toNat < 64
        · cases seen : e.seen.getLsbD (e.top - h.sequence).toNat
          case true =>
            rw [filterSequence_seen notNewer near seen] at first
            exact first.elim nofun nofun
          case false =>
            rw [filterSequence_missed notNewer near seen] at first
            obtain accepted | wrong := first
            · obtain rfl := FilterResult.accepted.inj accepted
              let f : FilterEntry := { e with seen := e.seen ||| BitVec.twoPow 64 (e.top - h.sequence).toNat }
              have seen' : f.seen.getLsbD (e.top - h.sequence).toNat = true := by
                simp only [f, BitVec.getLsbD_or, BitVec.getLsbD_twoPow, near, decide_true, Bool.and_self,
                  Bool.or_true]
              exact (filterFrame_same (e := f) same).trans (filterSequence_seen notNewer near seen')
            · exact nomatch wrong
        · rw [filterSequence_of_old notNewer (by omega)] at first
          exact first.elim nofun nofun
    · by_cases new : newer h.incarnation e.incarnation = true
      · rw [filterFrame_new new] at first
        obtain wrong | accepted := first
        · exact nomatch wrong
        · exact FilterResult.newIncarnation.inj accepted ▸ fresh
      · rw [filterFrame_stale (Bool.not_eq_true _ ▸ new) same] at first
        exact first.elim nofun nofun

/-- The decisions of the filter, row by row (Table 5-3). -/
theorem filterFrame_rows (e : FilterEntry) (h : RingHeader) :
    let fresh : FilterEntry := { incarnation := h.incarnation, top := h.sequence, seen := 1 }
    let back := (e.top - h.sequence).toNat
    filterFrame none h = .accepted fresh ∧
    (newer h.incarnation e.incarnation = true → filterFrame (some e) h = .newIncarnation fresh) ∧
    (newer h.incarnation e.incarnation = false → h.incarnation ≠ e.incarnation →
      filterFrame (some e) h = .stale) ∧
    (h.incarnation = e.incarnation → filterFrame (some e) h = filterSequence e h.sequence) ∧
    (h.incarnation = e.incarnation → newer h.sequence e.top = true →
      let d := (h.sequence - e.top).toNat
      ∃ f, filterFrame (some e) h = .accepted f ∧ f.top = h.sequence ∧ f.incarnation = e.incarnation ∧
        ∀ i, i < 64 → f.seen.getLsbD i = (i == 0 || (decide (d ≤ i) && e.seen.getLsbD (i - d)))) ∧
    (h.incarnation = e.incarnation → newer h.sequence e.top = false →
      (back < 64 → e.seen.getLsbD back = true → filterFrame (some e) h = .duplicate) ∧
      (back < 64 → e.seen.getLsbD back = false →
        ∃ f, filterFrame (some e) h = .accepted f ∧ f.top = e.top ∧ f.incarnation = e.incarnation ∧
          ∀ i, i < 64 → f.seen.getLsbD i = (e.seen.getLsbD i || i == back)) ∧
      (64 ≤ back → filterFrame (some e) h = .stale)) := by
  intro fresh back
  refine ⟨rfl, filterFrame_new, filterFrame_stale, filterFrame_same, fun same new => ?_, fun same notNewer =>
    ⟨fun near seen => ?_, fun near unseen => ?_, fun far => ?_⟩⟩
  · exact ⟨e.advance h.sequence, (filterFrame_same same).trans (filterSequence_of_newer new), rfl, rfl,
      fun i inside => e.advance_seen _ inside⟩
  · exact (filterFrame_same same).trans (filterSequence_seen notNewer near seen)
  · refine ⟨_, (filterFrame_same same).trans (filterSequence_missed notNewer near unseen), rfl, rfl,
      fun i inside => ?_⟩
    simp [inside, back, eq_comm (a := i), Bool.beq_eq_decide_eq]
  · exact (filterFrame_same same).trans (filterSequence_of_old notNewer far)

/-! ### The offer of a frame (R61, Tables 4-7 and 4-8) -/

theorem Port.offer_iff (x : Port) (lane : Nat) :
    (x.offer lane = .queued ↔ x.laneOpen lane = true ∧ (x.laneQueue lane).length < laneCapacity lane) ∧
    (x.offer lane = .full ↔ x.laneOpen lane = true ∧ laneCapacity lane ≤ (x.laneQueue lane).length) ∧
    (x.offer lane = .notOpen ↔ ¬ x.laneOpen lane = true) := by
  unfold Port.offer
  cases x.laneOpen lane
  case false => simp
  case true =>
    by_cases full : laneCapacity lane ≤ (x.laneQueue lane).length
    · simp [full]
    · simp [full, Nat.lt_of_not_le full]

section
variable {s : State} {p : PortId} {lane : Nat} (f : Bytes)

theorem offerFrame_full (full : (s.port p).offer lane = .full) :
    offerFrame p lane f s = s.countPort p (countFull lane) := by
  simp only [offerFrame, full]

theorem offerFrame_notOpen (shut : (s.port p).offer lane = .notOpen) : offerFrame p lane f s = s := by
  simp only [offerFrame, shut]

theorem offerFrame_queued (queued : (s.port p).offer lane = .queued) :
    offerFrame p lane f s = kick p (afterJoin p lane (s.onPort p fun x => x.join lane f)) := by
  simp only [offerFrame, queued]

/-- A frame on lane 0 waits behind a frame in transmission. -/
theorem offerFrame_lane0_behind (up_ : (s.port p).link = .up) (room : (s.port p).queue0.length < 32)
    (busy : (s.port p).tx ≠ none) : offerFrame p 0 f s =
      s.onPort p fun x => { x with queue0 := x.queue0 ++ [f] } := by
  have queued : (s.port p).offer 0 = .queued := ((s.port p).offer_iff 0).1.mpr ⟨beq_iff_eq.mpr up_, room⟩
  rw [offerFrame_queued f queued]
  refine kick_busy ?_
  rw [afterJoin, State.onPort_port]
  exact busy

/-- A frame on lane 0 of an idle port, with nothing before it, is sent. -/
theorem offerFrame_lane0_idle (up_ : (s.port p).link = .up) (idle : (s.port p).tx = none)
    (link : (s.port p).linkQueue = []) (zero : (s.port p).queue0 = []) : offerFrame p 0 f s =
      s.onPort p fun x => { x with tx := some (.ring 0 f) } := by
  have queued : (s.port p).offer 0 = .queued :=
    ((s.port p).offer_iff 0).1.mpr ⟨beq_iff_eq.mpr up_, by rw [Port.laneQueue, zero]; decide⟩
  have sends : kick p (s.onPort p fun x => x.join 0 f) = (s.onPort p fun x => x.join 0 f).onPort p fun x =>
      { x with queue0 := [], tx := some (.ring 0 f) } := by
    have port : ((s.onPort p fun x => x.join 0 f).port p) = { s.port p with queue0 := [f] } := by
      rw [State.onPort_port, Port.join, zero]
      rfl
    simp only [kick, port, idle, link, Option.isSome_none, Bool.false_eq_true, if_false]
  rw [offerFrame_queued f queued, afterJoin, sends, State.onPort_onPort]
  refine State.onPort_congr ?_
  simp only [Port.join]
  rw [← zero]

/-- A frame on lane 2 of an idle port, with nothing before it, is sent, unless the lane is held. -/
theorem offerFrame_lane2_idle (up_ : (s.port p).link = .up) (opened : (s.port p).lane2 = .opened)
    (idle : (s.port p).tx = none) (link : (s.port p).linkQueue = []) (zero : (s.port p).queue0 = [])
    (one : (s.port p).queue1 = []) (two : (s.port p).queue2 = []) (calm : (s.port p).refreshAt = none)
    (mark : 2 ≤ s.highMark) : offerFrame p 2 f s = s.onPort p fun x =>
      if x.heldUntil.isSome = true then { x with queue2 := [f] } else { x with tx := some (.ring 2 f) } := by
  have queued : (s.port p).offer 2 = .queued := by
    refine ((s.port p).offer_iff 2).1.mpr ⟨?_, by rw [Port.laneQueue, two]; decide; all_goals decide⟩
    simp [Port.laneOpen, up_, opened]
  let t := s.onPort p fun x => x.join 2 f
  have port : t.port p = { s.port p with queue2 := [f] } := by
    rw [State.onPort_port, Port.join, two]
    · rfl
    all_goals decide
  have joined : afterJoin p 2 t = t := by
    refine lane2Rose_stays (.inr ?_)
    rw [port]
    exact mark
  rw [offerFrame_queued f queued, joined]
  by_cases held : (s.port p).heldUntil.isSome = true
  · have waits : kick p t = t := by
      simp only [kick, port, idle, link, zero, one, Option.isSome_none, Bool.false_eq_true, if_false, Port.held,
        held, if_true]
    rw [waits]
    refine State.onPort_congr ?_
    rw [if_pos held, ← State.onPort_port p (fun x => x.join 2 f) s, port]
  · have free : (t.port p).heldUntil = none := by
      rw [port]
      exact Option.not_isSome_iff_eq_none.mp held
    rw [kick_lane2 (f := f) (rest := []) (by rw [port]; exact idle) (by rw [port]; exact link)
      (by rw [port]; exact zero) (by rw [port]; exact one) free (by rw [port]), State.onPort_onPort,
      lane2Fell_stays]
    · refine State.onPort_congr ?_
      rw [if_neg held, ← State.onPort_port p (fun x => x.join 2 f) s, port, ← two]
    · rw [State.onPort_port, ← State.onPort_port p (fun x => x.join 2 f) s, port]
      exact .inl calm

end

/-! ### The arrival of a ring-wide frame (R48, R54, R69) -/

theorem exec_rxFrameComplete (p : PortId) (bs : Bytes) (s : State) :
    exec (.rxFrameComplete p bs) s = .next (settle (receiveFrame p bs s)) := rfl

/-- A frame that passes the arrival checks is judged by its origin. -/
theorem receiveFrame_admitted {s : State} {p : PortId} {k : RingKind} {bs : Bytes}
    (configured : s.unconfigured = false) (short : bs.length ≤ 3072) (good : crcGood bs = true)
    (up_ : (s.port p).link = .up) (kind : ringKindOf (byteAt bs 0) = some k) (lane : byteAt bs 2 = k.lane)
    (air : k = .air → (s.port p).lane1 ≠ .closed) (keep : k = .keep → (s.port p).lane2 ≠ .closed)
    (size : wordAt16 bs 12 = bs.length) (allowed : lengthAllowed s.rate k bs = true)
    (least : 1 ≤ byteAt bs 1) (most : byteAt bs 1 ≤ 16) : receiveFrame p bs s =
      if byteAt bs 1 = s.ownId then ownOrigin p bs s else otherOrigin p k bs s := by
  have notHello : byteAt bs 0 ≠ 1 := fun h => by rw [h] at kind; exact nomatch kind
  have notHold : byteAt bs 0 ≠ 2 := fun h => by rw [h] at kind; exact nomatch kind
  have open_ : ¬ (s.port p).laneClosed k.lane = true := by
    rw [laneClosed_iff]
    rintro (⟨isAir, closed⟩ | ⟨isKeep, closed⟩)
    · exact air isAir closed
    · exact keep isKeep closed
  have down : (s.port p).link ≠ .down := by rw [up_]; exact nofun
  rw [receiveFrame_sound ⟨configured, down⟩ ⟨short, good⟩, if_neg notHello, if_neg notHold,
    admission_up up_ kind, if_neg (Classical.not_not.mpr lane), if_neg open_, admitted,
    if_neg (by simp [size, allowed]), if_neg (Classical.not_not.mpr ⟨least, most⟩)]

/-- Settles O37: the filter by its rows, the offer by its outcomes, and a first copy of another origin through
both. -/
theorem firstCopyRelayedAndDelivered : Obligations.FirstCopyRelayedAndDelivered := by
  refine ⟨fun e h => ?_, fun s p f => ?_, ⟨rfl, fun c => ⟨rfl, rfl, rfl⟩⟩, ?_⟩
  case refine_1 =>
    obtain ⟨first, new, stale, same, advances, near⟩ := filterFrame_rows e h
    exact ⟨first, new, stale, same, advances, near, fun o f => filterFrame_again⟩
  case refine_2 =>
    intro x c answers
    have answer (lane : Nat) (passes : Prop) (full : PortCounts) (open_ : x.laneOpen lane = true ↔ passes)
        (counts : countFull lane c = full) :
        answers lane passes (x.laneQueue lane) (laneCapacity lane) full := by
      obtain ⟨queued, isFull, shut⟩ := x.offer_iff lane
      rw [open_] at queued isFull shut
      refine ⟨queued, isFull, shut, fun on no => ?_, fun off => offerFrame_notOpen f (shut.mpr off)⟩
      rw [offerFrame_full f (isFull.mpr ⟨on, no⟩), ← counts]
      rfl
    refine ⟨answer 0 _ _ beq_iff_eq rfl, answer 1 _ _ ?_ rfl, answer 2 _ _ ?_ rfl, fun up_ room busy =>
      offerFrame_lane0_behind f up_ room busy, fun idle link zero => ⟨fun up_ =>
        offerFrame_lane0_idle f up_ idle link zero, fun up_ opened one two calm mark =>
        offerFrame_lane2_idle f up_ opened idle link zero one two calm mark⟩⟩
    · simp [Port.laneOpen]
    · simp [Port.laneOpen]
  case refine_3 =>
    intro s p k bs configured short good up_ kind lane air keep size allowed least most other entry answer relayed
    have arrives := receiveFrame_admitted configured short good up_ kind lane air keep size allowed least most
    rw [if_neg other] at arrives
    rw [exec_rxFrameComplete, arrives]
    refine ⟨fun e accepted => ?_, fun e new => ?_, fun duplicate => ?_, fun stale => ?_⟩
    · rw [otherOrigin, show filterFrame (atStation s.dlu.filter (ringHeader bs).origin) _ = _ from accepted]
      rfl
    · rw [otherOrigin, show filterFrame (atStation s.dlu.filter (ringHeader bs).origin) _ = _ from new]
      rfl
    · rw [otherOrigin, show filterFrame (atStation s.dlu.filter (ringHeader bs).origin) _ = _ from duplicate]
      rfl
    · rw [otherOrigin, show filterFrame (atStation s.dlu.filter (ringHeader bs).origin) _ = _ from stale]
      rfl

/-! ### A frame of the own origin (R73, R74, Table 5-4) -/

/-- A frame of the own origin shows a duplicate id where it was not issued here. -/
theorem judgeOwn_duplicate {own : Option Word} {next : Word} {h : RingHeader}
    (alien : own = none ∨ (own = some h.incarnation ∧ newer next h.sequence = false) ∨
      ∃ inc, own = some inc ∧ newer h.incarnation inc = true) : judgeOwn own next h = .duplicateId := by
  obtain rfl | ⟨rfl, late⟩ | ⟨inc, rfl, new⟩ := alien
  · rfl
  · exact (if_pos rfl).trans (if_neg (Bool.not_eq_true _ ▸ late))
  · exact (if_neg (newer_ne new)).trans (if_pos new)

/-- With the drain blocked the tests of an event leave the Datalink Unit. -/
theorem settle_dlu_of_blocked {s : State} (blocked : s.drainBlock ≠ none) : (settle s).dlu = s.dlu := by
  have rest : Foot [.aou, .tlu, .cfr] s (settle s) := by
    rw [settle, drain_of_blocked blocked]
    exact (reportFinished_foot s).grow.seq (testDone_foot _).grow
  exact rest.dlu_eq

/-- The first duplicate id: MUTED with its cause, DUPID raised, and the cut trigger presented (R74, R141). -/
theorem duplicateId_first {s : State} (speaks : s.dlu.muted = none) (p : PortId) (h : RingHeader) :
    let t := settle (duplicateId p h s)
    t.dlu = { s.dlu with
      muted := some { port := p, incarnation := h.incarnation, sequence := h.sequence }
      counts := { s.dlu.counts with dupidFrame := up s.dlu.counts.dupidFrame } } ∧
    State.Raised .dupid (.dupidFrame p h.incarnation h.sequence) s t ∧
    State.Triggered (·.cutDup) (.dupid p h.incarnation h.sequence) s t := by
  intro t
  let v := s.onDlu fun d => { d with
    muted := some { port := p, incarnation := h.incarnation, sequence := h.sequence }
    counts := { d.counts with dupidFrame := up d.counts.dupidFrame } }
  let a := raiseAttn .dupid (.dupidFrame p h.incarnation h.sequence) v
  let c := cutTrigger (·.cutDup) (.dupid p h.incarnation h.sequence) a
  have mutes : duplicateId p h s = c := by
    rw [duplicateId, if_neg (by simp [State.muted, speaks])]
    rfl
  have dlu : c.dlu = v.dlu := (cutTrigger_foot _ _ a).dlu_eq
  have csu : t.csu = c.csu := by rw [show t = settle (duplicateId p h s) from rfl, mutes, settle_csu]
  have aou : c.aou.SameCut t.aou := by
    rw [show t = settle (duplicateId p h s) from rfl, mutes]
    exact settle_sameCut c
  have quiet : State.Unraised .cut s a :=
    raiseAttn_unraised (show AttnClass.cut ≠ .dupid by decide) (.dupidFrame p h.incarnation h.sequence) v
  have triggered : State.Triggered (·.cutDup) (.dupid p h.incarnation h.sequence) s c :=
    (cutTrigger_triggered (·.cutDup) (.dupid p h.incarnation h.sequence) a).behind
      ⟨rfl, rfl, rfl⟩ quiet rfl (modifyAt_length _ _ _) (modifyAt_length _ _ _)
  refine ⟨?_, fun pending counts => ?_, triggered.before aou (congrArg Csu.pendingAttn csu)
    (congrArg Csu.attnRaised csu)⟩
  · have blocked : c.drainBlock ≠ none := fun sends => by
      have speaks := (drainBlock_none sends).1
      rw [State.muted, dlu] at speaks
      exact nomatch speaks
    rw [show t = settle (duplicateId p h s) from rfl, mutes, settle_dlu_of_blocked blocked, dlu]
    rfl
  · obtain ⟨raised, counted⟩ := raiseAttn_raised .dupid (.dupidFrame p h.incarnation h.sequence) v pending counts
    obtain ⟨kept, keptCount⟩ := cutTrigger_unraised (show AttnClass.dupid ≠ .cut by decide) (·.cutDup)
      (.dupid p h.incarnation h.sequence) a
    rw [csu]
    exact ⟨kept.trans raised, keptCount.trans counted⟩

/-- Settles O38: the three results of the own-origin check; the first duplicate id mutes. -/
theorem ownOriginJudged : Obligations.OwnOriginJudged := by
  intro s p k bs configured short good up_ kind lane air keep size allowed least most own inc n counts c
  have arrives := receiveFrame_admitted configured short good up_ kind lane air keep size allowed least most
  rw [if_pos own] at arrives
  have runs : exec (.rxFrameComplete p bs) s = .next (settle (ownOrigin p bs s)) := by
    rw [exec_rxFrameComplete, arrives]
  refine ⟨fun current issued_ => ?_, fun cur held other old => ?_, fun alien => ?_⟩
  · have judged : judgeOwn s.tlu.incarnation s.dlu.nextSeq (ringHeader bs) = .fullCircle := by
      rw [current]
      exact (if_pos rfl).trans (if_pos issued_)
    refine runs.trans ?_
    rw [ownOrigin, judged]
    rfl
  · have judged : judgeOwn s.tlu.incarnation s.dlu.nextSeq (ringHeader bs) = .stale := by
      rw [held]
      exact (if_neg other).trans (if_neg (Bool.not_eq_true _ ▸ old))
    refine runs.trans ?_
    rw [ownOrigin, judged]
    rfl
  · have judged : ownOrigin p bs s = duplicateId p (ringHeader bs) s := by
      rw [ownOrigin, judgeOwn_duplicate alien]
    rw [judged] at runs
    refine ⟨fun muted => runs.trans ?_, fun speaks => ⟨_, runs, ?_⟩⟩
    · rw [duplicateId]
      exact congrArg (fun t => Host.Outcome.next (settle t)) (if_pos muted)
    · exact duplicateId_first speaks p (ringHeader bs)

end Sys2Proof.Machine
end

section
/-! The roster's judgement of AIR frames (O44). -/

namespace Sys2Proof.Machine

/-! ### The entries of the roster (R89) -/

theorem findClaim_cons (track : Nat) (x : RosterEntry) (es : List RosterEntry) :
    findClaim track (x :: es) = if x.track = track then some x.claim else findClaim track es := by
  by_cases same : x.track = track
  · rw [if_pos same, findClaim, List.find?_cons_of_pos (by simp [same])]
    rfl
  · rw [if_neg same, findClaim, List.find?_cons_of_neg (by simp [same])]
    rfl

/-- The entry of a track once an entry has been put. -/
theorem findClaim_putEntry (track : Nat) (e : RosterEntry) (es : List RosterEntry) :
    findClaim track (putEntry e es) = if e.track = track then some e.claim else findClaim track es := by
  induction es with
  | nil => exact findClaim_cons track e []
  | cons x es ih =>
    rw [putEntry]
    by_cases before : e.track < x.track
    · rw [if_pos before, findClaim_cons]
    · rw [if_neg before]
      by_cases same : e.track = x.track
      · rw [if_pos same, findClaim_cons, findClaim_cons, same]
        by_cases here : x.track = track
        · rw [if_pos here, if_pos here]
        · rw [if_neg here, if_neg here, if_neg here]
      · rw [if_neg same, findClaim_cons, findClaim_cons, ih]
        by_cases here : x.track = track
        · rw [if_pos here, if_pos here, if_neg (by omega)]
        · rw [if_neg here, if_neg here]

/-! ### What the roster makes of an AIR frame (R93 to R100) -/

section
variable {s : State} {o : Nat} {a : AirBody}

theorem violate_eq (v : Violation) (track station : Nat) (s : State) : violate v track station s = { s with
    rst := { s.rst with counts := v.count s.rst.counts }
    csu := s.csu.raise .claim (.claim v track station) } := rfl

/-- An accepted frame leaves the roster as it is, but for its count; the Air Outlet takes it where there is
one. -/
theorem acceptAir_accepts (o : Nat) (a : AirBody) (s : State) (r : Rst) :
    let t := acceptAir o a { s with rst := r }
    let made := { r with counts := { r.counts with airAccepted := up r.counts.airAccepted } }
    t.rst = made ∧ (s.airRole = false → t = { s with rst := made }) ∧
    (s.airRole = true → t = takeArrival
      { track := a.track, origin := o, index := a.index, load := a.load } { s with rst := made }) := by
  intro t made
  by_cases role : s.airRole = true
  · have takes : t = takeArrival { track := a.track, origin := o, index := a.index, load := a.load }
        { s with rst := made } := if_pos role
    refine ⟨?_, fun off => absurd role (by rw [off]; exact Bool.false_ne_true), fun _ => takes⟩
    rw [takes]
    exact (takeArrival_foot _ _).rst (by decide)
  · have keeps : t = { s with rst := made } := if_neg role
    exact ⟨congrArg State.rst keeps, fun _ => keeps, fun on => absurd on role⟩

variable (armed : s.armedOnward = true)
include armed

theorem rosterAir_dark (dark : (s.cueValue a.group).onAir = false) : rosterAir o a s =
    s.onRst fun r => { r with counts := { r.counts with airDark := up r.counts.airDark } } := by
  rw [rosterAir, if_neg (by simp [armed]), if_pos (by simp [dark])]

variable (onAir : (s.cueValue a.group).onAir = true)
include onAir

theorem rosterAir_judged : rosterAir o a s = match s.judge o a.track with
    | .violation v => violate v a.track o s
    | .learn => acceptAir o a (s.onRst fun r => { r.learnFrom o a with
        counts := { r.counts with rosterLearned := up r.counts.rosterLearned } })
    | .refresh => acceptAir o a (s.onRst fun r => r.learnFrom o a)
    | .move => acceptAir o a (s.onRst fun r => { r.learnFrom o a with
        counts := { r.counts with rosterMoved := up r.counts.rosterMoved } })
    | .accept => acceptAir o a s :=
  (if_neg (by simp [armed])).trans (if_neg (by simp [onAir]))

theorem rosterAir_violates {v : Violation} (judged : s.judge o a.track = .violation v) :
    rosterAir o a s = violate v a.track o s := by
  rw [rosterAir_judged armed onAir, judged]

theorem rosterAir_learns (judged : s.judge o a.track = .learn) : rosterAir o a s =
    acceptAir o a { s with rst := { s.rst.learnFrom o a with
      counts := { s.rst.counts with rosterLearned := up s.rst.counts.rosterLearned } } } := by
  rw [rosterAir_judged armed onAir, judged]
  rfl

theorem rosterAir_refreshes (judged : s.judge o a.track = .refresh) : rosterAir o a s =
    acceptAir o a { s with rst := s.rst.learnFrom o a } := by
  rw [rosterAir_judged armed onAir, judged]
  rfl

theorem rosterAir_moves (judged : s.judge o a.track = .move) : rosterAir o a s =
    acceptAir o a { s with rst := { s.rst.learnFrom o a with
      counts := { s.rst.counts with rosterMoved := up s.rst.counts.rosterMoved } } } := by
  rw [rosterAir_judged armed onAir, judged]
  rfl

theorem rosterAir_accepts (judged : s.judge o a.track = .accept) : rosterAir o a s = acceptAir o a s := by
  rw [rosterAir_judged armed onAir, judged]

end

/-! ### The judgement by the entry of the track (Table 6-3) -/

section
variable {s : State} {o track : Nat}

theorem judge_none (entry : findClaim track s.rst.entries = none) : s.judge o track =
    if s.frozen then .violation .frozen
    else if s.claimLimit o ≤ learnedCount o s.rst.entries then .violation .limit
    else if s.rst.full then .violation .full
    else .learn := by
  simp only [State.judge, entry, decide_eq_true_eq]

theorem judge_learned {q g : Nat} {n : Index} (entry : findClaim track s.rst.entries = some (.learned q g n)) :
    s.judge o track = if q = o then .refresh
      else if s.guardOn then .violation .doubleClaim
      else if s.claimLimit o ≤ learnedCount o s.rst.entries then .violation .limit
      else .move := by
  simp only [State.judge, entry, decide_eq_true_eq]

theorem judge_local {g : Nat} (entry : findClaim track s.rst.entries = some (.localTrack g)) :
    s.judge o track = .violation .doubleClaim := by
  simp only [State.judge, entry]

theorem judge_pin {q g : Nat} (entry : findClaim track s.rst.entries = some (.pin q g)) :
    s.judge o track = if q = o then .accept else .violation .doubleClaim := by
  simp only [State.judge, entry]

theorem judge_bar (entry : findClaim track s.rst.entries = some .bar) :
    s.judge o track = .violation .barred := by
  simp only [State.judge, entry]

end

theorem State.frozen_iff (s : State) : s.frozen = true ↔ s.cueValue 16 = .on := beq_iff_eq

theorem Rst.full_iff (r : Rst) : r.full = true ↔ 320 ≤ r.entries.length := decide_eq_true_iff

/-- Settles O44: before ARM nothing, a DARK group is counted, and the judgement by the entry of the track. -/
theorem rosterJudgesAir : Obligations.RosterJudgesAir := by
  refine ⟨fun s frame => rfl, fun s o a => rosterAir_before o a, ?_⟩
  intro s o a armed count violates full c accepts learns
  refine ⟨fun dark => rosterAir_dark armed dark, fun onAir => ?_⟩
  have breaks {v : Violation} (judged : s.judge o a.track = .violation v) : violates v (v.count c) :=
    rosterAir_violates armed onAir judged
  have accepted {r : Rst} (made : rosterAir o a s = acceptAir o a { s with rst := r }) :
      accepts { r with counts := { r.counts with airAccepted := up r.counts.airAccepted } } := by
    show (rosterAir o a s).rst = _ ∧ _
    rw [made]
    exact acceptAir_accepts o a s r
  refine ⟨fun entry => ⟨fun frozen => ?_, fun free limit => ?_, fun free room capacity => ?_,
    fun free room capacity => ?_⟩, fun g n entry => ?_, fun q g n entry other => ⟨fun guard => ?_,
    fun guard limit => ?_, fun guard room => ?_⟩, fun g entry => ?_, fun g entry => ?_, fun q g entry other => ?_,
    fun entry => ?_⟩
  · refine breaks (v := .frozen) ?_
    rw [judge_none entry, if_pos (s.frozen_iff.mpr frozen)]
  · refine breaks (v := .limit) ?_
    rw [judge_none entry, if_neg ((not_congr s.frozen_iff).mpr free), if_pos limit]
  · refine breaks (v := .full) ?_
    rw [judge_none entry, if_neg ((not_congr s.frozen_iff).mpr free), if_neg room, if_pos (s.rst.full_iff.mpr capacity)]
  · have judged : s.judge o a.track = .learn := by
      rw [judge_none entry, if_neg ((not_congr s.frozen_iff).mpr free), if_neg room,
        if_neg ((not_congr s.rst.full_iff).mpr (by omega))]
    exact accepted (rosterAir_learns armed onAir judged)
  · have judged : s.judge o a.track = .refresh := by rw [judge_learned entry, if_pos rfl]
    exact accepted (rosterAir_refreshes armed onAir judged)
  · refine breaks (v := .doubleClaim) ?_
    rw [judge_learned entry, if_neg other, if_pos guard]
  · refine breaks (v := .limit) ?_
    rw [judge_learned entry, if_neg other, if_neg (Bool.not_eq_true _ ▸ guard), if_pos limit]
  · have judged : s.judge o a.track = .move := by
      rw [judge_learned entry, if_neg other, if_neg (Bool.not_eq_true _ ▸ guard), if_neg room]
    exact accepted (rosterAir_moves armed onAir judged)
  · exact breaks (v := .doubleClaim) (judge_local entry)
  · have judged : s.judge o a.track = .accept := by rw [judge_pin entry, if_pos rfl]
    exact accepted (rosterAir_accepts armed onAir judged)
  · refine breaks (v := .doubleClaim) ?_
    rw [judge_pin entry, if_neg other]
  · exact breaks (v := .barred) (judge_bar entry)

end Sys2Proof.Machine
end

section
/-! The LOCAL entries of a group cue (O43). -/

namespace Sys2Proof.Machine

/-! ### One LOCAL entry (Table 6-4) -/

section
variable {s : State} {e : PatchEntry}

theorem makeLocal_none (entry : findClaim e.track s.rst.entries = none) : makeLocal e s =
    if s.rst.full then violate .full e.track s.ownId s
    else { s with rst := { s.rst with
      entries := putEntry { track := e.track, claim := .localTrack e.group } s.rst.entries } } := by
  simp only [makeLocal, entry]
  rfl

theorem makeLocal_learned {o g : Nat} {n : Index} (entry : findClaim e.track s.rst.entries = some (.learned o g n)) :
    makeLocal e s = violate .doubleClaim e.track o { s with rst := { s.rst with
      entries := putEntry { track := e.track, claim := .localTrack e.group } s.rst.entries } } := by
  simp only [makeLocal, entry]
  rfl

theorem makeLocal_local {g : Nat} (entry : findClaim e.track s.rst.entries = some (.localTrack g)) :
    makeLocal e s = s := by
  simp only [makeLocal, entry]

theorem makeLocal_pin {o g : Nat} (entry : findClaim e.track s.rst.entries = some (.pin o g)) :
    makeLocal e s = violate .doubleClaim e.track o s := by
  simp only [makeLocal, entry]

theorem makeLocal_bar (entry : findClaim e.track s.rst.entries = some .bar) :
    makeLocal e s = violate .barred e.track s.ownId s := by
  simp only [makeLocal, entry]

end

/-- The claim of a track once the LOCAL entry of its patched channel has been made, where there is room. -/
def localClaim (g : Nat) : Option Claim → Claim
  | some (.pin o h) => .pin o h
  | some .bar => .bar
  | some (.localTrack h) => .localTrack h
  | some (.learned _ _ _) => .localTrack g
  | none => .localTrack g

/-- What the making of one LOCAL entry leaves in the roster, where there is room. -/
theorem makeLocal_entries {s : State} (e : PatchEntry) (room : s.rst.entries.length < 320) :
    (∀ track, findClaim track (makeLocal e s).rst.entries =
      if e.track = track then some (localClaim e.group (findClaim track s.rst.entries))
      else findClaim track s.rst.entries) ∧
    (makeLocal e s).rst.entries.length ≤ s.rst.entries.length + 1 := by
  have kept {c : Claim} (entry : findClaim e.track s.rst.entries = some c) (same : localClaim e.group (some c) = c)
      (track : Nat) : findClaim track s.rst.entries =
        if e.track = track then some (localClaim e.group (findClaim track s.rst.entries))
        else findClaim track s.rst.entries := by
    split
    next here => rw [← here, entry, same]
    · rfl
  have put (c : Option Claim) (entry : findClaim e.track s.rst.entries = c)
      (isLocal : localClaim e.group c = .localTrack e.group) (track : Nat) :
      findClaim track (putEntry { track := e.track, claim := .localTrack e.group } s.rst.entries) =
        if e.track = track then some (localClaim e.group (findClaim track s.rst.entries))
        else findClaim track s.rst.entries := by
    rw [findClaim_putEntry]
    split
    next here => rw [← here, entry, isLocal]
    · rfl
  cases entry : findClaim e.track s.rst.entries with
  | none =>
    rw [makeLocal_none entry, if_neg ((not_congr s.rst.full_iff).mpr (by omega))]
    exact ⟨put _ entry rfl, putEntry_length _ _⟩
  | some c =>
    cases c with
    | learned o g n =>
      rw [makeLocal_learned entry]
      exact ⟨put _ entry rfl, putEntry_length _ _⟩
    | localTrack g =>
      rw [makeLocal_local entry]
      exact ⟨kept entry rfl, Nat.le_succ _⟩
    | pin o g =>
      rw [makeLocal_pin entry]
      exact ⟨kept entry rfl, Nat.le_succ _⟩
    | bar =>
      rw [makeLocal_bar entry]
      exact ⟨kept entry rfl, Nat.le_succ _⟩

/-! ### The LOCAL entries of several channels -/

theorem makeLocals_foldl (ps : List (Nat × PatchEntry)) : ∀ s : State,
    makeLocals ps s = ps.foldl (fun u p => makeLocal p.2 u) s := by
  induction ps with
  | nil => exact fun _ => rfl
  | cons p ps ih => exact fun s => ih (makeLocal p.2 s)

/-- What the LOCAL entries of channels of distinct tracks leave in the roster, where there is room. -/
theorem makeLocals_entries (ps : List (Nat × PatchEntry)) : ∀ {s : State},
    s.rst.entries.length + ps.length ≤ 320 → (ps.map fun p => p.2.track).Nodup → ∀ track,
    findClaim track (makeLocals ps s).rst.entries = match ps.find? fun p => p.2.track == track with
      | some p => some (localClaim p.2.group (findClaim track s.rst.entries))
      | none => findClaim track s.rst.entries := by
  induction ps with
  | nil => exact fun _ _ _ => rfl
  | cons p ps ih =>
    intro s room distinct track
    obtain ⟨fresh, distinct⟩ := List.nodup_cons.1 distinct
    rw [List.length_cons] at room
    obtain ⟨entries, length⟩ := makeLocal_entries (s := s) p.2 (by omega)
    rw [makeLocals, ih (by omega) distinct, entries]
    by_cases here : p.2.track = track
    · have gone : (ps.find? fun q => q.2.track == track) = none := by
        rw [List.find?_eq_none]
        intro q among same
        exact fresh (List.mem_map.mpr ⟨q, among, (beq_iff_eq.1 same).trans here.symm⟩)
      rw [gone, if_pos here, List.find?_cons_of_pos (by simp [here])]
    · rw [if_neg here, List.find?_cons_of_neg (by simp [here])]

theorem find?_track {ps : List (Nat × PatchEntry)} (distinct : (ps.map fun p => p.2.track).Nodup)
    {p : Nat × PatchEntry} (among : p ∈ ps) : (ps.find? fun q => q.2.track == p.2.track) = some p := by
  induction ps with
  | nil => exact absurd among List.not_mem_nil
  | cons q ps ih =>
    obtain ⟨fresh, distinct⟩ := List.nodup_cons.1 distinct
    obtain rfl | among := List.mem_cons.1 among
    · exact List.find?_cons_of_pos (by simp)
    · have apart : q.2.track ≠ p.2.track := fun same => fresh (List.mem_map.mpr ⟨p, among, same.symm⟩)
      rw [List.find?_cons_of_neg (by simp [apart]), ih distinct among]

/-! ### The roster and the cue table apart (R115) -/

/-- The making of LOCAL entries reads nothing of the cue table. -/
theorem makeLocal_onPcu (e : PatchEntry) (f : Pcu → Pcu) (s : State) :
    makeLocal e (s.onPcu f) = (makeLocal e s).onPcu f := by
  unfold makeLocal
  rw [show (s.onPcu f).rst = s.rst from rfl]
  cases findClaim e.track s.rst.entries with
  | none =>
    dsimp only
    cases s.rst.full
    case false => rfl
    case true => rfl
  | some c =>
    cases c
    case localTrack => rfl
    case learned => rfl
    case pin => rfl
    case bar => rfl

theorem makeLocals_onPcu (ps : List (Nat × PatchEntry)) (f : Pcu → Pcu) : ∀ s : State,
    makeLocals ps (s.onPcu f) = (makeLocals ps s).onPcu f := by
  induction ps with
  | nil => exact fun _ => rfl
  | cons p ps ih =>
    intro s
    rw [makeLocals, makeLocal_onPcu, ih]
    rfl

theorem rosterCue_onPcu (i : Nat) (v : CueValue) (f : Pcu → Pcu) (s : State) :
    rosterCue i v (s.onPcu f) = (rosterCue i v s).onPcu f := by
  unfold rosterCue
  rw [show (s.onPcu f).armedOnward = s.armedOnward from rfl, show (s.onPcu f).patched = s.patched from rfl]
  split
  · rfl
  · split
    · exact makeLocals_onPcu _ _ _
    · rfl

theorem rosterCue_absent {s : State} {i : Nat} (absent : s.armedOnward = false ∨ 16 ≤ i) (v : CueValue) :
    rosterCue i v s = s := by
  refine if_pos ?_
  rw [Bool.or_eq_true, Bool.not_eq_true', decide_eq_true_iff]
  exact absent

section
variable {s : State} {i : Nat} (armed : s.armedOnward = true) (group : i < 16)
include armed group

theorem rosterCue_onAir {v : CueValue} (onAir : v.onAir = true) :
    rosterCue i v s = makeLocals (s.patched.filter fun p => p.2.group == i) s := by
  rw [rosterCue, if_neg (by simp [armed, group]), if_pos onAir]

theorem rosterCue_dark : rosterCue i .dark s = s.onRst (flushWhere (darkens i)) := by
  rw [rosterCue, if_neg (by simp [armed, group])]
  rfl

end

/-- The Peer and Cue Unit once a cue has reached the apply rule (R114). -/
def Pcu.taking (u : Pcu) (c : Cue) : Pcu := ((if u.applies c then u.setItem c else u)).advance c.number

/-- A cue that is applied reaches the roster; any cue moves the clock. -/
theorem applyCue_applied {c : Cue} {s : State} (applies : s.pcu.applies c = true) :
    applyCue c s = { rosterCue c.item c.value s with pcu := s.pcu.taking c } := by
  rw [applyCue, if_pos applies, rosterCue_onPcu, Pcu.taking, if_pos applies]
  have pcu : (rosterCue c.item c.value s).pcu = s.pcu := (rosterCue_foot _ _ s).pcu (by decide)
  rw [State.onPcu, pcu]

theorem applyCue_stale {c : Cue} {s : State} (stale : s.pcu.applies c = false) :
    applyCue c s = { s with pcu := s.pcu.taking c } := by
  rw [applyCue, if_neg (Bool.not_eq_true _ ▸ stale), Pcu.taking, if_neg (Bool.not_eq_true _ ▸ stale)]
  rfl

/-- Settles O43: the LOCAL entry of one channel by the claim of its track, and those of a group by induction
on its channels. -/
theorem groupCueMakesLocals : Obligations.GroupCueMakesLocals := by
  refine ⟨fun s e => ?_, fun s g v value => ?_⟩
  case refine_1 =>
    intro made violates double
    refine ⟨fun entry => ⟨fun room => ?_, fun full => ?_⟩, fun o g n entry => makeLocal_learned entry,
      fun g entry => makeLocal_local entry, fun o g entry => makeLocal_pin entry, fun entry => makeLocal_bar entry⟩
    · rw [makeLocal_none entry, if_neg ((not_congr s.rst.full_iff).mpr (by omega))]
    · exact (makeLocal_none entry).trans (if_pos (s.rst.full_iff.mpr full))
  case refine_2 =>
    intro channels
    have onAir : v.onAir = true := by
      obtain rfl | rfl := value
      · rfl
      · rfl
    refine ⟨fun absent => rosterCue_absent absent v, fun armed group => ?_⟩
    have made : rosterCue g v s = makeLocals channels s := rosterCue_onAir armed group onAir
    refine ⟨made.trans (makeLocals_foldl _ _), ?_, fun room distinct => ⟨fun p among => ?_, fun track apart => ?_⟩⟩
    · rintro c rfl rfl applies
      rw [applyCue_applied applies]
      exact ⟨rfl, rfl⟩
    · have ofGroup : p.2.group = g := beq_iff_eq.1 (List.mem_filter.1 among).2
      rw [made, makeLocals_entries channels room distinct, find?_track distinct among]
      dsimp only
      rw [ofGroup]
      cases findClaim p.2.track s.rst.entries with
      | none => rfl
      | some c =>
        cases c
        case localTrack => rfl
        case learned => rfl
        case pin => rfl
        case bar => rfl
    · have gone : (channels.find? fun q => q.2.track == track) = none := by
        rw [List.find?_eq_none]
        intro q among same
        exact apart q among (beq_iff_eq.1 same)
      rw [made, makeLocals_entries channels room distinct, gone]

end Sys2Proof.Machine
end

section
/-! Cues and the order of their pairs (O42). -/

namespace Sys2Proof.Machine

/-! ### The order of pairs (R113) -/

theorem pairGreater_iff (n m : Word) (o p : Nat) :
    pairGreater n o m p = true ↔ newer n m = true ∨ (n = m ∧ p < o) := by
  rw [pairGreater, Bool.or_eq_true, Bool.and_eq_true, beq_iff_eq, decide_eq_true_iff]

/-- Of two numbers neither of which is newer, both are equal or 2^31 apart. -/
theorem newer_total {n m : Word} (notNewer : newer n m = false) (notOlder : newer m n = false) :
    n = m ∨ (n - m).toNat = 2 ^ 31 := by
  rw [Bool.eq_false_iff, ne_eq, newer_iff] at notNewer notOlder
  by_cases same : n = m
  · exact .inl same
  · right
    bv_omega

theorem pairGreater_asymm {n m : Word} {o p : Nat} (greater : pairGreater n o m p = true) :
    pairGreater m p n o = false := by
  rw [Bool.eq_false_iff, ne_eq, pairGreater_iff]
  rintro (older | ⟨rfl, below⟩)
  · obtain newer_ | ⟨rfl, -⟩ := (pairGreater_iff n m o p).1 greater
    · exact Bool.false_ne_true ((newer_asymm newer_).symm.trans older)
    · exact newer_ne older rfl
  · obtain newer_ | ⟨-, above⟩ := (pairGreater_iff m m o p).1 greater
    · exact newer_ne newer_ rfl
    · omega

theorem pairGreater_total {n m : Word} {o p : Nat} (notGreater : pairGreater n o m p = false)
    (notLess : pairGreater m p n o = false) : (n = m ∧ o = p) ∨ (n - m).toNat = 2 ^ 31 := by
  rw [Bool.eq_false_iff, ne_eq, pairGreater_iff, not_or] at notGreater notLess
  obtain ⟨notNewer, notAbove⟩ := notGreater
  obtain ⟨notOlder, notBelow⟩ := notLess
  obtain rfl | far := newer_total (Bool.not_eq_true _ ▸ notNewer) (Bool.not_eq_true _ ▸ notOlder)
  · left
    refine ⟨rfl, ?_⟩
    have first : ¬ p < o := fun h => notAbove ⟨rfl, h⟩
    have second : ¬ o < p := fun h => notBelow ⟨rfl, h⟩
    omega
  · exact .inr far

/-! ### The codes of the values (Table 11-6) -/

theorem cueOfCode_large {i n : Nat} (large : 3 ≤ n) : cueOfCode i n = none := by
  obtain ⟨k, rfl⟩ := Nat.exists_eq_add_of_le' large
  unfold cueOfCode
  split
  · rfl
  · split <;> rfl

/-! ### The apply rule (R114, R115) -/

theorem Pcu.item_of {u : Pcu} {items : List CueItem} {i : Nat} {x : CueItem} (cues : u.cues = some items)
    (item : items[i]? = some x) : u.item i = some x := by
  rw [Pcu.item, cues, Option.bind_some, item]

theorem Pcu.applies_of {u : Pcu} {c : Cue} {x : CueItem} (item : u.item c.item = some x) :
    u.applies c = pairGreater c.number c.origin x.number x.origin := by
  rw [Pcu.applies, item, Option.map_some, Option.getD_some]

theorem Pcu.applies_none {u : Pcu} {c : Cue} (none_ : u.item c.item = none) : u.applies c = false := by
  rw [Pcu.applies, none_]
  rfl

theorem Pcu.advance_eq (u : Pcu) (n : Word) :
    u.advance n = { u with clock := if newer n u.clock then n else u.clock } := by
  unfold Pcu.advance
  split <;> rfl

theorem Pcu.taking_eq {u : Pcu} {c : Cue} {items : List CueItem} {x : CueItem} (cues : u.cues = some items)
    (item : items[c.item]? = some x) : u.taking c = { u with
      cues := some (if pairGreater c.number c.origin x.number x.origin then
          items.set c.item { value := c.value, number := c.number, origin := c.origin }
        else items)
      clock := if newer c.number u.clock then c.number else u.clock } := by
  rw [Pcu.taking, Pcu.advance_eq, Pcu.applies_of (Pcu.item_of cues item)]
  split
  · rw [Pcu.setItem, cues]
    rfl
  · rw [← cues]

theorem applyCue_pcu (c : Cue) (s : State) : (applyCue c s).pcu = s.pcu.taking c := by
  cases applies : s.pcu.applies c
  case false => rw [applyCue_stale applies]
  case true => rw [applyCue_applied applies]

/-- The entry of its item once a cue has reached the apply rule: its own where it was applied. -/
theorem Pcu.taking_item (u : Pcu) (c : Cue) : (u.taking c).item c.item =
    if u.applies c = true then some { value := c.value, number := c.number, origin := c.origin }
    else u.item c.item := by
  cases cues : u.cues with
  | none =>
    have none_ : u.item c.item = none := by rw [Pcu.item, cues]; rfl
    rw [if_neg (by rw [Pcu.applies_none none_]; exact Bool.false_ne_true), Pcu.taking, Pcu.advance_eq,
      if_neg (by rw [Pcu.applies_none none_]; exact Bool.false_ne_true)]
    rfl
  | some items =>
    cases item : items[c.item]? with
    | none =>
      have none_ : u.item c.item = none := by rw [Pcu.item, cues, Option.bind_some, item]
      rw [if_neg (by rw [Pcu.applies_none none_]; exact Bool.false_ne_true), Pcu.taking, Pcu.advance_eq,
        if_neg (by rw [Pcu.applies_none none_]; exact Bool.false_ne_true)]
      rfl
    | some x =>
      obtain ⟨inside, -⟩ := List.getElem?_eq_some_iff.mp item
      rw [Pcu.taking_eq cues item, Pcu.applies_of (Pcu.item_of cues item)]
      split
      · exact List.getElem?_set_self inside
      · rw [Pcu.item_of cues item]
        exact item

/-- Two cues for one item, both greater than its pair and one greater than the other, leave the greater in
either order. -/
theorem takings_item {u : Pcu} {c d : Cue} {x : CueItem} (same : c.item = d.item)
    (item : u.item c.item = some x) (second : pairGreater d.number d.origin x.number x.origin = true)
    (first : pairGreater c.number c.origin x.number x.origin = true)
    (greater : pairGreater c.number c.origin d.number d.origin = true) :
    ((u.taking d).taking c).item c.item =
      some { value := c.value, number := c.number, origin := c.origin } ∧
    ((u.taking c).taking d).item c.item =
      some { value := c.value, number := c.number, origin := c.origin } := by
  have item' : u.item d.item = some x := same ▸ item
  have afterD : (u.taking d).item c.item = some { value := d.value, number := d.number, origin := d.origin } := by
    rw [same, Pcu.taking_item, Pcu.applies_of item', if_pos second]
  have afterC : (u.taking c).item c.item = some { value := c.value, number := c.number, origin := c.origin } := by
    rw [Pcu.taking_item, Pcu.applies_of item, if_pos first]
  constructor
  · rw [Pcu.taking_item, Pcu.applies_of afterD, if_pos greater]
  · rw [same] at afterC ⊢
    rw [Pcu.taking_item, Pcu.applies_of afterC, if_neg, afterC]
    rw [pairGreater_asymm greater]
    exact Bool.false_ne_true

theorem taking_missing {u : Pcu} {c : Cue} (none_ : u.item c.item = none) : (u.taking c).item c.item = none := by
  rw [Pcu.taking_item, Pcu.applies_none none_, if_neg Bool.false_ne_true, none_]

/-- Two cues for one item leave it the same in either order. -/
theorem takings_commute {u : Pcu} {c d : Cue} (same : c.item = d.item)
    (apart : (c.number, c.origin) ≠ (d.number, d.origin)) (near : (c.number - d.number).toNat ≠ 2 ^ 31)
    (greater : ∀ x, u.item c.item = some x → pairGreater c.number c.origin x.number x.origin = true ∧
      pairGreater d.number d.origin x.number x.origin = true) :
    ((u.taking d).taking c).item c.item = ((u.taking c).taking d).item c.item := by
  cases item : u.item c.item with
  | none =>
    have missing : u.item d.item = none := same ▸ item
    have first : (u.taking d).item c.item = none := by rw [same]; exact taking_missing missing
    have second : (u.taking c).item d.item = none := by rw [← same]; exact taking_missing item
    rw [taking_missing first, same, taking_missing second]
  | some x =>
    obtain ⟨first, second⟩ := greater x item
    cases order : pairGreater c.number c.origin d.number d.origin
    case true =>
      obtain ⟨left, right⟩ := takings_item same item second first order
      rw [left, right]
    case false =>
      cases reverse : pairGreater d.number d.origin c.number c.origin
      case true =>
        obtain ⟨left, right⟩ := takings_item same.symm (same ▸ item) first second reverse
        rw [same, left, right]
      case false =>
        obtain ⟨number, origin⟩ | far := pairGreater_total order reverse
        · exact absurd (Prod.ext number origin) apart
        · exact absurd far near

/-! ### A CUE frame (R117) -/

theorem cueTaken_bad {o : Nat} {b : CueBody} {s : State} (bad : cueOfCode b.item b.code = none) :
    cueTaken o b s = { s with pcu := { s.pcu with
      counts := { s.pcu.counts with cueBad := up s.pcu.counts.cueBad } } } := by
  simp only [cueTaken, bad]
  rfl

theorem cueTaken_valid {o : Nat} {b : CueBody} {v : CueValue} {s : State} (valid : cueOfCode b.item b.code = some v) :
    let c : Cue := { item := b.item, value := v, number := b.number, origin := o }
    cueTaken o b s = applyCue c { s with pcu := { s.pcu with counts := { s.pcu.counts with
      cueApplied := upIf (s.pcu.applies c) s.pcu.counts.cueApplied
      cueStale := upIf (!s.pcu.applies c) s.pcu.counts.cueStale } } } := by
  intro c
  simp only [cueTaken, valid]
  show applyCue c { s with pcu := { s.pcu with counts := if s.pcu.applies c = true then
      { s.pcu.counts with cueApplied := up s.pcu.counts.cueApplied }
    else { s.pcu.counts with cueStale := up s.pcu.counts.cueStale } } } = _
  cases s.pcu.applies c
  case false => rfl
  case true => rfl

/-! ### A group set DARK (R103) -/

/-- The entries that stay as a group is set DARK. -/
theorem darkens_not (g : Nat) (c : Claim) : (!darkens g c) = match c with
    | .localTrack h => h != g
    | .learned _ h _ => h != g
    | .pin _ _ => true
    | .bar => true := by
  cases c
  case localTrack h => rfl
  case learned o h n => rfl
  case pin o h => rfl
  case bar => rfl

/-- The entries counted as flushed are those that go. -/
theorem flushWhere_counts (f : Claim → Bool) (r : Rst) : (flushWhere f r).counts = { r.counts with
    rosterFlushed := upBy r.counts.rosterFlushed (r.entries.length - (flushWhere f r).entries.length) } := by
  have parts := filter_length_add (fun e : RosterEntry => f e.claim) r.entries
  show { r.counts with
    rosterFlushed := upBy r.counts.rosterFlushed (r.entries.filter fun e : RosterEntry => f e.claim).length } = _
  have rest : (flushWhere f r).entries.length = (r.entries.filter fun e : RosterEntry => !f e.claim).length := rfl
  rw [rest, show r.entries.length - (r.entries.filter fun e : RosterEntry => !f e.claim).length =
    (r.entries.filter fun e : RosterEntry => f e.claim).length by omega]

/-- Settles O42: the order of pairs, the apply rule, the CUE frame, and a group set DARK. -/
theorem cuesApplied : Obligations.CuesApplied := by
  refine ⟨fun n m o p => ⟨?_, pairGreater_total, pairGreater_asymm⟩, fun s c items x cues item => ?_,
    fun s own frame => rfl, ⟨fun i group => ?_, rfl, fun i n other => ?_, fun i n => cueOfCode_large⟩,
    fun s o b v items x valid cues item => ?_, fun s c items x cues item => ?_, fun s o b => cueTaken_bad,
    fun s c d same apart near greater => ?_, fun s g group armed => ?_⟩
  case refine_1 =>
    rw [pairGreater_iff, newer_iff]
    exact or_congr_left (and_congr_right fun _ => by omega)
  case refine_2 =>
    rw [applyCue_pcu, Pcu.taking_eq cues item]
  case refine_3 =>
    simp only [List.map_cons, List.map_nil, cueOfCode, if_pos group]
    rfl
  case refine_4 =>
    rw [cueOfCode, if_neg (by omega), if_neg (by omega)]
  case refine_5 =>
    intro applied
    have applies := Pcu.applies_of (c := { item := b.item, value := v, number := b.number, origin := o })
      (Pcu.item_of cues item)
    rw [cueTaken_valid valid, applies]
  case refine_6 =>
    intro applied
    have applies : s.pcu.applies c = applied := Pcu.applies_of (Pcu.item_of cues item)
    refine ⟨fun greater armed group dark => ?_, fun quiet => ?_⟩
    · rw [applyCue_applied (applies.trans greater), dark]
      rw [rosterCue_dark armed group]
      rfl
    · cases greater : applied
      case false => rw [applyCue_stale (applies.trans greater)]
      case true =>
        have absent : s.armedOnward = false ∨ 16 ≤ c.item :=
          quiet.resolve_left fun off => Bool.false_ne_true (off.symm.trans greater)
        rw [applyCue_applied (applies.trans greater), rosterCue_absent absent]
  case refine_7 =>
    simp only [applyCue_pcu]
    exact takings_commute same apart near greater
  case refine_8 =>
    rw [rosterCue_dark armed group]
    exact ⟨List.filter_congr fun e _ => darkens_not g e.claim, flushWhere_counts _ _⟩

end Sys2Proof.Machine
end

section
/-! The BEACON timer and the loss timers of the peers (O40). -/

namespace Sys2Proof.Machine

/-! ### The fields of a BEACON (R119, Table 7-4) -/

theorem mem_placesFrom {α : Type} (xs : List (Option α)) : ∀ (start id : Nat) (v : α),
    (id, v) ∈ placesFrom start xs ↔ start ≤ id ∧ xs.getD (id - start) none = some v := by
  induction xs with
  | nil =>
    intro start id v
    simp [placesFrom]
  | cons x xs ih =>
    intro start id v
    have later : (id, v) ∈ placesFrom (start + 1) xs ↔ start < id ∧ (x :: xs).getD (id - start) none = some v := by
      rw [ih]
      refine and_congr_right fun after => ?_
      rw [show id - start = id - (start + 1) + 1 by omega, List.getD_cons_succ]
    have split_ : start ≤ id ∧ (x :: xs).getD (id - start) none = some v ↔
        (id = start ∧ x = some v) ∨ (start < id ∧ (x :: xs).getD (id - start) none = some v) := by
      constructor
      · rintro ⟨least, here⟩
        obtain rfl | after := Nat.eq_or_lt_of_le least
        · rw [Nat.sub_self, List.getD_cons_zero] at here
          exact .inl ⟨rfl, here⟩
        · exact .inr ⟨after, here⟩
      · rintro (⟨rfl, here⟩ | ⟨after, here⟩)
        · rw [Nat.sub_self, List.getD_cons_zero]
          exact ⟨Nat.le_refl _, here⟩
        · exact ⟨Nat.le_of_lt after, here⟩
    rw [split_, ← later]
    cases x with
    | none => simp [placesFrom]
    | some w => simp [placesFrom, eq_comm]

theorem mem_places {α : Type} (xs : List (Option α)) (id : Nat) (v : α) :
    (id, v) ∈ places xs ↔ atStation xs id = some v := by
  rw [places, mem_placesFrom]
  cases id with
  | zero => simp [atStation]
  | succ k => simp [atStation]

theorem placesFrom_ascending {α : Type} (xs : List (Option α)) : ∀ start : Nat,
    ((placesFrom start xs).map (·.1)).Pairwise (· < ·) := by
  induction xs with
  | nil => exact fun _ => List.Pairwise.nil
  | cons x xs ih =>
    intro start
    cases x with
    | none => exact ih (start + 1)
    | some v =>
      refine List.Pairwise.cons (fun id among => ?_) (ih (start + 1))
      obtain ⟨⟨i, w⟩, place, rfl⟩ := List.mem_map.1 among
      exact ((mem_placesFrom xs (start + 1) i w).1 place).1

theorem State.mem_keptList (s : State) (k : KeptEntry) : k ∈ s.keptList ↔
    ∃ e, atStation s.kou.take k.origin = some e ∧
      k = { origin := k.origin, incarnation := e.incarnation, kept := e.lastSent } := by
  rw [State.keptList, List.mem_map]
  constructor
  · rintro ⟨⟨id, e⟩, place, rfl⟩
    exact ⟨e, (mem_places _ _ _).1 place, rfl⟩
  · rintro ⟨e, place, entry⟩
    exact ⟨(k.origin, e), (mem_places _ _ _).2 place, entry.symm⟩

theorem State.keptList_ascending (s : State) : (s.keptList.map (·.origin)).Pairwise (· < ·) := by
  rw [State.keptList, List.map_map]
  exact placesFrom_ascending s.kou.take 1

theorem State.beaconItems_getElem? {s : State} {items : List CueItem} (cues : s.pcu.cues = some items)
    (full : items.length = 17) {i : Nat} {x : CueItem} (item : items[i]? = some x) :
    s.beaconItems[i]? = some { code := cueCode i x.value, origin := x.origin, number := x.number } := by
  obtain ⟨inside, -⟩ := List.getElem?_eq_some_iff.mp item
  have place : (List.range 17)[i]? = some i := List.getElem?_range (full ▸ inside)
  rw [State.beaconItems, List.getElem?_map, place, Option.map_some, Pcu.item_of cues item]

theorem Port.barsDupid_iff (x : Port) : x.barsDupid = true ↔ x.link = .barred ∧ x.cause.dupid = true := by
  rw [Port.barsDupid, Bool.and_eq_true, beq_iff_eq]

theorem State.refNotLocked_iff (s : State) :
    s.refNotLocked = true ↔ s.tlu.ref ≠ .locked ∨ s.tlu.voidRun = true := by
  simp [State.refNotLocked, State.refLocked]

/-- The first part of O40: the fields of a BEACON. -/
theorem beaconBody_fields {s : State} {c : Configuration} {items : List CueItem} (loaded : s.csu.config = some c)
    (cues : s.pcu.cues = some items) (full : items.length = 17) :
    let b := s.beaconBody
    (s.tlu.station = .armed → b.stateCode = 3) ∧ (s.tlu.station = .running → b.stateCode = 4) ∧
    (s.tlu.station = .ending → b.stateCode = 5) ∧ (s.tlu.station = .done → b.stateCode = 6) ∧
    b.airRole = c.airRole ∧ b.keepRole = c.keepRole ∧
    (s.tlu.station = .running ∨ s.tlu.station = .ending → b.base = s.tlu.epoch.map (·.base)) ∧
    (s.tlu.station = .armed ∨ s.tlu.station = .done → b.base = none) ∧
    (s.tlu.station ≠ .done → s.tlu.epoch.isSome = true → b.index = s.tlu.curIndex) ∧
    (s.tlu.station = .done ∨ s.tlu.epoch = none → b.index = none) ∧
    b.grade = s.sgc.grade ∧
    (b.cut = true ↔ c.airRole = true ∧ s.aou.cut.isSome = true) ∧
    (b.refFlag = true ↔ s.tlu.ref ≠ .locked ∨ s.tlu.voidRun = true) ∧
    (b.mutedPeer = true ↔ ∃ p, (s.port p).link = .barred ∧ (s.port p).cause.dupid = true) ∧
    b.items.length = 17 ∧
    (∀ (i : Nat) (x : CueItem), items[i]? = some x → b.items[i]? = some
        { code := cueCode i x.value, origin := x.origin, number := x.number }) := by
  intro b
  have air : s.airRole = c.airRole := by rw [State.airRole, loaded]; rfl
  have keep : s.keepRole = c.keepRole := by rw [State.keepRole, loaded]; rfl
  have code {st : StationState} (station : s.tlu.station = st) : b.stateCode = st.code :=
    congrArg StationState.code station
  refine ⟨code, code, code, code, air, keep, fun on => if_pos on, fun off => if_neg fun on => ?_,
    fun notDone held => if_neg ?_, fun none_ => if_pos none_, rfl, ?_, s.refNotLocked_iff, ?_, rfl,
    fun i x item => State.beaconItems_getElem? cues full item⟩
  · obtain off | off := off
    · rw [off] at on
      exact on.elim nofun nofun
    · rw [off] at on
      exact on.elim nofun nofun
  · rintro (isDone | none_)
    · exact notDone isDone
    · rw [none_] at held
      exact nomatch held
  · show (s.airRole && s.isCut) = true ↔ _
    rw [Bool.and_eq_true, air, State.isCut]
  · show ((s.port .a).barsDupid || (s.port .b).barsDupid) = true ↔ _
    rw [Bool.or_eq_true, Port.barsDupid_iff, Port.barsDupid_iff]
    constructor
    · rintro (here | here)
      · exact ⟨.a, here⟩
      · exact ⟨.b, here⟩
    · rintro ⟨p, here⟩
      cases p
      · exact .inl here
      · exact .inr here

/-! ### Lane 0 of a port (R61, R63) -/

/-- With a frame on lane 0 the arbiter sends that or a link-local frame. -/
theorem kick_lane0 {p : PortId} {s : State} {f : Bytes} {rest : List Bytes} (zero : (s.port p).queue0 = f :: rest) :
    kick p s = s.onPort p (Port.choose (helloBytes s p) s.staleFrame) := by
  unfold kick
  dsimp only
  split
  next busy => exact (State.onPort_id (show Port.choose _ _ _ = _ from if_pos busy)).symm
  next idle =>
    rw [zero]
    cases link : (s.port p).linkQueue with
    | nil => exact State.onPort_congr (by simp only [Port.choose, if_neg idle, link, zero])
    | cons x xs =>
      dsimp only
      rw [startLinkLocal_eq]
      exact State.onPort_congr (by simp only [Port.choose, if_neg idle, link])

/-- A frame offered to lane 0 of the other port leaves this one. -/
theorem offerFrame_lane0_other (p : PortId) (f : Bytes) (s : State) :
    (offerFrame (other p) 0 f s).port p = s.port p := by
  cases answer : (s.port (other p)).offer 0 with
  | notOpen => rw [offerFrame_notOpen f answer]
  | full =>
    rw [offerFrame_full f answer]
    exact State.onPort_apart p _ s
  | queued =>
    rw [offerFrame_queued f answer, afterJoin]
    have head : ∃ g rest, ((s.onPort (other p) fun x => x.join 0 f).port (other p)).queue0 = g :: rest := by
      rw [State.onPort_port]
      show ∃ g rest, (s.port (other p)).queue0 ++ [f] = g :: rest
      cases (s.port (other p)).queue0 with
      | nil => exact ⟨f, [], rfl⟩
      | cons g rest => exact ⟨g, rest ++ [f], rfl⟩
    obtain ⟨g, rest, zero⟩ := head
    rw [kick_lane0 zero, State.onPort_onPort]
    exact State.onPort_apart p _ s

/-- What an offer to lane 0 makes of its port, where the station says. -/
theorem offerFrame_lane0_port (p : PortId) (f : Bytes) (s : State) :
    ((s.port p).link ≠ .up → (offerFrame p 0 f s).port p = s.port p) ∧
    ((s.port p).link = .up → (s.port p).queue0.length < 32 → (s.port p).tx ≠ none →
      (offerFrame p 0 f s).port p = { s.port p with queue0 := (s.port p).queue0 ++ [f] }) ∧
    ((s.port p).link = .up → (s.port p).linkQueue = [] → (s.port p).queue0 = [] → (s.port p).tx = none →
      (offerFrame p 0 f s).port p = { s.port p with tx := some (.ring 0 f) }) := by
  refine ⟨fun notUp => ?_, fun up_ room busy => ?_, fun up_ link zero idle => ?_⟩
  · have shut : (s.port p).offer 0 = .notOpen :=
      ((s.port p).offer_iff 0).2.2.mpr fun open_ => notUp (beq_iff_eq.1 open_)
    rw [offerFrame_notOpen f shut]
  · rw [offerFrame_lane0_behind f up_ room busy, State.onPort_port]
  · rw [offerFrame_lane0_idle f up_ idle link zero, State.onPort_port]

/-- What the offers to lane 0 of both ports make of each. -/
theorem offers_lane0_port (f : Bytes) (s : State) (p : PortId) :
    let t := offerFrame .b 0 f (offerFrame .a 0 f s)
    ((s.port p).link ≠ .up → t.port p = s.port p) ∧
    ((s.port p).link = .up → (s.port p).queue0.length < 32 → (s.port p).tx ≠ none →
      t.port p = { s.port p with queue0 := (s.port p).queue0 ++ [f] }) ∧
    ((s.port p).link = .up → (s.port p).linkQueue = [] → (s.port p).queue0 = [] → (s.port p).tx = none →
      t.port p = { s.port p with tx := some (.ring 0 f) }) := by
  intro t
  cases p with
  | a =>
    have same : t.port .a = (offerFrame .a 0 f s).port .a := offerFrame_lane0_other .a f (offerFrame .a 0 f s)
    rw [same]
    exact offerFrame_lane0_port .a f s
  | b =>
    have same : (offerFrame .a 0 f s).port .b = s.port .b := offerFrame_lane0_other .b f s
    have offered := offerFrame_lane0_port .b f (offerFrame .a 0 f s)
    rw [same] at offered
    exact offered

/-- An offer to lane 0 is not queued: the port is not UP, or its queue is full. -/
theorem Port.offer_lane0_ne (x : Port) :
    (x.offer 0 != .queued) = (x.link != .up || decide (32 ≤ x.queue0.length)) := by
  rw [Bool.eq_iff_iff, bne_iff_ne, ne_eq, (x.offer_iff 0).1, Bool.or_eq_true, bne_iff_ne, decide_eq_true_iff,
    Classical.not_and_iff_not_or_not, Nat.not_lt]
  exact or_congr_left (not_congr beq_iff_eq)

/-! ### BEACON_TIMER (R118) -/

/-- A BEACON of the station's own is counted as delivered, and not taken (R120). -/
theorem deliver_ownBeacon (frame : Bytes) (s : State) :
    deliver .beacon true frame s = s.countDlu RingKind.beacon.countDelivered := rfl

theorem exec_beaconTimer (s : State) : exec .beaconTimer s = .next (beaconDue s) := rfl

/-- A BEACON that is sent, by what it changes. -/
theorem sendBeacon_eq {s : State} (speaks : s.dlu.muted = none) :
    let frame := ringBytes .beacon s.nextHeader (beaconBytes s.beaconBody)
    sendBeacon s = restartBeacon ((s.issuing .beacon frame).countDlu RingKind.beacon.countDelivered) := by
  intro frame
  rw [sendBeacon, originate_speaking speaks, deliver_ownBeacon]

/-! ### PEER_LOSS_TIMER (R105, R123, R124) -/

/-- The freeing of the spool reads nothing of the roster. -/
theorem recomputeFree_onRst (f : Rst → Rst) (s : State) :
    recomputeFree (s.onRst f) = (recomputeFree s).onRst f := by
  unfold recomputeFree
  rw [show (s.onRst f).freeTarget = s.freeTarget from rfl]
  cases s.freeTarget with
  | none => rfl
  | some t =>
    dsimp only
    rw [show (s.onRst f).ksp = s.ksp from rfl, show (s.onRst f).meetsGoBack = s.meetsGoBack from rfl]
    split
    · split <;> rfl
    · rfl

theorem recomputeFree_ksp (s : State) : recomputeFree s = { s with ksp := (recomputeFree s).ksp } := by
  unfold recomputeFree
  split
  · rfl
  · split
    · split <;> rfl
    · rfl

theorem exec_peerLossTimer (st : Nat) (s : State) :
    exec (.peerLossTimer st) s = .next (settle (peerTimerExpires st s)) := rfl

/-- Settles O40: the fields of a BEACON, the BEACON that is sent as its timer expires, and the loss of a peer. -/
theorem beaconAndPeerTimers : Obligations.BeaconAndPeerTimers := by
  refine ⟨fun s c items loaded cues full => ?_, fun s => ⟨fun stopped => ?_, fun d due => ?_, fun st absent => ?_,
    fun st peer present => ?_⟩⟩
  case refine_1 =>
    intro b
    have keep : s.keepRole = c.keepRole := by rw [State.keepRole, loaded]; rfl
    obtain ⟨armed, running, ending, done, air, role, on, off, index, noIndex, grade, cut, ref, muted, items, item⟩ :=
      beaconBody_fields loaded cues full
    have kept : b.kept = if s.keepRole = true then s.keptList else [] := rfl
    refine ⟨armed, running, ending, done, air, role, on, off, index, noIndex, grade, cut, ref, muted, items, item,
      fun i group => ?_, rfl, keep, rfl, fun without => ?_, fun with_ => ?_⟩
    · simp only [List.map_cons, List.map_nil, cueCode, if_neg (show i ≠ 16 by omega)]
      rfl
    · rw [kept, if_neg (by rw [keep, without]; exact Bool.false_ne_true)]
    · rw [kept, if_pos (keep.trans with_)]
      exact ⟨s.mem_keptList, s.keptList_ascending⟩
  case refine_2 => rw [exec_beaconTimer, beaconDue, stopped]
  case refine_3 =>
    intro restarted
    refine ⟨fun muted => ?_, fun speaks => ?_⟩
    · rw [exec_beaconTimer, beaconDue, due]
      exact congrArg Host.Outcome.next (if_pos muted)
    · let v := s.reach d
      have sends : beaconDue s = sendBeacon v := by
        rw [beaconDue, due]
        exact if_neg (by simp [State.muted, speaks])
      refine ⟨_, (exec_beaconTimer s).trans (congrArg Host.Outcome.next (sends.trans (sendBeacon_eq (s := v) speaks))),
        rfl, rfl, rfl, ?_⟩
      intro frame
      refine ⟨fun p => offers_lane0_port frame v p, ?_⟩
      rw [← Port.offer_lane0_ne, ← Port.offer_lane0_ne]
      rfl
  case refine_4 => rw [exec_peerLossTimer, peerTimerExpires, absent]
  case refine_5 =>
    intro lost u
    rw [exec_peerLossTimer, peerTimerExpires, present]
    refine congrArg (fun t => Host.Outcome.next (settle t)) ?_
    have reached : setPeer st none (s.reach peer.lossAt) = lost := rfl
    show losePeer st peer (s.reach peer.lossAt) = u
    rw [losePeer, reached, flushPeer, recomputeFree_onRst]
    cases role : peer.keepRole
    case false =>
      simp only [u, role]
      rfl
    case true =>
      simp only [u, role, if_true]
      rw [recomputeFree_ksp lost]
      rfl

end Sys2Proof.Machine
end

section
/-! A BEACON of another origin (O41). -/

namespace Sys2Proof.Machine

/-! ### When a BEACON is valid (R120) -/

theorem beaconState_iff (code : Nat) (st : StationState) : beaconState code = some st ↔
    (code = 3 ∧ st = .armed) ∨ (code = 4 ∧ st = .running) ∨ (code = 5 ∧ st = .ending) ∨ (code = 6 ∧ st = .done) := by
  have coded (n : Nat) (x : StationState) (state : beaconState n = some x) :
      beaconState code = some st ∧ code = n ↔ code = n ∧ st = x := by
    constructor
    · rintro ⟨here, rfl⟩
      exact ⟨rfl, Option.some.inj (here.symm.trans state)⟩
    · rintro ⟨rfl, rfl⟩
      exact ⟨state, rfl⟩
  have known (here : beaconState code = some st) : code = 3 ∨ code = 4 ∨ code = 5 ∨ code = 6 := by
    obtain small | large := Nat.lt_or_ge code 7
    · refine Classical.byContradiction fun other => ?_
      obtain rfl | rfl | rfl : code = 0 ∨ code = 1 ∨ code = 2 := by omega
      all_goals exact nomatch here
    · obtain ⟨k, rfl⟩ := Nat.exists_eq_add_of_le' large
      exact nomatch here
  rw [← coded 3 .armed rfl, ← coded 4 .running rfl, ← coded 5 .ending rfl, ← coded 6 .done rfl]
  constructor
  · intro here
    exact (known here).imp (.intro here) (.imp (.intro here) (.imp (.intro here) (.intro here)))
  · rintro (⟨here, -⟩ | ⟨here, -⟩ | ⟨here, -⟩ | ⟨here, -⟩) <;> exact here

theorem basePresence_iff (st : StationState) (base : Option Word) : basePresence st base = true ↔
    (base.isSome = true ↔ st = .running ∨ st = .ending) := by
  rw [basePresence, beq_iff_eq, Bool.eq_iff_iff, Bool.or_eq_true, beq_iff_eq, beq_iff_eq]

theorem itemValid_iff (i : Nat) (x : BeaconItem) : itemValid i x = true ↔
    (cueOfCode i x.code).isSome = true ∧ x.origin ≤ 16 ∧ (x.origin = 0 → x.number = 0) := by
  rw [itemValid, Bool.and_eq_true, Bool.and_eq_true, decide_eq_true_iff, Bool.or_eq_true, bne_iff_ne, beq_iff_eq,
    and_assoc, ← Decidable.imp_iff_not_or]

theorem itemsValid_iff (xs : List BeaconItem) : ∀ start : Nat, itemsValid start xs = true ↔
    ∀ (i : Nat) (x : BeaconItem), xs[i]? = some x → itemValid (start + i) x = true := by
  induction xs with
  | nil => exact fun _ => ⟨fun _ i x h => absurd h (by simp), fun _ => rfl⟩
  | cons y xs ih =>
    intro start
    rw [itemsValid, Bool.and_eq_true, ih]
    constructor
    · rintro ⟨first, rest⟩ i x here
      cases i with
      | zero => exact Option.some.inj here ▸ first
      | succ i =>
        rw [show start + (i + 1) = start + 1 + i by omega]
        exact rest i x here
    · intro all
      refine ⟨all 0 y rfl, fun i x here => ?_⟩
      rw [show start + 1 + i = start + (i + 1) by omega]
      exact all (i + 1) x here

theorem keptValid_iff (b : BeaconBody) : keptValid b = true ↔
    b.keptPresent = b.keepRole ∧ b.keptCount ≤ 16 ∧ (∀ e ∈ b.kept, 1 ≤ e.origin ∧ e.origin ≤ 16) ∧
    (b.keptPresent = false → b.keptCount = 0) := by
  simp only [keptValid, Bool.and_eq_true, beq_iff_eq, decide_eq_true_iff, List.all_eq_true, Bool.or_eq_true, and_assoc]
  refine and_congr_right fun _ => and_congr_right fun _ => and_congr_right fun _ => ?_
  rw [← Bool.not_eq_true, Decidable.imp_iff_not_or, Classical.not_not]

theorem BeaconBody.valid_iff (b : BeaconBody) (st : StationState) : b.valid = some st ↔
    beaconState b.stateCode = some st ∧ basePresence st b.base = true ∧ itemsValid 0 b.items = true ∧
    keptValid b = true := by
  rw [BeaconBody.valid]
  cases state : beaconState b.stateCode with
  | none => simp
  | some x =>
    dsimp only
    constructor
    · intro valid
      split at valid
      next holds =>
        obtain rfl := Option.some.inj valid
        rw [Bool.and_eq_true, Bool.and_eq_true] at holds
        exact ⟨rfl, holds.1.1, holds.1.2, holds.2⟩
      next => exact nomatch valid
    · rintro ⟨same, base, items, kept⟩
      obtain rfl := Option.some.inj same
      rw [base, items, kept]
      rfl

/-! ### The peer table (R122, Table 7-6) -/

section
variable {s : State} {st : Nat} {p e : Peer}

theorem peerTaken_new (absent : atStation s.pcu.peers st = none) : peerTaken st p s = newPeer st p s := by
  rw [peerTaken, absent]

theorem peerTaken_again (present : atStation s.pcu.peers st = some e) (same : p.incarnation = e.incarnation) :
    peerTaken st p s = setPeer st (some p) s := by
  rw [peerTaken, present]
  exact if_pos same

theorem peerTaken_renews (present : atStation s.pcu.peers st = some e)
    (new : newer p.incarnation e.incarnation = true) : peerTaken st p s = renewPeer st e.incarnation p s := by
  rw [peerTaken, present]
  exact (if_neg (newer_ne new)).trans (if_pos new)

theorem peerTaken_older (present : atStation s.pcu.peers st = some e) (other : p.incarnation ≠ e.incarnation)
    (old : newer p.incarnation e.incarnation = false) : peerTaken st p s = s := by
  rw [peerTaken, present]
  exact (if_neg other).trans (if_neg (Bool.not_eq_true _ ▸ old))

end

/-- A kept-position update is called for (R124). -/
theorem keptUpdate_eq (old : Option Peer) (p : Peer) : keptUpdate old p = match old with
    | none => p.keepRole
    | some q => (p.incarnation == q.incarnation && p.keepRole) ||
        (newer p.incarnation q.incarnation && (p.keepRole || q.keepRole)) := by
  cases old with
  | none => rfl
  | some q =>
    by_cases same : p.incarnation = q.incarnation
    · simp [keptUpdate, same, newer_self]
    · simp [keptUpdate, same]

/-! ### The epoch base (R12, R13, Table 1-7) -/

section
variable {s : State} {base inc : Word} {st : StationState} {id : Nat}

theorem beaconEpoch_free (armed : s.tlu.station = .armed) (fresh : s.tlu.epoch = none) :
    beaconEpoch base st id inc s =
      if st = .running ∧ s.tlu.droppedBase ≠ some base then adoptEpoch base id s else s := by
  rw [beaconEpoch, armed, fresh]

theorem beaconEpoch_held {e : Epoch} (held : s.tlu.epoch = some e)
    (station : s.tlu.station = .armed ∨ s.tlu.station = .running ∨ s.tlu.station = .ending) :
    beaconEpoch base st id inc s = beaconAgainst e base id inc s := by
  obtain h | h | h := station
  all_goals rw [beaconEpoch, h, held]

theorem beaconEpoch_idle (station : s.tlu.station = .unconfigured ∨ s.tlu.station = .configured ∨
    s.tlu.station = .done) : beaconEpoch base st id inc s = s := by
  obtain h | h | h := station
  all_goals simp only [beaconEpoch, h]

/-- A base that differs is a conflict, unless its pair is in the record; a newer incarnation is recorded. -/
theorem beaconConflict_known {c : ConflictPair} (pair : (s.tlu.conflicts.find? fun p => p.station == id) = some c)
    (known : c.incarnation = inc) : beaconConflict base id inc s = s := by
  rw [beaconConflict, pair]
  exact if_pos known

theorem beaconConflict_older {c : ConflictPair} (pair : (s.tlu.conflicts.find? fun p => p.station == id) = some c)
    (other : c.incarnation ≠ inc) (old : newer inc c.incarnation = false) :
    beaconConflict base id inc s = epochConflict base id s := by
  rw [beaconConflict, pair]
  exact (if_neg other).trans (if_neg (Bool.not_eq_true _ ▸ old))

theorem beaconConflict_records
    (new : ∀ c, (s.tlu.conflicts.find? fun p => p.station == id) = some c → newer inc c.incarnation = true) :
    beaconConflict base id inc s = epochConflict base id
      (s.onTlu fun t => { t with conflicts := recordConflict id inc t.conflicts }) := by
  rw [beaconConflict]
  cases pair : s.tlu.conflicts.find? fun p => p.station == id with
  | none => rfl
  | some c =>
    have newer_ := new c pair
    exact (if_neg (newer_ne newer_).symm).trans (if_pos newer_)

end

theorem mem_recordConflict (id : Nat) (inc : Word) (ps : List ConflictPair) (c : ConflictPair) :
    c ∈ recordConflict id inc ps ↔ c = { station := id, incarnation := inc } ∨ (c ∈ ps ∧ c.station ≠ id) := by
  rw [recordConflict, List.mem_cons, List.mem_filter, bne_iff_ne]

/-- A base that differs from the one held, and is not known: a conflict, counted, raised and presented to the cut,
and recorded unless its incarnation is older (log 27). -/
theorem beaconConflict_spec {s : State} {base inc : Word} {id : Nat}
    (unknown : (s.tlu.conflicts.find? fun c => c.station == id).map (·.incarnation) ≠ some inc) :
    let t := beaconConflict base id inc s
    let pair := s.tlu.conflicts.find? fun c => c.station == id
    t.tlu = { s.tlu with
      conflicts := t.tlu.conflicts
      counts := { s.tlu.counts with epochConflict := up s.tlu.counts.epochConflict } } ∧
    (∀ c, c.station ≠ id → (c ∈ t.tlu.conflicts ↔ c ∈ s.tlu.conflicts)) ∧
    ((∀ c, pair = some c → newer inc c.incarnation = true) →
      ∀ c ∈ t.tlu.conflicts, c.station = id → c.incarnation = inc) ∧
    ((∀ c, pair = some c → newer inc c.incarnation = true) →
      { station := id, incarnation := inc } ∈ t.tlu.conflicts) ∧
    ((∃ c, pair = some c ∧ newer inc c.incarnation = false) → t.tlu.conflicts = s.tlu.conflicts) ∧
    State.Raised .epoch (.epochConflict base id) s t ∧
    State.Triggered (·.cutEpoch) (.epoch base id) s t := by
  intro t pair
  by_cases new : ∀ c, pair = some c → newer inc c.incarnation = true
  · let v := s.onTlu fun t => { t with conflicts := recordConflict id inc t.conflicts }
    have records : t = epochConflict base id v := beaconConflict_records new
    have tlu := epochConflict_tlu base id v
    obtain ⟨raised, triggered⟩ := epochConflict_raises base id v
    rw [records, tlu]
    refine ⟨rfl, fun c other => ?_, fun _ c among station => ?_, fun _ => ?_, ?_, raised, triggered⟩
    · refine (mem_recordConflict id inc s.tlu.conflicts c).trans ⟨?_, fun among => .inr ⟨among, other⟩⟩
      rintro (rfl | ⟨among, -⟩)
      · exact absurd rfl other
      · exact among
    · obtain rfl | ⟨-, other⟩ := (mem_recordConflict id inc s.tlu.conflicts c).1 among
      · rfl
      · exact absurd station other
    · exact (mem_recordConflict id inc s.tlu.conflicts _).2 (.inl rfl)
    · rintro ⟨c, here, old⟩
      exact absurd ((new c here).symm.trans old) (by decide)
  · obtain ⟨c, here, notNewer⟩ : ∃ c, s.tlu.conflicts.find? (fun c => c.station == id) = some c ∧
        ¬ newer inc c.incarnation = true :=
      Classical.byContradiction fun none_ => new fun c here => Classical.byContradiction fun old =>
        none_ ⟨c, here, old⟩
    have old : newer inc c.incarnation = false := Bool.not_eq_true _ ▸ notNewer
    have other : c.incarnation ≠ inc := fun same => unknown (by
      rw [show (s.tlu.conflicts.find? fun c => c.station == id) = some c from here, Option.map_some, same])
    have older : t = epochConflict base id s := beaconConflict_older here other old
    have tlu := epochConflict_tlu base id s
    obtain ⟨raised, triggered⟩ := epochConflict_raises base id s
    rw [older, tlu]
    refine ⟨rfl, fun _ _ => Iff.rfl, fun newer_ => ?_, fun newer_ => ?_, fun _ => rfl, raised, triggered⟩
    · exact absurd ((newer_ c here).symm.trans old) (by decide)
    · exact absurd ((newer_ c here).symm.trans old) (by decide)

end Sys2Proof.Machine

namespace Sys2Proof

open Machine

/-- Settles O41: the steps of R120, what makes a BEACON valid, the peer table, the merge, and the epoch base. -/
theorem beaconTaken : Obligations.BeaconTaken := by
  refine ⟨fun s frame => ⟨rfl, rfl⟩, fun s h b => ⟨fun bad => ?_, fun st valid => ?_⟩, fun b st => ?_,
    fun s st p => ?_, fun s i x rest v coded => ?_, fun s base inc st id => ?_⟩
  case refine_1 =>
    rw [Machine.beaconTaken, bad]
    rfl
  case refine_2 =>
    intro p place merged judged told u
    have due : keptUpdate place p = told := keptUpdate_eq place p
    rw [Machine.beaconTaken, valid]
    show (if keptUpdate place p = true then recomputeFree judged else judged).onPcu _ = _
    rw [due]
    rfl
  case refine_3 =>
    rw [BeaconBody.valid_iff, beaconState_iff, basePresence_iff, itemsValid_iff, keptValid_iff]
    simp only [Nat.zero_add, itemValid_iff]
  case refine_4 =>
    intro filled
    refine ⟨fun absent => ?_, fun e present => ⟨fun same => ?_, fun new => ?_, fun other old => ?_⟩⟩
    · rw [peerTaken_new absent]
      rfl
    · rw [peerTaken_again present same]
      rfl
    · rw [peerTaken_renews present new]
      rfl
    · exact peerTaken_older present other old
  case refine_5 =>
    intro c
    refine ⟨rfl, ?_⟩
    rw [mergeItems, coded]
    rfl
  case refine_6 =>
    intro t
    refine ⟨fun armed fresh => ?_, fun e held station => ?_, beaconEpoch_idle⟩
    · have adopts := beaconEpoch_free (base := base) (inc := inc) (st := st) (id := id) armed fresh
      refine ⟨fun runs other => adopts.trans (if_pos ⟨runs, other⟩), fun stays => adopts.trans (if_neg ?_)⟩
      rintro ⟨runs, other⟩
      exact stays.elim (fun h => h runs) other
    · intro pair
      have against : t = beaconAgainst e base id inc s := beaconEpoch_held held station
      refine ⟨fun same => against.trans (if_pos same), fun differs known => ?_, fun differs unknown => ?_⟩
      · obtain ⟨c, here, inc_⟩ := Option.map_eq_some_iff.1 known
        exact against.trans ((if_neg differs).trans (beaconConflict_known here inc_))
      · rw [show t = beaconConflict base id inc s from against.trans (if_neg differs)]
        exact beaconConflict_spec unknown

end Sys2Proof
end

section
/-! Arrivals at the Air Outlet, and the resolution of a slot that is emitted (O46). -/

namespace Sys2Proof.Machine

/-! ### The look for an emission and for a start (R134, R138) -/

theorem feedSettle_waits {s : State} (open_ : headOpen s.aou.window) : feedSettle s = { s with aou := { s.aou with
    feed := if s.aou.driven && s.aou.ready then startRecord s.aou.feed else s.aou.feed } } := by
  rw [feedSettle, drainWindow_waits open_, startFeed_eq]
  rfl

/-- With one CLOSED slot before the first OPEN one, and room in the line buffers, that slot is emitted. -/
theorem feedSettle_emitsOne {s : State} {x : Slot} {cause : CloseCause} {rest : List Slot}
    (window : s.aou.window = x :: rest) (closed : x.state = .closed cause) (clear : s.aou.cut = none)
    (free : s.aou.feed.length < 2) (open_ : headOpen rest) :
    feedSettle s = startFeed (emitSlot x cause rest s) := by
  have sounds : s.cutSilent = false := by
    rw [State.cutSilent, State.isCut, clear]
    rfl
  rw [feedSettle, window, List.length_cons, drainWindow_emits window closed sounds free, drainWindow_waits]
  exact open_

/-- The record of a slot that is emitted while CLEAR. -/
theorem slotRecord_clear {s : State} (clear : s.aou.cut = none) (x : Slot) (cause : CloseCause) :
    let r := resolveAll s.concealLimit x.expected s.aou.conceal
    s.resolveSlot x = r ∧ s.slotRecord x cause = {
      station := s.ownId, incarnation := s.tlu.incarnation.getD 0, index := x.index, cut := false
      cause := cause, expected := x.expected.length, arrived := x.arrived, entries := r.1 } := by
  intro r
  have uncut : s.isCut = false := by rw [State.isCut, clear]; rfl
  have resolved : s.resolveSlot x = r := if_neg (by rw [uncut]; exact Bool.false_ne_true)
  refine ⟨resolved, ?_⟩
  rw [State.slotRecord, resolved, uncut]

/-- What one emission leaves in the window, the conceal store and the line buffers. -/
theorem feedSettle_emitsOne_spec {s : State} {x : Slot} {cause : CloseCause} {rest : List Slot}
    (window : s.aou.window = x :: rest) (closed : x.state = .closed cause) (clear : s.aou.cut = none)
    (free : s.aou.feed.length < 2) (open_ : headOpen rest) :
    let r := resolveAll s.concealLimit x.expected s.aou.conceal
    let t := feedSettle s
    t.aou.window = rest ∧ t.aou.conceal = r.2 ∧ t.aou.counts.slotEmitted = up s.aou.counts.slotEmitted ∧
    t.aou.feed.map LineBuffer.record = s.aou.feed.map LineBuffer.record ++ [{
      station := s.ownId, incarnation := s.tlu.incarnation.getD 0, index := x.index, cut := false
      cause := cause, expected := x.expected.length, arrived := x.arrived, entries := r.1 }] := by
  intro r t
  obtain ⟨resolved, record⟩ := slotRecord_clear clear x cause
  have runs : t = startFeed (emitSlot x cause rest s) := feedSettle_emitsOne window closed clear free open_
  have records := startFeed_records (emitSlot x cause rest s)
  rw [← runs] at records
  refine ⟨?_, ?_, ?_, records.trans ?_⟩
  · rw [runs, startFeed_eq]
    rfl
  · rw [runs, startFeed_eq]
    exact congrArg Prod.snd resolved
  · rw [runs, startFeed_eq]
    rfl
  · rw [← record]
    exact placeRecord_records _ _

/-! ### The class of an arrival (R131, Table 8-3) -/

section
variable {u : Aou} {a : Arrival} {m : Index}

theorem classify_ahead (ahead : ∀ m, u.openMark = some m → m.toInt < a.index.toInt) : u.classify a = .ahead := by
  rw [Aou.classify]
  cases mark : u.openMark with
  | none => rfl
  | some m => exact if_pos (decide_eq_true (ahead m mark))

variable (mark : u.openMark = some m) (within : a.index.toInt ≤ m.toInt)
include mark within

theorem classify_within : u.classify a = match u.slotOf a.index with
    | none => .late
    | some t =>
      if !t.isOpen then .late
      else match t.expected.find? fun e => e.track == a.track with
        | none => .unexpected
        | some e =>
          if e.origin ≠ a.origin then .stray
          else if e.arrived.isSome then .duplicate
          else .stored := by
  rw [Aou.classify, mark]
  exact if_neg (by rw [indexLt, decide_eq_true_iff]; omega)

theorem classify_gone (gone : u.slotOf a.index = none) : u.classify a = .late := by
  rw [classify_within mark within, gone]

variable {t : Slot} (slot : u.slotOf a.index = some t)
include slot

theorem classify_closed {k : CloseCause} (closed : t.state = .closed k) : u.classify a = .late := by
  rw [classify_within mark within, slot]
  exact if_pos (by rw [Slot.isOpen_of_closed closed]; rfl)

theorem classify_open {d : Time} (opened : t.state = .opened d) :
    u.classify a = match t.expected.find? fun e => e.track == a.track with
      | none => .unexpected
      | some e =>
        if e.origin ≠ a.origin then .stray
        else if e.arrived.isSome then .duplicate
        else .stored := by
  rw [classify_within mark within, slot]
  exact if_neg (by rw [Slot.isOpen_of_opened opened]; exact Bool.false_ne_true)

end

/-! ### An arrival (R131, R132) -/

theorem takeArrival_notStored {s : State} {a : Arrival} (notStored : s.aou.classify a ≠ .stored) :
    takeArrival a s = { s with aou := { s.aou with counts := (s.aou.classify a).count s.aou.counts } } :=
  if_neg notStored

/-- The state with an arrival stored, before the Air Outlet looks for an emission. -/
theorem takeArrival_stored {s : State} {a : Arrival} (stored : s.aou.classify a = .stored) :
    let w := s.aou.window.map fun t => if t.index = a.index then t.store a else t
    let closes := w.any fun t => t.index == a.index && !t.isOpen
    takeArrival a s = feedSettle { s with aou := { s.aou with
      window := w
      counts := { s.aou.counts with
        arrStored := up s.aou.counts.arrStored
        slotComplete := upIf closes s.aou.counts.slotComplete } } } := by
  intro w closes
  rw [takeArrival, stored]
  rfl

theorem Slot.store_expected (a : Arrival) (t : Slot) : (t.store a).expected = t.expected.map fun e =>
    if e.track = a.track then { e with arrived := some a.load } else e := by
  unfold Slot.store
  dsimp only
  split <;> rfl

theorem Slot.arrived_full_iff (t : Slot) :
    t.arrived = t.expected.length ↔ ∀ e ∈ t.expected, e.arrived.isSome = true :=
  List.length_filter_eq_length_iff

theorem Slot.store_complete_iff {a : Arrival} {t : Slot} {d : Time} (opened : t.state = .opened d) :
    (t.store a).state = .closed .complete ↔ ∀ e ∈ (t.store a).expected, e.arrived.isSome = true := by
  let filled : Slot := { t with
    expected := t.expected.map fun e => if e.track = a.track then { e with arrived := some a.load } else e }
  have stores : t.store a =
      if filled.arrived = filled.expected.length then { filled with state := .closed .complete } else filled := rfl
  rw [Slot.store_expected, show (t.expected.map fun e =>
    if e.track = a.track then { e with arrived := some a.load } else e) = filled.expected from rfl,
    ← filled.arrived_full_iff, stores]
  by_cases full : filled.arrived = filled.expected.length
  · rw [if_pos full]
    exact ⟨fun _ => full, fun _ => rfl⟩
  · rw [if_neg full]
    have state : filled.state = .opened d := opened
    rw [state]
    exact ⟨nofun, fun h => absurd h full⟩

/-! ### The resolution of a slot (R135, R136, Table 8-4) -/

theorem resolveTrack_rows (limit : Nat) (e : Expected) (c : ConcealPlace) :
    let miss := min 255 (c.missRun + 1)
    (∀ a, e.arrived = some a → resolveTrack limit e c =
      ({ track := e.track, origin := e.origin, kind := .arrived, grade := a.grade, damage := a.damage
         payload := a.payload }, { last := some a, missRun := 0 })) ∧
    (∀ a, e.arrived = none → c.last = some a → miss ≤ limit → resolveTrack limit e c =
      ({ track := e.track, origin := e.origin, kind := .repeated, grade := a.grade, damage := a.damage
         payload := a.payload }, { last := some a, missRun := miss })) ∧
    (e.arrived = none → c.last = none ∨ limit < miss → resolveTrack limit e c =
      ({ track := e.track, origin := e.origin, kind := .silent, grade := 0, damage := false
         payload := [] }, { last := c.last, missRun := miss })) := by
  intro miss
  refine ⟨fun a arrived => ?_, fun a missing last within => ?_, fun missing silent => ?_⟩
  · simp only [resolveTrack, arrived]
    rfl
  · simp only [resolveTrack, missing, last]
    refine (if_pos within).trans ?_
    rw [ConcealPlace.missed, last]
    rfl
  · cases last : c.last with
    | none =>
      simp only [resolveTrack, missing, last, ConcealPlace.missed]
      rfl
    | some a =>
      have beyond : ¬ c.missed.missRun ≤ limit := by
        obtain none_ | above := silent
        · exact nomatch last.symm.trans none_
        · exact Nat.not_le.mpr above
      simp only [resolveTrack, missing, last, if_neg beyond]
      rw [ConcealPlace.missed, last]
      rfl

/-- The expected tracks of a slot, each against its own place of the conceal store. -/
theorem resolveAll_spec (limit : Nat) (es : List Expected) : ∀ store : List ConcealPlace, store.length = 512 →
    (es.map fun e => e.track).Nodup → (∀ e ∈ es, e.track < 512) →
    let one := fun e : Expected => resolveTrack limit e (store.getD e.track {})
    let r := resolveAll limit es store
    r.1 = es.map (fun e => (one e).1) ∧ r.2.length = 512 ∧
    ∀ k, k < 512 → r.2.getD k {} = match es.find? fun e => e.track == k with
      | some e => (one e).2
      | none => store.getD k {} := by
  induction es with
  | nil => exact fun store full _ _ => ⟨rfl, full, fun _ _ => rfl⟩
  | cons e es ih =>
    intro store full distinct inside one r
    obtain ⟨fresh, distinct⟩ := List.nodup_cons.1 distinct
    have here : e.track < store.length := full ▸ inside e List.mem_cons_self
    let later := store.set e.track (one e).2
    have same : later.getD e.track {} = (one e).2 := by
      rw [List.getD_eq_getElem?_getD, List.getElem?_set_self here]
      rfl
    have other (k : Nat) (apart : e.track ≠ k) : later.getD k {} = store.getD k {} := by
      rw [List.getD_eq_getElem?_getD, List.getElem?_set_ne apart, ← List.getD_eq_getElem?_getD]
    obtain ⟨entries, length, places⟩ := ih later ((List.length_set).trans full) distinct
      fun x among => inside x (List.mem_cons_of_mem _ among)
    have apart (x : Expected) (among : x ∈ es) : e.track ≠ x.track := fun same =>
      fresh (List.mem_map.mpr ⟨x, among, same.symm⟩)
    refine ⟨?_, length, fun k small => (places k small).trans ?_⟩
    · show (one e).1 :: (resolveAll limit es later).1 = _
      rw [entries, List.map_cons]
      refine congrArg _ (List.map_congr_left fun x among => ?_)
      dsimp only
      rw [other _ (apart x among)]
    · by_cases mine : e.track = k
      · have gone : (es.find? fun x => x.track == k) = none := by
          rw [List.find?_eq_none]
          intro x among found
          exact apart x among (mine.trans (beq_iff_eq.1 found).symm)
        rw [gone, List.find?_cons_of_pos (by simp [mine])]
        dsimp only
        rw [← mine, same]
      · rw [List.find?_cons_of_neg (by simp [mine])]
        cases found : es.find? fun x => x.track == k with
        | none => exact other k mine
        | some x =>
          dsimp only
          rw [other _ (apart x (List.mem_of_find?_eq_some found))]

/-- Settles O46: the class of an arrival row by row, what an arrival stores and brings to emission, and the
resolution of a slot track by track. -/
theorem arrivalsAndResolution : Obligations.ArrivalsAndResolution := by
  refine ⟨fun u a => ⟨classify_ahead, fun m mark within => ⟨classify_gone mark within, fun t slot =>
    ⟨fun ⟨k, closed⟩ => classify_closed mark within slot closed, fun ⟨d, opened⟩ => ?_⟩⟩⟩,
    fun s a => takeArrival_notStored, fun s a isStored => ?_, fun a t e among track => ?_,
    fun a t ⟨d, opened⟩ => Slot.store_complete_iff opened, resolveTrack_rows, resolveAll_spec⟩
  case refine_1 =>
    have judged := classify_open mark within slot opened
    refine ⟨fun unexpected => ?_, fun e found => ⟨fun stray => ?_, fun own again => ?_, fun own missing => ?_⟩⟩
    · have gone : (t.expected.find? fun e => e.track == a.track) = none := by
        rw [List.find?_eq_none]
        intro e among same
        exact unexpected e among (beq_iff_eq.1 same)
      rw [judged, gone]
    · rw [judged, found]
      exact if_pos stray
    · rw [judged, found]
      exact (if_neg (Classical.not_not.mpr own)).trans (if_pos again)
    · rw [judged, found]
      exact (if_neg (Classical.not_not.mpr own)).trans (if_neg (by rw [missing]; exact Bool.false_ne_true))
  case refine_2 =>
    intro w closes stored
    have takes : takeArrival a s = feedSettle stored := takeArrival_stored isStored
    refine ⟨takes, fun open_ => ?_, fun x cause rest window closed clear free open_ => ?_⟩
    · rw [takes, feedSettle_waits (s := stored) open_]
    · rw [takes]
      exact feedSettle_emitsOne_spec (s := stored) window closed clear free open_
  case refine_3 =>
    rw [Slot.store_expected] at among
    obtain ⟨x, -, rfl⟩ := List.mem_map.1 among
    by_cases here : x.track = a.track
    · rw [if_pos here]
    · rw [if_neg here] at track
      exact absurd track here

end Sys2Proof.Machine
end

section
/-! The slot of a boundary (O47). -/

namespace Sys2Proof.Machine

/-! ### The expected set (R107) -/

/-- The place of a roster entry in the expected set, where its group is ON. -/
def State.expects (s : State) (r : RosterEntry) : Option Expected :=
  match r.claim.group, r.claim.origin s.ownId with
  | some g, some o => if s.cueValue g = .on then some { track := r.track, origin := o } else none
  | _, _ => none

theorem State.expectedSet_eq (s : State) : s.expectedSet = s.rst.entries.filterMap s.expects := rfl

theorem State.expects_iff (s : State) (r : RosterEntry) (x : Expected) : s.expects r = some x ↔
    x.arrived = none ∧ ∃ g, r.track = x.track ∧ r.claim.group = some g ∧ s.cueValue g = .on ∧
      r.claim.origin s.ownId = some x.origin := by
  unfold State.expects
  cases group : r.claim.group with
  | none => simp
  | some g =>
    cases origin : r.claim.origin s.ownId with
    | none => simp
    | some o =>
      dsimp only
      constructor
      · intro expected
        split at expected
        next on =>
          obtain rfl := Option.some.inj expected
          exact ⟨rfl, g, rfl, rfl, on, rfl⟩
        next => exact nomatch expected
      · rintro ⟨missing, g', track, same, on, from_⟩
        obtain rfl := Option.some.inj same
        obtain rfl := Option.some.inj from_
        obtain ⟨xt, xo, xa⟩ := x
        dsimp only at missing track on ⊢
        rw [if_pos on, track, missing]

theorem State.mem_expectedSet (s : State) (x : Expected) : x ∈ s.expectedSet ↔ x.arrived = none ∧
    ∃ r ∈ s.rst.entries, ∃ g, r.track = x.track ∧ r.claim.group = some g ∧ s.cueValue g = .on ∧
      r.claim.origin s.ownId = some x.origin := by
  rw [State.expectedSet_eq, List.mem_filterMap]
  constructor
  · rintro ⟨r, among, expected⟩
    obtain ⟨missing, rest⟩ := (s.expects_iff r x).1 expected
    exact ⟨missing, r, among, rest⟩
  · rintro ⟨missing, r, among, rest⟩
    exact ⟨r, among, (s.expects_iff r x).2 ⟨missing, rest⟩⟩

theorem State.expectedSet_tracks (s : State) :
    (s.expectedSet.map fun x => x.track).Sublist (s.rst.entries.map fun r => r.track) := by
  rw [State.expectedSet_eq]
  induction s.rst.entries with
  | nil => exact List.Sublist.slnil
  | cons r rs ih =>
    cases expected : s.expects r with
    | none =>
      rw [List.filterMap_cons_none expected]
      exact ih.cons _
    | some x =>
      obtain ⟨-, g, track, -⟩ := (s.expects_iff r x).1 expected
      rw [List.filterMap_cons_some expected, List.map_cons, List.map_cons, track]
      exact ih.cons_cons _

/-! ### What the outlet loses of its window as it emits (R134, R143) -/

/-- The outlet only loses slots at the head of the window: the open mark and the two counters of slots that open
stay. -/
structure Aou.Loses (u v : Aou) : Prop where
  mark : v.openMark = u.openMark
  opened : v.counts.slotOpened = u.counts.slotOpened
  refused : v.counts.slotRefused = u.counts.slotRefused
  window : v.window <:+ u.window

theorem Aou.Loses.refl (u : Aou) : u.Loses u := ⟨rfl, rfl, rfl, List.suffix_refl _⟩

theorem Aou.Loses.trans {u v w : Aou} (h : u.Loses v) (k : v.Loses w) : u.Loses w :=
  ⟨k.mark.trans h.mark, k.opened.trans h.opened, k.refused.trans h.refused, k.window.trans h.window⟩

theorem drainWindow_loses (n : Nat) (s : State) : s.aou.Loses (drainWindow n s).aou := by
  induction n generalizing s with
  | zero => exact .refl _
  | succ n ih =>
    unfold drainWindow
    split
    · exact .refl _
    next t rest window =>
      have oldest (u : State) (m : u.aou.openMark = s.aou.openMark)
          (o : u.aou.counts.slotOpened = s.aou.counts.slotOpened)
          (r : u.aou.counts.slotRefused = s.aou.counts.slotRefused) (w : u.aou.window = rest) :
          s.aou.Loses (drainWindow n u).aou := by
        refine .trans ⟨m, o, r, ?_⟩ (ih u)
        rw [w, window]
        exact List.suffix_cons _ _
      split
      · exact .refl _
      next cause _ =>
        split
        · exact oldest (removeSlot rest s) rfl rfl rfl rfl
        · split
          · exact oldest (emitSlot t cause rest s) rfl rfl rfl rfl
          · exact .refl _

theorem feedSettle_loses (s : State) : s.aou.Loses (feedSettle s).aou := by
  rw [feedSettle, startFeed_eq]
  have drained := drainWindow_loses s.aou.window.length s
  exact ⟨drained.mark, drained.opened, drained.refused, drained.window⟩

/-- An OPEN slot at the end of the window stays there. -/
theorem drainWindow_keepsLast {x : Slot} {d : Time} (opened : x.state = .opened d) (n : Nat) : ∀ (s : State)
    (w : List Slot), s.aou.window = w ++ [x] → ∃ v, v <:+ w ∧ (drainWindow n s).aou.window = v ++ [x] := by
  induction n with
  | zero => exact fun s w window => ⟨w, List.suffix_refl w, window⟩
  | succ n ih =>
    intro s w window
    cases w with
    | nil =>
      refine ⟨[], List.suffix_refl _, ?_⟩
      rw [drainWindow_waits]
      · exact window
      · rw [window]
        rintro y ys same
        obtain ⟨rfl, -⟩ := List.cons.inj same
        exact ⟨d, opened⟩
    | cons y ys =>
      have after (u : State) (rest : u.aou.window = ys ++ [x]) :
          ∃ v, v <:+ y :: ys ∧ (drainWindow n u).aou.window = v ++ [x] := by
        obtain ⟨v, shorter, final⟩ := ih u ys rest
        exact ⟨v, shorter.trans (List.suffix_cons y ys), final⟩
      rw [List.cons_append] at window
      unfold drainWindow
      rw [window]
      dsimp only
      split
      · exact ⟨y :: ys, List.suffix_refl _, window⟩
      next cause _ =>
        split
        · exact after (removeSlot (ys ++ [x]) s) rfl
        · split
          · exact after (emitSlot y cause (ys ++ [x]) s) rfl
          · exact ⟨y :: ys, List.suffix_refl _, window⟩

theorem feedSettle_keepsLast {s : State} {x : Slot} {d : Time} {w : List Slot} (opened : x.state = .opened d)
    (window : s.aou.window = w ++ [x]) : ∃ v, v <:+ w ∧ (feedSettle s).aou.window = v ++ [x] := by
  rw [feedSettle, startFeed_eq]
  exact drainWindow_keepsLast opened _ s w window

/-- With both line buffers taken, while CLEAR, nothing is emitted. -/
theorem feedSettle_full {s : State} (clear : s.aou.cut = none) (full : 2 ≤ s.aou.feed.length) :
    feedSettle s = { s with aou := { s.aou with
      feed := if s.aou.driven && s.aou.ready then startRecord s.aou.feed else s.aou.feed } } := by
  have sounds : s.cutSilent = false := by
    rw [State.cutSilent, State.isCut, clear]
    rfl
  rw [feedSettle, drainWindow_full sounds full, startFeed_eq]
  rfl

theorem driveOnRunning_loses (s : State) : s.aou.Loses (driveOnRunning s).aou := by
  let driven := s.onAou fun u => { u with
    hasRun := true
    driven := u.driven || (!u.hasRun && s.airRole && !(s.isCut && decide (s.cutMode = .float))) }
  have started : s.aou.Loses driven.aou := ⟨rfl, rfl, rfl, List.suffix_refl _⟩
  exact started.trans (feedSettle_loses driven)

theorem driverAt_loses (e : Bool) (s : State) : s.aou.Loses (driverAt e s).aou := by
  unfold driverAt
  split
  · exact driveOnRunning_loses s
  · exact .refl _

/-- The driver as the station enters RUNNING, where the head of the window is OPEN. -/
theorem driverAt_headOpen {s : State} (open_ : headOpen s.aou.window) (e : Bool) :
    (driverAt e s).aou.window = s.aou.window := by
  unfold driverAt
  split
  · rw [driveOnRunning, feedSettle_waits]
    · rfl
    · exact open_
  · rfl

/-- The driver as the station enters RUNNING, with both line buffers taken, while CLEAR. -/
theorem driverAt_full {s : State} (clear : s.aou.cut = none) (full : 2 ≤ s.aou.feed.length) (e : Bool) :
    ∃ run driven feed, (driverAt e s).aou = { s.aou with hasRun := run, driven := driven, feed := feed } ∧
      2 ≤ feed.length := by
  unfold driverAt
  split
  · rw [driveOnRunning, feedSettle_full]
    · refine ⟨_, _, _, rfl, ?_⟩
      split
      · rw [startRecord_length]
        exact full
      · exact full
    · exact clear
    · exact full
  · exact ⟨_, _, _, rfl, full⟩

/-! ### The outlet at a boundary (R107, R129) -/

/-- The state at a boundary once the roster has aged, before the Air Outlet's part. -/
def beforeOutlet (count : Word) (s : State) : State :=
  ageAt (s.tlu.presents count) (openPeriod (s.tlu.presents count)
    (closePeriod (s.tlu.presents count) (graded count s)))

theorem takeBoundary_outlet {s : State} (idle : s.sgc.batch = none) (count : Word) : takeBoundary count s =
    feedSettle (slotAt (s.tlu.presents count) s.expectedSet
      (driverAt (s.tlu.entersAt count) (beforeOutlet count s))) := by
  have same : finishBatch s = s := by simp only [finishBatch, idle]
  simp only [takeBoundary, beforeOutlet, graded, same]

theorem beforeOutlet_foot {s : State} (idle : s.sgc.batch = none) (count : Word) :
    Foot [.tlu, .attn, .sgc, .cfr, .rst] s (beforeOutlet count s) := by
  have same : finishBatch s = s := by simp only [finishBatch, idle]
  rw [beforeOutlet, graded, same]
  exact ((((tluBoundary_foot count s).grow.seq (gradeAt_foot _ _ _).grow).seq (closePeriod_foot _ _).grow).seq
    (openPeriod_foot _ _).grow).seq (ageAt_foot _ _).grow

theorem beforeOutlet_tlu (count : Word) (s : State) :
    ∃ i, (beforeOutlet count s).tlu = { s.tlu.atBoundary count with codedIndex := i } := by
  obtain ⟨i, before⟩ := graded_tlu count s
  obtain ⟨j, closed⟩ := closePeriod_tlu (s.tlu.presents count) (graded count s)
  rw [before] at closed
  refine ⟨j, ?_⟩
  rw [beforeOutlet, (ageAt_foot _ _).tlu (by decide), (openPeriod_foot _ _).tlu (by decide), closed]

theorem beforeOutlet_quiet {s : State} (idle : s.sgc.batch = none) (count : Word) :
    State.QuietOf .feed s (beforeOutlet count s) := by
  have same : finishBatch s = s := by simp only [finishBatch, idle]
  have boundary : State.QuietOf .feed s (tluBoundary count s) := by
    unfold tluBoundary
    dsimp only
    split
    · exact ((State.onTlu_foot _ _).quietOf .feed).trans (raiseAttn_quietOf (by decide) _ _)
    · exact (State.onTlu_foot _ _).quietOf .feed
  have rest : Foot [.sgc, .cfr, .tlu, .rst] (tluBoundary count s) (beforeOutlet count s) := by
    rw [beforeOutlet, graded, same]
    exact (((gradeAt_foot _ _ _).grow.seq (closePeriod_foot _ _).grow).seq (openPeriod_foot _ _).grow).seq
      (ageAt_foot _ _).grow
  exact boundary.trans (rest.quietOf .feed)

/-! ### The slot of a boundary (R129, R130) -/

theorem State.opensSlot_iff (s : State) (n : Index) : s.opensSlot n = true ↔ s.airRole = true ∧
    (s.tlu.station = .running ∨ (s.tlu.station = .ending ∧ ∃ l, s.tlu.last = some l ∧ n.toInt ≤ l.toInt)) := by
  cases last : s.tlu.last <;> simp [State.opensSlot, indexLe, last]

theorem openSlot_room {n : Index} {x : List Expected} {s : State} (room : s.aou.window.length < 12) :
    openSlot n x s = joinSlot n x s := if_pos room

theorem Slot.isOpen_iff (t : Slot) : t.isOpen = true ↔ ∃ d, t.state = .opened d := by
  unfold Slot.isOpen
  cases t.state <;> simp

/-- A full window whose oldest slot is OPEN refuses the slot. -/
theorem openSlot_refuses {n : Index} {x : List Expected} {s : State} {t : Slot} {rest : List Slot}
    (window : s.aou.window = t :: rest) (full : s.aou.window.length = 12) (open_ : ∃ d, t.state = .opened d) :
    openSlot n x s = raiseAttn .feed (.slotRefused n) (s.onAou fun u => { u with
      openMark := some n
      counts := { u.counts with slotRefused := up u.counts.slotRefused } }) := by
  rw [openSlot, if_neg (by rw [full]; exact Nat.lt_irrefl 12), window]
  exact if_pos (t.isOpen_iff.2 open_)

/-- A full window whose oldest slot is CLOSED drops it for the slot. -/
theorem openSlot_drops {n : Index} {x : List Expected} {s : State} {t : Slot} {rest : List Slot}
    (window : s.aou.window = t :: rest) (full : s.aou.window.length = 12) (closed : ∃ k, t.state = .closed k) :
    openSlot n x s = joinSlot n x (raiseAttn .feed (.slotDropped t.index) (s.onAou fun u => { u with
      window := rest
      counts := { u.counts with feedOverrun := up u.counts.feedOverrun } })) := by
  rw [openSlot, if_neg (by rw [full]; exact Nat.lt_irrefl 12), window]
  obtain ⟨k, closed⟩ := closed
  exact if_neg fun open_ => by
    obtain ⟨d, opened⟩ := t.isOpen_iff.1 open_
    rw [opened] at closed
    exact nomatch closed

/-- The state at a boundary before its slot. -/
def beforeSlot (count : Word) (s : State) : State := driverAt (s.tlu.entersAt count) (beforeOutlet count s)

/-- What the slot of a boundary reads of the state before it. -/
structure State.SlotReady (count : Word) (s v : State) : Prop where
  station : v.tlu.station = (s.tlu.atBoundary count).station
  last : v.tlu.last = s.tlu.last
  role : v.airRole = s.airRole
  deadline : v.slotDeadline = s.slotDeadline
  quiet : State.QuietOf .feed s v
  loses : s.aou.Loses v.aou

theorem beforeSlot_ready {s : State} (idle : s.sgc.batch = none) (count : Word) :
    s.SlotReady count (beforeSlot count s) := by
  have outlet := beforeOutlet_foot idle count
  have driver := driverAt_foot (s.tlu.entersAt count) (beforeOutlet count s)
  obtain ⟨i, before⟩ := beforeOutlet_tlu count s
  have tlu : (beforeSlot count s).tlu = { s.tlu.atBoundary count with codedIndex := i } :=
    (driver.tlu (by decide)).trans before
  have config : (beforeSlot count s).csu.config = s.csu.config := by
    rw [beforeSlot, driver.csu_eq, outlet.console (by decide)]
  have now : (beforeSlot count s).now = s.now := (driver.now (by decide)).trans (outlet.now (by decide))
  have aou : (beforeOutlet count s).aou = s.aou := outlet.aou (by decide)
  refine ⟨?_, ?_, ?_, ?_, (beforeOutlet_quiet idle count).trans (driver.quietOf .feed), ?_⟩
  · rw [tlu]
  · rw [tlu]
    rfl
  · rw [State.airRole, config, State.airRole]
  · rw [State.slotDeadline, config, now, State.slotDeadline]
  · have driven := driverAt_loses (s.tlu.entersAt count) (beforeOutlet count s)
    rwa [aou] at driven

theorem takeBoundary_slot {s : State} (idle : s.sgc.batch = none) (count : Word) : takeBoundary count s =
    feedSettle (slotAt (s.tlu.presents count) s.expectedSet (beforeSlot count s)) := takeBoundary_outlet idle count

section
variable {s : State} {e : Epoch} {count : Word}

/-- The boundary opens a slot: presented with an index, in RUNNING, at the boundary that enters it, and in ENDING
up to L (R127, R129). -/
def State.slotOpens (s : State) (n : Index) : Prop :=
  let above := ∃ h, s.tlu.high = some h ∧ h.toInt < n.toInt
  s.airRole = true ∧ ((s.tlu.station = .armed ∧ 0 ≤ n.toInt) ∨ (s.tlu.station = .running ∧ above) ∨
    (s.tlu.station = .ending ∧ above ∧ ∃ l, s.tlu.last = some l ∧ n.toInt ≤ l.toInt))

theorem takeBoundary_opens (held : s.tlu.epoch = some e) (idle : s.sgc.batch = none)
    (opens : s.slotOpens (count - e.base)) : takeBoundary count s =
    feedSettle (openSlot (count - e.base) s.expectedSet (beforeSlot count s)) := by
  have ready := beforeSlot_ready idle count
  obtain ⟨role, opens⟩ := opens
  have not_void (above : ∃ h, s.tlu.high = some h ∧ h.toInt < (count - e.base : Index).toInt) :
      ¬ s.tlu.isVoid (count - e.base) = true := by
    rw [Tlu.isVoid_iff]
    rintro ⟨-, h, high, le⟩
    obtain ⟨h', high', lt⟩ := above
    obtain rfl := Option.some.inj (high.symm.trans high')
    exact Int.not_lt.2 le lt
  have performs : ¬ s.tlu.isVoid (count - e.base) = true ∧ ((s.tlu.atBoundary count).station = .running ∨
      ((s.tlu.atBoundary count).station = .ending ∧
        ∃ l, s.tlu.last = some l ∧ (count - e.base : Index).toInt ≤ l.toInt)) := by
    obtain ⟨armed, after⟩ | ⟨running, above⟩ | ⟨ending, above, last⟩ := opens
    · refine ⟨fun void => ?_, .inl (Tlu.atBoundary_enters held ((Tlu.entersAt_iff held).2 ⟨armed, after⟩)).1⟩
      rw [Tlu.isVoid_iff, armed] at void
      exact void.1.elim nofun nofun
    · refine ⟨not_void above, .inl ?_⟩
      rw [Tlu.atBoundary_stays (Tlu.not_enters (by rw [running]; exact nofun)), running]
    · refine ⟨not_void above, .inr ⟨?_, last⟩⟩
      rw [Tlu.atBoundary_stays (Tlu.not_enters (by rw [ending]; exact nofun)), ending]
  rw [takeBoundary_slot idle, Tlu.presents_of_not_void held performs.1]
  refine congrArg feedSettle (if_pos ?_)
  rw [State.opensSlot_iff, ready.role, ready.station, ready.last]
  exact ⟨role, performs.2⟩

theorem takeBoundary_passes (held : s.tlu.epoch = some e) (idle : s.sgc.batch = none)
    (passes : s.airRole = false ∨ (s.tlu.station = .armed ∧ (count - e.base : Index).toInt < 0) ∨
      s.tlu.station = .configured ∨ s.tlu.station = .done ∨
      ((s.tlu.station = .running ∨ s.tlu.station = .ending) ∧
        ∃ h, s.tlu.high = some h ∧ (count - e.base : Index).toInt ≤ h.toInt) ∨
      (s.tlu.station = .ending ∧ ∃ l, s.tlu.last = some l ∧ l.toInt < (count - e.base : Index).toInt)) :
    takeBoundary count s = feedSettle (beforeSlot count s) := by
  have ready := beforeSlot_ready idle count
  rw [takeBoundary_slot idle]
  refine congrArg feedSettle ?_
  have closed (stays : ¬ (s.tlu.atBoundary count).station = .running)
      (past : (s.tlu.atBoundary count).station = .ending →
        ∃ l, s.tlu.last = some l ∧ l.toInt < (count - e.base : Index).toInt) :
      slotAt (s.tlu.presents count) s.expectedSet (beforeSlot count s) = beforeSlot count s := by
    by_cases void : s.tlu.isVoid (count - e.base) = true
    · rw [Tlu.presents_of_void held void]
      rfl
    · rw [Tlu.presents_of_not_void held void]
      refine if_neg ?_
      rw [State.opensSlot_iff, ready.station, ready.last]
      rintro ⟨-, running | ⟨ending, l, last, le⟩⟩
      · exact stays running
      · obtain ⟨l', last', lt⟩ := past ending
        obtain rfl := Option.some.inj (last.symm.trans last')
        exact Int.not_lt.2 le lt
  have still {st : StationState} (station : s.tlu.station = st) (notArmed : st ≠ .armed) :
      (s.tlu.atBoundary count).station = st := by
    rw [Tlu.atBoundary_stays (Tlu.not_enters (by rw [station]; exact notArmed)), station]
  obtain noRole | ⟨armed, before⟩ | configured | done | void | ⟨ending, past⟩ := passes
  · cases s.tlu.presents count with
    | none => rfl
    | some n =>
      refine if_neg ?_
      rw [State.opensSlot_iff, ready.role, noRole]
      exact fun h => nomatch h.1
  · have waits : (s.tlu.atBoundary count).station = .armed := by
      rw [Tlu.atBoundary_stays, armed]
      rw [Bool.eq_false_iff, Ne, Tlu.entersAt_iff held]
      exact fun enters => Int.not_lt.2 enters.2 before
    exact closed (by rw [waits]; exact nofun) (by rw [waits]; exact nofun)
  · have waits := still configured nofun
    exact closed (by rw [waits]; exact nofun) (by rw [waits]; exact nofun)
  · have waits := still done nofun
    exact closed (by rw [waits]; exact nofun) (by rw [waits]; exact nofun)
  · rw [Tlu.presents_of_void held ((Tlu.isVoid_iff _ _).2 void)]
    rfl
  · exact closed (by rw [still ending nofun]; exact nofun) fun _ => past

end

/-! ### How the outlet goes on from its slot -/

/-- The slot has joined the window `w` OPEN, with the open mark and the count of it. -/
structure Aou.SlotJoined (u : Aou) (w : List Slot) (x : Slot) (v : Aou) : Prop where
  window : v.window = w ++ [x]
  mark : v.openMark = some x.index
  opened : v.counts.slotOpened = up u.counts.slotOpened

/-- The slot that opens now. -/
def State.newSlot (s : State) (n : Index) (x : List Expected) : Slot :=
  { index := n, state := .opened s.slotDeadline, expected := x }

theorem joinSlot_joined (n : Index) (x : List Expected) (s : State) :
    s.aou.SlotJoined s.aou.window (s.newSlot n x) (joinSlot n x s).aou := ⟨rfl, rfl, rfl⟩

section
variable {s v : State} {count : Word} {n : Index} {x : List Expected}

theorem State.SlotReady.newSlot (h : s.SlotReady count v) : v.newSlot n x = s.newSlot n x := by
  rw [State.newSlot, h.deadline, State.newSlot]

theorem State.SlotReady.joins (h : s.SlotReady count v) :
    s.aou.SlotJoined v.aou.window (s.newSlot n x) (joinSlot n x v).aou := by
  have joined := joinSlot_joined n x v
  rw [h.newSlot] at joined
  exact ⟨joined.window, joined.mark, joined.opened.trans (congrArg up h.loses.opened)⟩

/-- The slot that joined stays at the end of the window as the older ones are emitted. -/
theorem State.SlotReady.joinsWindow (h : s.SlotReady count v) : ∃ w, w <:+ s.aou.window ∧
    s.aou.SlotJoined w (s.newSlot n x) (feedSettle (joinSlot n x v)).aou := by
  have joined := h.joins (n := n) (x := x)
  have loses := feedSettle_loses (joinSlot n x v)
  obtain ⟨w, shorter, window⟩ := feedSettle_keepsLast (d := s.slotDeadline) rfl joined.window
  exact ⟨w, shorter.trans h.loses.window, window, loses.mark.trans joined.mark, loses.opened.trans joined.opened⟩

/-- Nothing is emitted from behind an OPEN head. -/
theorem State.SlotReady.joinsBehind (h : s.SlotReady count v) (same : v.aou.window = s.aou.window)
    (open_ : headOpen s.aou.window) :
    s.aou.SlotJoined s.aou.window (s.newSlot n x) (feedSettle (joinSlot n x v)).aou := by
  have joined := h.joins (n := n) (x := x)
  rw [same] at joined
  rw [feedSettle_waits]
  · exact ⟨joined.window, joined.mark, joined.opened⟩
  · rw [joined.window]
    intro y ys head
    cases window : s.aou.window with
    | nil =>
      rw [window] at head
      obtain ⟨rfl, -⟩ := List.cons.inj head
      exact ⟨_, rfl⟩
    | cons z zs =>
      rw [window] at head
      obtain ⟨rfl, -⟩ := List.cons.inj head
      exact open_ z zs window

theorem State.SlotReady.refuses (h : s.SlotReady count v) {y : Slot} {rest : List Slot}
    (same : v.aou.window = s.aou.window) (window : s.aou.window = y :: rest) (full : s.aou.window.length = 12)
    (open_ : ∃ d, y.state = .opened d) :
    let t := feedSettle (openSlot n x v)
    t.aou.window = s.aou.window ∧ t.aou.openMark = some n ∧ t.aou.counts.slotOpened = s.aou.counts.slotOpened ∧
      t.aou.counts.slotRefused = up s.aou.counts.slotRefused ∧ State.Raised .feed (.slotRefused n) s t := by
  intro t
  let refused := v.onAou fun u => { u with
    openMark := some n
    counts := { u.counts with slotRefused := up u.counts.slotRefused } }
  have refuses : openSlot n x v = raiseAttn .feed (.slotRefused n) refused :=
    openSlot_refuses (same.trans window) (by rw [same, full]) open_
  have head : headOpen (openSlot n x v).aou.window := by
    rw [refuses]
    intro z zs here
    obtain ⟨rfl, -⟩ := List.cons.inj ((here.symm.trans same).trans window)
    exact open_
  have raised : State.Raised .feed (.slotRefused n) refused (openSlot n x v) := by
    rw [refuses]
    exact raiseAttn_raised .feed _ _
  have reached : State.QuietOf .feed s refused := h.quiet.trans ((State.onAou_foot _ _).quietOf .feed)
  have out : t.aou = { (openSlot n x v).aou with
      feed := if (openSlot n x v).aou.driven && (openSlot n x v).aou.ready
        then startRecord (openSlot n x v).aou.feed else (openSlot n x v).aou.feed } := by
    show (feedSettle (openSlot n x v)).aou = _
    rw [feedSettle_waits head]
  rw [refuses] at out
  rw [out]
  exact ⟨same, rfl, h.loses.opened, congrArg up h.loses.refused,
    ((feedSettle_foot (openSlot n x v)).quietOf .feed).raised_before (reached.raised_behind raised)⟩

theorem State.SlotReady.drops (h : s.SlotReady count v) {y : Slot} {rest : List Slot}
    (same : ∃ run driven feed, v.aou = { s.aou with hasRun := run, driven := driven, feed := feed } ∧
      2 ≤ feed.length)
    (window : s.aou.window = y :: rest) (full : s.aou.window.length = 12)
    (closed : ∃ k, y.state = .closed k) (clear : s.aou.cut = none) :
    let t := feedSettle (openSlot n x v)
    s.aou.SlotJoined rest (s.newSlot n x) t.aou ∧ t.aou.conceal = s.aou.conceal ∧
      t.aou.counts.feedOverrun = up s.aou.counts.feedOverrun ∧
      t.aou.counts.slotEmitted = s.aou.counts.slotEmitted ∧ State.Raised .feed (.slotDropped y.index) s t := by
  intro t
  obtain ⟨run, driven, feed, aou, taken⟩ := same
  have same : v.aou.window = s.aou.window := by rw [aou]
  let dropped := v.onAou fun u => { u with
    window := rest
    counts := { u.counts with feedOverrun := up u.counts.feedOverrun } }
  let noted := raiseAttn .feed (.slotDropped y.index) dropped
  have drops : openSlot n x v = joinSlot n x noted :=
    openSlot_drops (same.trans window) (by rw [same, full]) closed
  have slot : noted.newSlot n x = s.newSlot n x := h.newSlot
  have noted_aou : noted.aou = { s.aou with
      hasRun := run
      driven := driven
      feed := feed
      window := rest
      counts := { s.aou.counts with feedOverrun := up s.aou.counts.feedOverrun } } := by
    show dropped.aou = _
    dsimp only [dropped, State.onAou]
    rw [aou]
  have raised : State.Raised .feed (.slotDropped y.index) dropped noted := raiseAttn_raised .feed _ _
  have reached : State.QuietOf .feed s dropped := h.quiet.trans ((State.onAou_foot _ _).quietOf .feed)
  have onward : State.QuietOf .feed noted t := by
    show State.QuietOf .feed noted (feedSettle (openSlot n x v))
    rw [drops]
    exact ((joinSlot_foot n x noted).quietOf .feed).trans ((feedSettle_foot _).quietOf .feed)
  have joined := joinSlot_joined n x noted
  rw [slot] at joined
  have out : ∃ f, t.aou = { (joinSlot n x noted).aou with feed := f } := by
    show ∃ f, (feedSettle (openSlot n x v)).aou = _
    rw [drops, feedSettle_full]
    · exact ⟨_, rfl⟩
    · exact (congrArg Aou.cut noted_aou).trans clear
    · exact le_of_le_of_eq taken (congrArg (fun u => u.feed.length) noted_aou).symm
  obtain ⟨f, out⟩ := out
  rw [out]
  refine ⟨⟨joined.window.trans ?_, joined.mark, joined.opened.trans ?_⟩, ?_, ?_, ?_,
    onward.raised_before (reached.raised_behind raised)⟩
  · rw [noted_aou]
  · rw [noted_aou]
  · exact (congrArg Aou.conceal noted_aou :)
  · exact (congrArg (fun u => u.counts.feedOverrun) noted_aou :)
  · exact (congrArg (fun u => u.counts.slotEmitted) noted_aou :)

end

theorem beforeSlot_headOpen {s : State} (idle : s.sgc.batch = none) (count : Word)
    (open_ : headOpen s.aou.window) : (beforeSlot count s).aou.window = s.aou.window := by
  have aou : (beforeOutlet count s).aou = s.aou := (beforeOutlet_foot idle count).aou (by decide)
  rw [beforeSlot, driverAt_headOpen (by rw [aou]; exact open_), aou]

theorem beforeSlot_full {s : State} (idle : s.sgc.batch = none) (count : Word) (clear : s.aou.cut = none)
    (full : 2 ≤ s.aou.feed.length) : ∃ run driven feed, (beforeSlot count s).aou =
      { s.aou with hasRun := run, driven := driven, feed := feed } ∧ 2 ≤ feed.length := by
  have aou : (beforeOutlet count s).aou = s.aou := (beforeOutlet_foot idle count).aou (by decide)
  have driven := driverAt_full (s := beforeOutlet count s) (by rw [aou]; exact clear) (by rw [aou]; exact full)
    (s.tlu.entersAt count)
  rwa [aou] at driven

/-- Settles O47: the slot of a boundary joins the state that `beforeSlot` leaves, and the outlet's emission after it
takes slots from the head of the window only. -/
theorem slotOpens : Obligations.SlotOpens := by
  unfold Obligations.SlotOpens
  refine ⟨State.mem_expectedSet, State.expectedSet_tracks, ?_⟩
  intro s c count e config locked run held configured idle n above opens passes slot opened
  let m := s.onTlu (Tlu.mark count s.lossDue .locked (s.tlu.run + 1))
  have held' : m.tlu.epoch = some e := held
  have idle' : m.sgc.batch = none := idle
  have ready : m.SlotReady count (beforeSlot count m) := beforeSlot_ready idle' count
  have role : m.airRole = c.airRole := by
    show (s.csu.config.map (·.airRole)).getD false = c.airRole
    rw [config]
    rfl
  have newSlot : m.newSlot n m.expectedSet = slot := by
    have latency : (s.csu.config.map (·.latency)).getD 0 = c.latency := by rw [config]; rfl
    show Slot.mk .. = _
    rw [show m.slotDeadline = s.now + 10000000 + 1000000 * c.latency from by
      show s.now + millis 10 + millis ((s.csu.config.map (·.latency)).getD 0) = _
      rw [latency, millis, millis, Nat.mul_comm c.latency]]
    rfl
  have opened_of {u t : State} {w : List Slot} (same : ∃ f, t.aou = { u.aou with finished := f })
      (joined : s.aou.SlotJoined w (m.newSlot n m.expectedSet) u.aou) : opened t w := by
    obtain ⟨f, same⟩ := same
    rw [newSlot] at joined
    exact ⟨(congrArg Aou.window same).trans joined.window, (congrArg Aou.openMark same).trans joined.mark,
      (congrArg (fun a => a.counts.slotOpened) same).trans joined.opened⟩
  refine ⟨settle (takeBoundary count m), exec_markTaken_boundary configured locked run, fun still => ?_,
    fun opens room => ?_, fun x rest opens window full => ⟨fun open_ => ?_, fun closed clear feed => ?_⟩⟩
  case refine_1 =>
    have loses : m.aou.Loses (takeBoundary count m).aou := by
      rw [takeBoundary_passes held' idle' (by rw [role]; exact still)]
      exact ready.loses.trans (feedSettle_loses _)
    obtain ⟨f, aou⟩ := settle_aou (takeBoundary count m)
    rw [aou]
    exact ⟨loses.mark, loses.opened, loses.refused⟩
  all_goals
    have boundary := takeBoundary_opens (s := m) held' idle' (by
      unfold State.slotOpens
      rw [role]
      exact opens)
    have quiet : State.QuietOf .feed (takeBoundary count m) (settle (takeBoundary count m)) :=
      (settle_foot _).quietOf .feed
    have settled := settle_aou (takeBoundary count m)
    generalize settle (takeBoundary count m) = t at *
    rw [boundary] at settled quiet
  case refine_2 =>
    have joins : openSlot n m.expectedSet (beforeSlot count m) = joinSlot n m.expectedSet (beforeSlot count m) :=
      openSlot_room (Nat.lt_of_le_of_lt ready.loses.window.length_le room)
    rw [joins] at settled
    refine ⟨?_, fun open_ => ?_⟩
    · obtain ⟨w, shorter, joined⟩ := ready.joinsWindow (n := n) (x := m.expectedSet)
      exact ⟨w, shorter, opened_of settled joined⟩
    · exact opened_of settled (ready.joinsBehind (beforeSlot_headOpen idle' count open_) open_)
  case refine_3 =>
    have open_window : headOpen m.aou.window := by
      intro y ys here
      obtain ⟨rfl, -⟩ := List.cons.inj (here.symm.trans window)
      exact open_
    obtain ⟨same, mark, joined, refused, raised⟩ := ready.refuses (n := n) (x := m.expectedSet)
      (beforeSlot_headOpen idle' count open_window) window full open_
    obtain ⟨f, aou⟩ := settled
    rw [aou]
    exact ⟨same, mark, joined, refused, quiet.raised_before raised⟩
  case refine_4 =>
    obtain ⟨joined, conceal, overrun, emitted, raised⟩ := ready.drops (n := n) (x := m.expectedSet)
      (beforeSlot_full idle' count clear feed) window full closed clear
    refine ⟨opened_of settled joined, ?_⟩
    obtain ⟨f, aou⟩ := settled
    rw [aou]
    exact ⟨conceal, overrun, emitted, quiet.raised_before raised⟩

end Sys2Proof.Machine
end

section
/-! Deadlines and the program feed (O48). -/

namespace Sys2Proof.Machine

/-! ### What an emission and a removal keep, every look at the window keeps -/

theorem drainWindow_keeps {P : State → Prop} (removes : ∀ rest s, P s → P (removeSlot rest s))
    (emits : ∀ t cause rest s, P s → P (emitSlot t cause rest s)) (n : Nat) :
    ∀ s, P s → P (drainWindow n s) := by
  induction n with
  | zero => exact fun s held => held
  | succ n ih =>
    intro s held
    unfold drainWindow
    split
    · exact held
    next t rest _ =>
      split
      · exact held
      next cause _ =>
        split
        · exact ih _ (removes rest s held)
        · split
          · exact ih _ (emits t cause rest s held)
          · exact held

/-- The counters of deadlines and of records sent, and the size of the conceal store. -/
def Aou.sentTally (u : Aou) : Counter × Counter × Nat :=
  (u.counts.slotDeadline, u.counts.recSent, u.conceal.length)

theorem feedSettle_sentTally (s : State) : (feedSettle s).aou.sentTally = s.aou.sentTally := by
  rw [feedSettle, startFeed_eq]
  refine drainWindow_keeps (P := fun t => t.aou.sentTally = s.aou.sentTally) (fun _ _ held => held)
    (fun t cause rest u held => Eq.trans ?_ held) _ s rfl
  exact congrArg (fun n => (u.aou.counts.slotDeadline, u.aou.counts.recSent, n)) (resolveSlot_length u t)

/-! ### The slot that leaves the window (R134, R143) -/

/-- One emission, with no CLOSED slot behind it: the record of the slot, and what its resolution leaves. -/
structure State.Emitted (s : State) (x : Slot) (cause : CloseCause) (rest : List Slot) (u : Aou) : Prop where
  window : u.window = rest
  conceal : u.conceal = (s.resolveSlot x).2
  emitted : u.counts.slotEmitted = up s.aou.counts.slotEmitted
  silent : u.counts.entrySilent =
    upBy s.aou.counts.entrySilent (entriesOf .silent (s.slotRecord x cause).entries)
  records : u.feed.map LineBuffer.record = s.aou.feed.map LineBuffer.record ++ [s.slotRecord x cause]

section
variable {s : State} {x : Slot} {cause : CloseCause} {rest : List Slot}
  (window : s.aou.window = x :: rest) (closed : x.state = .closed cause)
include window closed

theorem feedSettle_emitted (sounds : s.cutSilent = false) (free : s.aou.feed.length < 2) (open_ : headOpen rest) :
    s.Emitted x cause rest (feedSettle s).aou := by
  have emits : feedSettle s = startFeed (emitSlot x cause rest s) := by
    rw [feedSettle, window, List.length_cons, drainWindow_emits window closed sounds free, drainWindow_waits]
    exact open_
  have records := (startFeed_records (emitSlot x cause rest s)).trans (placeRecord_records _ _)
  rw [emits]
  refine ⟨?_, ?_, ?_, ?_, records⟩ <;> rw [startFeed_eq] <;> rfl

/-- Under STOP and FLOAT the slot leaves unsent, counted. -/
theorem feedSettle_removed (silent : s.cutSilent = true) (open_ : headOpen rest) :
    let t := feedSettle s
    t.aou.window = rest ∧ t.aou.conceal = s.aou.conceal ∧
    t.aou.feed.map LineBuffer.record = s.aou.feed.map LineBuffer.record ∧
    t.aou.counts.slotCut = up s.aou.counts.slotCut ∧
    t.aou.counts.slotEmitted = s.aou.counts.slotEmitted := by
  intro t
  have removes : t = startFeed (removeSlot rest s) := by
    show feedSettle s = _
    rw [feedSettle, window, List.length_cons, drainWindow_removes window closed silent, drainWindow_waits]
    exact open_
  have records := startFeed_records (removeSlot rest s)
  rw [removes]
  refine ⟨?_, ?_, records, ?_, ?_⟩ <;> rw [startFeed_eq] <;> rfl

end

/-- A look that emits nothing leaves the records, the window and the conceal store. -/
theorem feedSettle_still {s : State} (same : drainWindow s.aou.window.length s = s) :
    (feedSettle s).aou.window = s.aou.window ∧ (feedSettle s).aou.conceal = s.aou.conceal ∧
    (feedSettle s).aou.feed.map LineBuffer.record = s.aou.feed.map LineBuffer.record := by
  have records := startFeed_records s
  rw [feedSettle, same]
  refine ⟨?_, ?_, records⟩ <;> rw [startFeed_eq] <;> rfl

theorem State.sounds_clear {s : State} (clear : s.aou.cut = none) : s.cutSilent = false := by
  rw [State.cutSilent, State.isCut, clear]
  rfl

theorem State.cutMode_of {s : State} {c : Configuration} (config : s.csu.config = some c) :
    s.cutMode = c.cutMode := by
  rw [State.cutMode, config]
  rfl

theorem State.sounds_quiet {s : State} (mode : s.cutMode = .quiet) : s.cutSilent = false := by
  rw [State.cutSilent, mode, Bool.and_false]

theorem State.silent_cut {s : State} (cut : s.aou.cut.isSome = true) (mode : s.cutMode = .stop ∨ s.cutMode = .float) :
    s.cutSilent = true := by
  rw [State.cutSilent, State.isCut, cut]
  obtain mode | mode := mode <;> rw [mode] <;> rfl

/-- The record of a slot that is emitted while CUT: every expected track is SILENT. -/
theorem slotRecord_cut {s : State} (cut : s.aou.cut.isSome = true) (x : Slot) (cause : CloseCause) :
    s.resolveSlot x = (x.expected.map silentEntry, s.aou.conceal) ∧ s.slotRecord x cause = {
      station := s.ownId, incarnation := s.tlu.incarnation.getD 0, index := x.index, cut := true
      cause := cause, expected := x.expected.length, arrived := x.arrived
      entries := x.expected.map silentEntry } := by
  have resolved : s.resolveSlot x = (x.expected.map silentEntry, s.aou.conceal) := if_pos cut
  refine ⟨resolved, ?_⟩
  rw [State.slotRecord, resolved, show s.isCut = true from cut]

theorem entriesOf_silent (es : List Expected) : entriesOf .silent (es.map silentEntry) = es.length := by
  rw [entriesOf, List.filter_eq_self.2, List.length_map]
  intro e among
  obtain ⟨x, -, rfl⟩ := List.mem_map.1 among
  rfl

/-! ### SLOT_DEADLINE (R133) -/

theorem exec_slotDeadline_none {s : State} {n : Index} (none_ : s.aou.deadlineOf n = none) :
    exec (.slotDeadline n) s = .next (settle s) := by
  have waits : deadlineExpires n s = s := by
    unfold deadlineExpires
    rw [none_]
  exact congrArg (fun t => Host.Outcome.next (settle t)) waits

theorem exec_slotDeadline {s : State} {n : Index} {d : Time} (due : s.aou.deadlineOf n = some d) :
    exec (.slotDeadline n) s = .next (settle (feedSettle (closeByDeadline n (s.reach d)))) := by
  have closes : deadlineExpires n s = feedSettle (closeByDeadline n (s.reach d)) := by
    unfold deadlineExpires
    rw [due]
  exact congrArg (fun t => Host.Outcome.next (settle t)) closes

/-- The deadline of the oldest slot, with no other slot of its index. -/
theorem closeByDeadline_oldest {x : Slot} {rest : List Slot} {s : State} (window : s.aou.window = x :: rest)
    (others : ∀ y ∈ rest, y.index ≠ x.index) :
    (closeByDeadline x.index s).aou.window = { x with state := .closed .deadline } :: rest := by
  show updateSlot x.index _ s.aou.window = _
  rw [window, updateSlot, List.map_cons, if_pos rfl]
  exact congrArg _ ((List.map_congr_left fun y among => if_neg (others y among)).trans (List.map_id' rest))

/-- A slot that is OPEN and not the one that closes stays OPEN at the head. -/
theorem closeByDeadline_behind {x : Slot} {rest : List Slot} {s : State} {e : Time} {n : Index}
    (window : s.aou.window = x :: rest) (opened : x.state = .opened e) (other : x.index ≠ n) :
    headOpen (closeByDeadline n s).aou.window := by
  intro y ys here
  have head : ∃ zs, (closeByDeadline n s).aou.window = x :: zs := by
    show ∃ zs, updateSlot n _ s.aou.window = _
    rw [window, updateSlot, List.map_cons, if_neg other]
    exact ⟨_, rfl⟩
  obtain ⟨zs, head⟩ := head
  obtain ⟨rfl, -⟩ := List.cons.inj (here.symm.trans head)
  exact ⟨e, opened⟩

/-! ### FEED_RECORD_COMPLETE, PROGRAM_READY_RISE and PROGRAM_READY_FALL (R138, R139) -/

/-- The SENDING record is complete and its buffer FREE, before the Air Outlet looks for an emission. -/
def feedRecordGone (s : State) : State :=
  s.onAou fun u => { u with
    feed := dropSending u.feed
    counts := { u.counts with recSent := up u.counts.recSent } }

theorem exec_feedRecordComplete_none {s : State} (none_ : sendingRecord s.aou.feed = none) :
    exec .feedRecordComplete s = .next (settle s) := by
  have waits : feedRecordSent s = s := by
    unfold feedRecordSent
    rw [none_]
  exact congrArg (fun t => Host.Outcome.next (settle t)) waits

theorem exec_feedRecordComplete {s : State} {q : SlotRecord} (sending : sendingRecord s.aou.feed = some q) :
    exec .feedRecordComplete s = .next (settle (feedSettle (feedRecordGone s))) := by
  have sends : feedRecordSent s = feedSettle (feedRecordGone s) := by
    unfold feedRecordSent
    rw [sending]
    rfl
  exact congrArg (fun t => Host.Outcome.next (settle t)) sends

theorem programReady_eq (s : State) : programReady s = { s with aou := { s.aou with
    ready := true
    feed := if s.aou.driven then startRecord s.aou.feed else s.aou.feed } } := by
  rw [programReady, startFeed_eq]
  show ({ s with aou := _ } : State) = _
  simp only [State.onAou, Bool.and_true]

/-- Settles O48: each event prepares the window or the buffers, and one look for an emission follows it. -/
theorem programFeedEvents : Obligations.ProgramFeedEvents := by
  unfold Obligations.ProgramFeedEvents
  intro s record records silent allOpen r
  refine ⟨fun n => exec_slotDeadline_none, fun n d due => ?_, exec_feedRecordComplete_none, fun q sending => ?_,
    congrArg Host.Outcome.next (programReady_eq s), rfl⟩
  case refine_1 =>
    let c := closeByDeadline n (s.reach d)
    have tally := feedSettle_sentTally c
    obtain ⟨f, aou⟩ := settle_aou (feedSettle c)
    have now : (settle (feedSettle c)).now = max s.now d := by
      rw [settle_now, (feedSettle_foot c).now (by decide)]
      rfl
    refine ⟨settle (feedSettle c), exec_slotDeadline due, now, ?_⟩
    rw [aou]
    refine ⟨(feedSettle_loses c).mark, (feedSettle_sameCut c).1, congrArg Prod.fst tally,
      fun x rest e window opened other => ?_, fun x rest window own others open_ => ?_⟩
    · have head : headOpen c.aou.window := closeByDeadline_behind (s := s.reach d) window opened other
      exact (feedSettle_still (drainWindow_waits head _)).1
    · subst own
      let y : Slot := { x with state := .closed .deadline }
      have oldest : c.aou.window = y :: rest := closeByDeadline_oldest (s := s.reach d) window others
      have closed : y.state = .closed .deadline := rfl
      refine ⟨fun clear free => ?_, fun k config cut quiet free => ?_, fun k config cut silences => ?_,
        fun clear full => ?_⟩
      · have out := feedSettle_emitted oldest closed (c.sounds_clear clear) free open_
        obtain ⟨resolved, made⟩ := slotRecord_clear (s := c) clear y .deadline
        exact ⟨out.window, out.conceal.trans (congrArg Prod.snd resolved), out.emitted,
          out.records.trans (congrArg (fun z => c.aou.feed.map LineBuffer.record ++ [z]) made)⟩
      · have mode : c.cutMode = .quiet := (State.cutMode_of (s := c) config).trans quiet
        have out := feedSettle_emitted oldest closed (c.sounds_quiet mode) free open_
        obtain ⟨resolved, made⟩ := slotRecord_cut (s := c) cut y .deadline
        refine ⟨out.window, out.conceal.trans (congrArg Prod.snd resolved), out.emitted, out.silent.trans ?_,
          out.records.trans (congrArg (fun z => c.aou.feed.map LineBuffer.record ++ [z]) made)⟩
        rw [made, entriesOf_silent]
        rfl
      · have mode : c.cutMode = .stop ∨ c.cutMode = .float := by
          rw [State.cutMode_of (s := c) config]
          exact silences
        exact feedSettle_removed oldest closed (c.silent_cut cut mode) open_
      · obtain ⟨same, conceal, placed⟩ := feedSettle_still (drainWindow_full (c.sounds_clear clear) full _)
        exact ⟨same.trans oldest, conceal, placed⟩
  case refine_2 =>
    let c := feedRecordGone s
    have tally := feedSettle_sentTally c
    obtain ⟨f, aou⟩ := settle_aou (feedSettle c)
    refine ⟨settle (feedSettle c), exec_feedRecordComplete sending, ?_⟩
    rw [aou]
    refine ⟨congrArg (fun z => z.2.1) tally, congrArg (fun z => z.2.2) tally, fun open_ => ?_,
      fun x rest k window closed open_ clear free => ?_⟩
    · obtain ⟨same, conceal, placed⟩ := feedSettle_still (drainWindow_waits (s := c) open_ _)
      exact ⟨placed, same, conceal⟩
    · have out := feedSettle_emitted (s := c) window closed (c.sounds_clear clear) free open_
      obtain ⟨resolved, made⟩ := slotRecord_clear (s := c) clear x k
      exact ⟨out.window, out.conceal.trans (congrArg Prod.snd resolved),
        out.records.trans (congrArg (fun z => c.aou.feed.map LineBuffer.record ++ [z]) made)⟩

end Sys2Proof.Machine
end

section
/-! The Keep Spool: append, freeing and go-back (O49). -/

namespace Sys2Proof.Machine

theorem Ksp.full_iff (k : Ksp) : k.full = true ↔ 262144 ≤ k.retained := decide_eq_true_iff

/-- The freeing of a station, by its target (R155). -/
theorem recomputeFree_of_target {s : State} {t : Word} (target : s.freeTarget = some t) : recomputeFree s =
    if newer t s.ksp.free then
      if s.meetsGoBack then s.onKsp fun k => { k with wentBack := none } else moveFree t s
    else s := by
  rw [recomputeFree, target]

theorem State.freeTarget_of {s : State} {oldest : Word}
    (held : oldestOf (s.countedOutlets.map (·.2)) = some oldest) :
    s.freeTarget = some (olderOf s.ksp.drain (oldest + 1)) := by
  rw [State.freeTarget, held]
  rfl

theorem recomputeFree_uncounted {s : State} (none_ : s.countedOutlets = []) : recomputeFree s = s := by
  have target : s.freeTarget = none := by rw [State.freeTarget, none_]; rfl
  rw [recomputeFree, target]

section
variable {s : State} {oldest : Word} (held : oldestOf (s.countedOutlets.map (·.2)) = some oldest)
include held

theorem recomputeFree_stays (same : newer (olderOf s.ksp.drain (oldest + 1)) s.ksp.free = false) :
    recomputeFree s = s :=
  (recomputeFree_of_target (State.freeTarget_of held)).trans (if_neg (by rw [same]; exact Bool.false_ne_true))

theorem recomputeFree_meets (moves : newer (olderOf s.ksp.drain (oldest + 1)) s.ksp.free = true)
    (meets : s.ksp.wentBack = some s.now) : recomputeFree s = s.onKsp fun k => { k with wentBack := none } :=
  ((recomputeFree_of_target (State.freeTarget_of held)).trans (if_pos moves)).trans (if_pos (beq_iff_eq.2 meets))

theorem recomputeFree_moves (moves : newer (olderOf s.ksp.drain (oldest + 1)) s.ksp.free = true)
    (apart : s.ksp.wentBack ≠ some s.now) : recomputeFree s = moveFree (olderOf s.ksp.drain (oldest + 1)) s :=
  ((recomputeFree_of_target (State.freeTarget_of held)).trans (if_pos moves)).trans (if_neg (mt beq_iff_eq.1 apart))

end

/-- Settles O49: the branches of the append, of freeing and of the go-back, each by its condition. -/
theorem spoolAppendsFreesAndGoesBack : Obligations.SpoolAppendsFreesAndGoesBack := by
  unfold Obligations.SpoolAppendsFreesAndGoesBack
  intro s
  refine ⟨fun b off => ?_, fun b on room => ?_, fun b on full => ?_, recomputeFree_uncounted,
    fun oldest held => ⟨recomputeFree_stays held, recomputeFree_meets held, recomputeFree_moves held⟩,
    fun none_ => ?_, fun d due => ?_⟩
  case refine_1 => rw [appendKeep_eq, if_pos off]
  case refine_2 =>
    rw [appendKeep_eq, if_neg (by rw [on]; exact nofun), if_neg (by rw [Ksp.full_iff]; exact Nat.not_le.2 room)]
  case refine_3 =>
    rw [appendKeep_eq, if_neg (by rw [on]; exact nofun), if_pos (s.ksp.full_iff.2 full)]
  case refine_4 =>
    have waits : resendExpires s = s := by rw [resendExpires, none_]
    exact congrArg (fun t => Host.Outcome.next (settle t)) waits
  case refine_5 =>
    refine congrArg (fun t => Host.Outcome.next (settle t)) ?_
    rw [resendExpires, due]
    rfl

end Sys2Proof.Machine
end

section
/-! The drain (O50). -/

namespace Sys2Proof.Machine

/-! ### The conditions of R152 -/

theorem ite_some_eq_none {α : Type} {c : Prop} [Decidable c] {x : α} {o : Option α} :
    (if c then some x else o) = none ↔ ¬ c ∧ o = none := by
  by_cases h : c <;> simp [h]

theorem State.portBlock_none_iff (s : State) (p : PortId) : s.portBlock p = none ↔
    ((s.port p).link = .up → (s.port p).lane2 = .opened ∧ (s.port p).heldUntil = none ∧
      (s.port p).refreshAt = none ∧ (s.port p).queue2.length + 2 ≤ s.highMark) := by
  by_cases up : (s.port p).link = .up
  · unfold State.portBlock
    dsimp only
    rw [if_neg (Classical.not_not.2 up), ite_some_eq_none, ite_some_eq_none, ite_some_eq_none, ite_some_eq_none, Port.held,
      Port.congested]
    simp [up]
  · exact ⟨fun _ n => absurd n up, fun _ => if_pos up⟩

theorem State.outletBlock_none_iff (s : State) : s.outletBlock = none ↔
    ((∀ p, (s.port p).link ≠ .up) → s.keepRole = true ∧ s.kou.queue.length + 2 ≤ 64) := by
  have no : s.noPortUp = true ↔ ∀ p, (s.port p).link ≠ .up := by
    simp only [State.noPortUp, Bool.and_eq_true, decide_eq_true_eq]
    exact ⟨fun ⟨a, b⟩ p => by cases p <;> assumption, fun h => ⟨h .a, h .b⟩⟩
  have room : ¬ s.kou.room < 2 ↔ s.kou.queue.length + 2 ≤ 64 := by
    unfold Kou.room
    omega
  rw [← no, ← room, State.outletBlock]
  cases s.noPortUp <;> cases s.keepRole <;> simp

theorem State.performing_iff (s : State) :
    s.performing = true ↔ s.tlu.station = .running ∨ s.tlu.station = .ending := by
  simp [State.performing]

theorem State.muted_iff (s : State) : s.muted = false ↔ s.dlu.muted = none := by
  simp [State.muted]

theorem State.drainBlock_none_iff (s : State) : s.drainBlock = none ↔
    (s.performing = true ∧ s.muted = false ∧ s.ksp.drain ≠ s.ksp.write ∧ (∀ p, s.portBlock p = none) ∧
      s.outletBlock = none) := by
  constructor
  · intro open_
    obtain ⟨speaks, ports⟩ := drainBlock_none open_
    unfold State.drainBlock at open_
    rw [speaks, ports .a, ports .b] at open_
    cases performs : s.performing with
    | false => simp [performs] at open_
    | true =>
      by_cases drained : s.ksp.drain = s.ksp.write
      · simp [performs, drained] at open_
      · exact ⟨rfl, speaks, drained, ports, by simpa [performs, drained] using open_⟩
  · rintro ⟨performs, speaks, undrained, ports, outlet⟩
    simp [State.drainBlock, performs, speaks, undrained, ports .a, ports .b, outlet]

/-! ### The burst (R152) -/

/-- The drain sends the entry at drain and goes on. -/
theorem drain_sends {s : State} (law : s.ksp.Law) (open_ : s.drainBlock = none) :
    ∃ b, s.ksp.atDrain = some b ∧ b.sequence = s.ksp.drain ∧ drain s = drain (sendEntry b s) := by
  have undrained : 0 < s.ksp.undrained :=
    Nat.pos_of_ne_zero fun drained => drainBlock_of_drained s drained open_
  obtain ⟨b, here⟩ := law.atDrain_isSome undrained
  obtain ⟨-, fewer⟩ := sendEntry_ksp b s law undrained
  refine ⟨b, here, law.atDrain_sequence here, ?_⟩
  rw [drain, drain, fewer]
  obtain ⟨n, size⟩ := Nat.exists_eq_succ_of_ne_zero (Nat.ne_of_gt undrained)
  rw [size, drainLoop, open_, here]
  rfl

/-! ### The entry that is sent (R153) -/

/-- A KEEP frame delivered inside the station, from its own header. -/
theorem deliver_keep_ringBytes {h : RingHeader} (origin : h.origin < 256) (body : Bytes) (own : Bool) (s : State) :
    let frame := ringBytes .keep h body
    deliver .keep own frame s = if s.keepRole = true then
        takeKeep h.origin h.incarnation (parseKeep frame) (keepFloor frame)
          (s.countDlu RingKind.keep.countDelivered)
      else s := by
  intro frame
  have header : ringHeader frame = h := ringHeader_ringBytes .keep h body origin
  generalize frame = bs at header
  rw [← header]
  rfl

theorem advanceDrain_eq {s u : State} (drain_ : u.ksp.drain = s.ksp.drain) (due : u.resendDue = s.resendDue) :
    advanceDrain u = { u with ksp := { u.ksp with
      drain := s.ksp.drain + 1
      resendAt := if u.ksp.free = s.ksp.drain then some s.resendDue else u.ksp.resendAt
      counts := { u.ksp.counts with keepDrained := up u.ksp.counts.keepDrained } } } := by
  rw [← drain_, ← due]
  rfl

theorem resendDue_congr {s u : State} (now : u.now = s.now) (csu : u.csu = s.csu) : u.resendDue = s.resendDue := by
  rw [State.resendDue, State.resendDue, now, csu]

/-- An entry that is sent, once its frame is offered to both ports. -/
theorem sendEntry_eq {s : State} {c : Configuration} {inc : Word} (speaks : s.dlu.muted = none)
    (config : s.csu.config = some c) (incarnation : s.tlu.incarnation = some inc) (station : c.station < 256)
    (b : KeepBody) {frame : Bytes} {v w u : State}
    (framed : frame = ringBytes .keep { origin := c.station, incarnation := inc, sequence := s.dlu.nextSeq }
      (keepBytes b s.ksp.free))
    (numbered : v = { s with dlu := { s.dlu with
      nextSeq := s.dlu.nextSeq + 1
      counts := { s.dlu.counts with
        originated := up s.dlu.counts.originated
        origUnsent := upIf ((s.port .a).offer 2 != .queued && (s.port .b).offer 2 != .queued)
          s.dlu.counts.origUnsent } } })
    (offered : w = offerFrame .b 2 frame (offerFrame .a 2 frame v))
    (taken : u = if c.keepRole then
        takeKeep c.station inc (parseKeep frame) (keepFloor frame) (w.countDlu RingKind.keep.countDelivered)
      else w) :
    sendEntry b s = { u with ksp := { u.ksp with
      drain := s.ksp.drain + 1
      resendAt := if u.ksp.free = s.ksp.drain then some s.resendDue else u.ksp.resendAt
      counts := { u.ksp.counts with keepDrained := up u.ksp.counts.keepDrained } } } := by
  have header : s.nextHeader = { origin := c.station, incarnation := inc, sequence := s.dlu.nextSeq } := by
    rw [State.nextHeader, State.ownId, config, incarnation]
    rfl
  have offers : Foot [.ports] v w := by
    rw [offered]
    exact (offerFrame_foot _ _ _ _).seq (offerFrame_foot _ _ _ _)
  have csu : w.csu = s.csu := by rw [offers.csu_eq, numbered]
  have role : w.keepRole = c.keepRole := by
    rw [State.keepRole, csu, config]
    rfl
  have sent : originate .keep (keepBytes b s.ksp.free) s = u := by
    have offers_eq : originate .keep (keepBytes b s.ksp.free) s = deliver .keep true frame w := by
      rw [originate_offers speaks, header, ← framed, offered, numbered]
      rfl
    have delivered := deliver_keep_ringBytes (h := s.nextHeader) (by rw [header]; exact station)
      (keepBytes b s.ksp.free) true w
    rw [header, ← framed, role] at delivered
    exact (offers_eq.trans delivered).trans taken.symm
  have free : Foot [.ksp, .kou, .dlu] w u := by
    rw [taken]
    split
    · exact (State.countDlu_foot _ _).grow.seq (takeKeep_foot _ _ _ _ _).grow
    · exact .refl _ _
  have drain_ : u.ksp.drain = s.ksp.drain := by
    rw [← sent]
    exact (originateKeep_ksp _ s).2.2.1
  refine (congrArg advanceDrain sent).trans (advanceDrain_eq drain_ (resendDue_congr ?_ ?_))
  · rw [free.now (by decide), offers.now (by decide), numbered]
  · rw [free.csu_eq, csu]

/-- Settles O50: the conditions of the drain, its burst by the law of the spool, and the entry it sends. -/
theorem drainSends : Obligations.DrainSends := by
  unfold Obligations.DrainSends
  refine ⟨fun _ => rfl, fun s => ?_, fun _ => drain_of_blocked, fun _ => drain_sends,
    fun s c inc b speaks config incarnation => ?_⟩
  · rw [State.drainBlock_none_iff, State.performing_iff, State.muted_iff, State.outletBlock_none_iff]
    simp only [State.portBlock_none_iff]
  · intro frame v w u _ station
    have due : s.resendDue = s.now + 1000000 * c.resend := by
      rw [State.resendDue, config, Nat.mul_comm]
      rfl
    rw [← due]
    exact sendEntry_eq speaks config incarnation (by omega) b (frame := frame) (v := v) (w := w) (u := u) rfl rfl rfl rfl

end Sys2Proof.Machine
end

section
/-! The Keep Outlet: the take table, the archive queue and the archive feed line (O51). -/

namespace Sys2Proof.Machine

/-! ### Records in order: the line buffers, then the queue (R163) -/

/-- The records of the outlet in the order they leave it. -/
def Kou.records (k : Kou) : List ArchiveRecord := k.lines.map LineBuffer.record ++ k.queue

theorem fillLines_keeps (n : Nat) (k : Kou) : (fillLines n k).records = k.records ∧
    (fillLines n k).counts = k.counts ∧ (fillLines n k).ready = k.ready := by
  induction n generalizing k with
  | zero => exact ⟨rfl, rfl, rfl⟩
  | succ n ih =>
    unfold fillLines
    split
    · exact ⟨rfl, rfl, rfl⟩
    next r rest queue =>
      split
      · obtain ⟨records, counts, ready⟩ := ih { k with queue := rest, lines := placeRecord r k.lines }
        refine ⟨records.trans ?_, counts, ready⟩
        simp only [Kou.records, placeRecord_records, queue, List.append_assoc, List.singleton_append]
      · exact ⟨rfl, rfl, rfl⟩

theorem fillLines_empty (n : Nat) {k : Kou} (empty : k.queue = []) : fillLines n k = k := by
  cases n with
  | zero => rfl
  | succ n => rw [fillLines, empty]

/-- The outlet after its look for a move and for a start. -/
def Kou.look (driven : Bool) (k : Kou) : Kou :=
  if driven && k.ready then { fillLines 2 k with lines := startRecord (fillLines 2 k).lines } else fillLines 2 k

theorem archiveSettle_eq (s : State) : archiveSettle s = s.onKou (Kou.look s.keepRole) := rfl

theorem Kou.look_keeps (d : Bool) (k : Kou) : (k.look d).take = k.take ∧ (k.look d).counts = k.counts ∧
    (k.look d).ready = k.ready ∧ (k.look d).records = k.records := by
  obtain ⟨records, counts, ready⟩ := fillLines_keeps 2 k
  have take := fillLines_take 2 k
  unfold Kou.look
  split
  · refine ⟨take, counts, ready, Eq.trans ?_ records⟩
    rw [Kou.records, Kou.records, startRecord_records]
  · exact ⟨take, counts, ready, records⟩

theorem Kou.look_empty (d : Bool) {k : Kou} (empty : k.queue = []) (ready : k.ready = true) :
    (k.look d).lines = if d then startRecord k.lines else k.lines := by
  rw [Kou.look, fillLines_empty 2 empty, ready]
  cases d <;> rfl

/-! ### The own spool is told (R155, R165) -/

theorem State.freeTarget_onKou {f : Kou → Kou} {s : State} (take : (f s.kou).take = s.kou.take) :
    (s.onKou f).freeTarget = s.freeTarget := by
  have kept (inc : Word) : (s.onKou f).ownKept inc = s.ownKept inc := by
    show (if s.keepRole then (atStation (f s.kou).take s.ownId).bind _ else none) = _
    rw [take]
    rfl
  have outlets : (s.onKou f).countedOutlets = s.countedOutlets := by
    unfold State.countedOutlets
    simp only [kept]
    rfl
  rw [State.freeTarget, outlets, State.freeTarget]
  rfl

/-- The freeing of the spool reads the take table alone of the Keep Outlet. -/
theorem recomputeFree_onKou {f : Kou → Kou} {s : State} (take : (f s.kou).take = s.kou.take) :
    recomputeFree (s.onKou f) = (recomputeFree s).onKou f := by
  unfold recomputeFree
  rw [State.freeTarget_onKou take]
  cases s.freeTarget with
  | none => rfl
  | some t =>
    dsimp only
    rw [show (s.onKou f).ksp = s.ksp from rfl, show (s.onKou f).meetsGoBack = s.meetsGoBack from rfl]
    split
    · split <;> rfl
    · rfl

/-- The origin and the incarnation are the station's own. -/
def State.isOwn (s : State) (o : Nat) (inc : Word) : Prop := o = s.ownId ∧ s.tlu.incarnation = some inc

theorem tellOwnSpool_own {s : State} {o : Nat} {inc : Word} (own : s.isOwn o inc) :
    tellOwnSpool o inc s = { s with ksp := (recomputeFree s).ksp } :=
  (if_pos own).trans (recomputeFree_ksp s)

theorem tellOwnSpool_other {s : State} {o : Nat} {inc : Word} (other : ¬ s.isOwn o inc) :
    tellOwnSpool o inc s = s := if_neg other

/-! ### The judgement of a frame (R160, Table 9-6) -/

section
variable {inc n floor : Word} {room : Nat} {e : TakeEntry}

theorem judgeKeep_renews (renews : newer inc e.incarnation = true) :
    judgeKeep (some e) inc n floor room = if 2 ≤ room then .start else .queueFull :=
  (if_neg (newer_ne renews).symm).trans (if_pos renews)

theorem judgeKeep_stale (older : newer inc e.incarnation = false) (other : inc ≠ e.incarnation) :
    judgeKeep (some e) inc n floor room = .stale :=
  (if_neg other.symm).trans (if_neg (by rw [older]; exact nofun))

variable (same : inc = e.incarnation)
include same

theorem judgeKeep_same : judgeKeep (some e) inc n floor room = judgeSequence e n floor room := if_pos same.symm

theorem judgeKeep_next (next : n = e.nextTake) :
    judgeKeep (some e) inc n floor room = if 1 ≤ room then .taken else .queueFull :=
  (judgeKeep_same same).trans (if_pos next)

theorem judgeKeep_duplicate (older : newer e.nextTake n = true) :
    judgeKeep (some e) inc n floor room = .duplicate :=
  (judgeKeep_same same).trans ((if_neg (newer_ne older).symm).trans (if_pos older))

theorem judgeKeep_beyond (beyond : newer n e.nextTake = true) : judgeKeep (some e) inc n floor room =
    if newer floor e.nextTake then (if 2 ≤ room then .gap else .queueFull) else .ahead :=
  (judgeKeep_same same).trans ((if_neg (newer_ne beyond)).trans
    ((if_neg (by rw [newer_asymm beyond]; exact nofun)).trans (if_pos beyond)))

theorem judgeKeep_opposite (apart : (n - e.nextTake).toNat = 2 ^ 31) :
    judgeKeep (some e) inc n floor room = .stale := by
  have unequal : n ≠ e.nextTake := by
    rintro rfl
    rw [BitVec.sub_self] at apart
    exact nomatch apart
  have behind : ¬ newer e.nextTake n = true := by
    rw [newer_iff]
    bv_omega
  have beyond : ¬ newer n e.nextTake = true := by
    rw [newer_iff]
    omega
  exact (judgeKeep_same same).trans ((if_neg unequal).trans ((if_neg behind).trans (if_neg beyond)))

end

/-! ### KEEP frames (R160, R161) -/

theorem Kou.takeInto_place {o : Nat} {e : TakeEntry} {rs : List ArchiveRecord} {k : Kou} (low : 1 ≤ o)
    (high : o ≤ k.take.length) : atStation (k.takeInto o e rs).take o = some e :=
  atStation_setStation_self _ _ _ low high

theorem Kou.judged_taken {o : Nat} {inc floor : Word} {b : KeepBody} {k : Kou} {e : TakeEntry}
    (held : atStation k.take o = some e) : ∃ c, k.judged o inc b floor .taken = { k with counts := c }.takeInto o
      { incarnation := inc, nextTake := b.sequence + 1, lastSent := e.lastSent } [.data o inc b] := by
  have last : ((atStation k.take o).map (·.lastSent)).getD 0 = e.lastSent := by
    rw [held]
    rfl
  rw [← last]
  exact ⟨_, rfl⟩

theorem Kou.judged_gap_floor {o : Nat} {inc floor : Word} {b : KeepBody} {k : Kou} (at_ : b.sequence = floor) :
    ∃ c, k.judged o inc b floor .gap = { k with counts := c }.takeInto o
      { incarnation := inc, nextTake := floor + 1, lastSent := floor - 1 } [.join o inc floor, .data o inc b] :=
  ⟨_, if_pos at_⟩

theorem Kou.judged_gap_beyond {o : Nat} {inc floor : Word} {b : KeepBody} {k : Kou} (beyond : b.sequence ≠ floor) :
    ∃ c, k.judged o inc b floor .gap = { k with counts := c }.takeInto o
      { incarnation := inc, nextTake := floor, lastSent := floor - 1 } [.join o inc floor] :=
  ⟨_, if_neg beyond⟩

theorem Kou.judged_refused {o : Nat} {inc floor : Word} {b : KeepBody} {k : Kou} {r : TakeResult}
    (refused : r = .duplicate ∨ r = .ahead ∨ r = .stale ∨ r = .queueFull) :
    ∃ c, k.judged o inc b floor r = { k with counts := c } := by
  obtain rfl | rfl | rfl | rfl := refused <;> exact ⟨_, rfl⟩

theorem Kou.judged_lines (o : Nat) (inc : Word) (b : KeepBody) (floor : Word) (r : TakeResult) (k : Kou) :
    (k.judged o inc b floor r).lines = k.lines := by
  cases r with
  | gap =>
    by_cases at_ : b.sequence = floor
    · obtain ⟨c, judged⟩ := Kou.judged_gap_floor (o := o) (inc := inc) (k := k) at_
      exact (congrArg Kou.lines judged :)
    · obtain ⟨c, judged⟩ := Kou.judged_gap_beyond (o := o) (inc := inc) (k := k) at_
      exact (congrArg Kou.lines judged :)
  | _ => rfl

theorem takeKeep_before {o : Nat} {inc floor : Word} {b : KeepBody} {s : State} (before : s.armedOnward = false) :
    takeKeep o inc b floor s = s := if_pos (by rw [before]; rfl)

/-- A frame taken from ARMED onward: the outlet as the judgement leaves it, after its look, and the own spool
told of a place that starts or moves over a gap. -/
theorem takeKeep_armed {o : Nat} {inc floor : Word} {b : KeepBody} {s : State} (armed : s.armedOnward = true) :
    let r := judgeKeep (atStation s.kou.take o) inc b.sequence floor s.kou.room
    let k := s.kou.judged o inc b floor r
    (s.isOwn o inc → r = .start ∨ r = .gap → takeKeep o inc b floor s =
      { s with kou := k.look s.keepRole, ksp := (recomputeFree { s with kou := k }).ksp }) ∧
    (¬ s.isOwn o inc ∨ (r ≠ .start ∧ r ≠ .gap) → takeKeep o inc b floor s =
      { s with kou := k.look s.keepRole }) := by
  intro r k
  let u := archiveSettle (s.onKou (Kou.judged o inc b floor r))
  have settled : u = { s with kou := k.look s.keepRole } := rfl
  have told : recomputeFree u = (recomputeFree { s with kou := k }).onKou (Kou.look s.keepRole) :=
    recomputeFree_onKou (s := { s with kou := k }) (Kou.look_keeps s.keepRole k).1
  have taken : takeKeep o inc b floor s = match r with
      | .start | .gap => tellOwnSpool o inc u
      | .taken | .duplicate | .ahead | .stale | .queueFull => u :=
    if_neg (by rw [armed]; exact nofun)
  have tells (moves : r = .start ∨ r = .gap) : takeKeep o inc b floor s = tellOwnSpool o inc u := by
    rw [taken]
    obtain moves | moves := moves <;> rw [moves]
  refine ⟨fun own moves => ?_, fun quiet => ?_⟩
  · rw [tells moves, tellOwnSpool_own (s := u) own, told]
    rfl
  · by_cases moves : r = .start ∨ r = .gap
    · have other : ¬ s.isOwn o inc := quiet.resolve_right fun stays => moves.elim stays.1 stays.2
      exact (tells moves).trans ((tellOwnSpool_other (s := u) other).trans settled)
    · rw [taken]
      have still : r ≠ .start ∧ r ≠ .gap := not_or.1 moves
      generalize r = q at still
      cases q with
      | start => exact absurd rfl still.1
      | gap => exact absurd rfl still.2
      | _ => exact settled

/-! ### ARCHIVE_RECORD_COMPLETE (R163, R165) -/

section
variable {s : State} {o : Nat} {inc : Word} {b : KeepBody} {e : TakeEntry}

/-- The place of an origin with the sequence sent last. -/
def State.sentTake (s : State) (o : Nat) (b : KeepBody) (e : TakeEntry) : List (Option TakeEntry) :=
  setStation s.kou.take o (some { e with lastSent := b.sequence })

theorem recordSent_advances (place : atStation s.kou.take o = some e)
    (advances : e.incarnation = inc ∧ newer b.sequence e.lastSent = true) : recordSent (.data o inc b) s =
      tellOwnSpool o inc (s.onKou fun k => { k with take := s.sentTake o b e }) := by
  rw [recordSent, place]
  exact if_pos advances

theorem recordSent_stays (stays : ∀ e, atStation s.kou.take o = some e →
    e.incarnation ≠ inc ∨ newer b.sequence e.lastSent = false) : recordSent (.data o inc b) s = s := by
  rw [recordSent]
  cases place : atStation s.kou.take o with
  | none => rfl
  | some e =>
    refine if_neg fun advances => ?_
    obtain other | older := stays e place
    · exact other advances.1
    · rw [older] at advances
      exact nomatch advances.2

end

theorem tellOwnSpool_only (o : Nat) (inc : Word) (s : State) :
    tellOwnSpool o inc s = { s with ksp := (tellOwnSpool o inc s).ksp } := by
  by_cases own : s.isOwn o inc
  · rw [tellOwnSpool_own own]
  · rw [tellOwnSpool_other own]

/-- A record that completes changes the take table of the outlet alone, and the spool. -/
theorem recordSent_kou (q : ArchiveRecord) (s : State) : ∃ take ksp,
    recordSent q s = { s with kou := { s.kou with take := take }, ksp := ksp } := by
  cases q with
  | join o inc first => exact ⟨_, _, rfl⟩
  | data o inc b =>
    by_cases advances : ∃ e, atStation s.kou.take o = some e ∧ e.incarnation = inc ∧
        newer b.sequence e.lastSent = true
    · obtain ⟨e, place, advances⟩ := advances
      exact ⟨_, _, (recordSent_advances place advances).trans (tellOwnSpool_only _ _ _)⟩
    · refine ⟨_, _, recordSent_stays fun e place => ?_⟩
      by_cases same : e.incarnation = inc
      · exact .inr (Bool.eq_false_iff.2 fun newer_ => advances ⟨e, place, same, newer_⟩)
      · exact .inl same

/-- The outlet with the buffer of the SENDING record FREE and the record counted. -/
def Kou.sent (k : Kou) : Kou := { k with
  lines := dropSending k.lines
  counts := { k.counts with archSent := up k.counts.archSent } }

theorem exec_archiveRecordComplete {s : State} {q : ArchiveRecord} (sending : sendingRecord s.kou.lines = some q) :
    exec .archiveRecordComplete s = .next (settle (archiveSettle (recordSent q (s.onKou Kou.sent)))) := by
  have sends : archiveRecordSent s = archiveSettle (recordSent q (s.onKou Kou.sent)) := by
    rw [archiveRecordSent, sending]
    rfl
  exact congrArg (fun t => Host.Outcome.next (settle t)) sends

theorem exec_archiveRecordComplete_none {s : State} (none_ : sendingRecord s.kou.lines = none) :
    exec .archiveRecordComplete s = .next (settle s) := by
  have waits : archiveRecordSent s = s := by rw [archiveRecordSent, none_]
  exact congrArg (fun t => Host.Outcome.next (settle t)) waits

/-- The state after a look of the outlet, by what the state before it holds. -/
theorem archiveSettle_spec (v : State) : archiveSettle v = { v with kou := (archiveSettle v).kou } ∧
    (archiveSettle v).kou.take = v.kou.take ∧ (archiveSettle v).kou.counts = v.kou.counts ∧
    (archiveSettle v).kou.ready = v.kou.ready ∧ (archiveSettle v).kou.records = v.kou.records :=
  ⟨rfl, v.kou.look_keeps v.keepRole⟩

/-- The completion of a DATA record that advances last sent, at the own spool (R155, R165). -/
theorem recordSent_sent {s : State} {o : Nat} {inc : Word} {b : KeepBody} {e : TakeEntry}
    (place : atStation s.kou.take o = some e) (advances : e.incarnation = inc ∧ newer b.sequence e.lastSent = true) :
    let t := recordSent (.data o inc b) (s.onKou Kou.sent)
    t.kou.take = s.sentTake o b e ∧
    (s.isOwn o inc → t.ksp = (recomputeFree { s with kou := { s.kou with take := s.sentTake o b e } }).ksp) ∧
    (¬ s.isOwn o inc → t.ksp = s.ksp) := by
  intro t
  let v : State := { s with kou := { s.kou with take := s.sentTake o b e } }
  have sent : t = tellOwnSpool o inc (v.onKou Kou.sent) :=
    recordSent_advances (s := s.onKou Kou.sent) place advances
  have told : recomputeFree (v.onKou Kou.sent) = (recomputeFree v).onKou Kou.sent :=
    recomputeFree_onKou (f := Kou.sent) (s := v) rfl
  rw [sent]
  refine ⟨?_, fun own => ?_, fun other => ?_⟩
  · rw [tellOwnSpool_only]
    rfl
  · rw [tellOwnSpool_own (s := v.onKou Kou.sent) own, told]
    rfl
  · rw [tellOwnSpool_other (s := v.onKou Kou.sent) other]
    rfl

/-- Settles O51: the delivery, the judgement by its rows, the place and the records of each result, the frame
taken, and the three events of the archive line. -/
theorem keepOutletTakesAndSends : Obligations.KeepOutletTakesAndSends := by
  unfold Obligations.KeepOutletTakesAndSends
  refine ⟨fun s own frame => ⟨fun role => if_pos role, fun role => if_neg (by
      rw [show s.delivers .keep own = s.keepRole from rfl, role]; exact nofun)⟩,
    fun inc n floor room => ⟨rfl, fun e => ⟨judgeKeep_renews, judgeKeep_stale, fun same =>
      ⟨judgeKeep_next same, judgeKeep_duplicate same, fun beyond newer_ => ?_, fun beyond older => ?_,
        judgeKeep_opposite same⟩⟩⟩,
    fun k o inc floor b low high size => ?_, fun s o inc b floor => ?_, fun s =>
      ⟨exec_archiveRecordComplete_none, fun q sending => ?_, ?_, rfl⟩⟩
  case refine_1 => exact (judgeKeep_beyond same beyond).trans (if_pos newer_)
  case refine_2 => exact (judgeKeep_beyond same beyond).trans (if_neg (by rw [older]; exact nofun))
  case refine_3 =>
    intro place queue
    have high' : o ≤ k.take.length := by omega
    refine ⟨Kou.takeInto_place low high', rfl, fun e held => ?_, rfl, fun at_ => ?_, fun beyond => ?_,
      fun r refused => ?_⟩
    · obtain ⟨c, judged⟩ := Kou.judged_taken (inc := inc) (floor := floor) (b := b) held
      exact (congrArg (fun k : Kou => atStation k.take o) judged).trans (Kou.takeInto_place low high')
    · obtain ⟨c, judged⟩ := Kou.judged_gap_floor (o := o) (inc := inc) (k := k) at_
      exact ⟨(congrArg (fun k : Kou => atStation k.take o) judged).trans (Kou.takeInto_place low high'),
        congrArg Kou.queue judged⟩
    · obtain ⟨c, judged⟩ := Kou.judged_gap_beyond (o := o) (inc := inc) (k := k) beyond
      exact ⟨(congrArg (fun k : Kou => atStation k.take o) judged).trans (Kou.takeInto_place low high'),
        congrArg Kou.queue judged⟩
    · obtain ⟨c, judged⟩ := Kou.judged_refused (o := o) (inc := inc) (floor := floor) (b := b) (k := k) refused
      exact ⟨(congrArg (fun k : Kou => atStation k.take o) judged :), (congrArg Kou.queue judged :)⟩
  case refine_4 =>
    intro r k t own
    refine ⟨takeKeep_before, fun armed => ?_⟩
    obtain ⟨moves, stays⟩ := takeKeep_armed (o := o) (inc := inc) (floor := floor) (b := b) armed
    have lines : (s.kou.judged o inc b floor r).lines = s.kou.lines := Kou.judged_lines ..
    obtain ⟨take, counts, -, records⟩ := k.look_keeps s.keepRole
    have ordered : (k.look s.keepRole).lines.map LineBuffer.record ++ (k.look s.keepRole).queue =
        s.kou.lines.map LineBuffer.record ++ k.queue := by
      rw [← lines]
      exact records
    by_cases tells : s.isOwn o inc ∧ (r = .start ∨ r = .gap)
    · have eq : t = { s with kou := k.look s.keepRole, ksp := (recomputeFree { s with kou := k }).ksp } :=
        moves tells.1 tells.2
      rw [eq]
      refine ⟨rfl, take, counts, ordered, fun _ _ => rfl, fun quiet => ?_⟩
      obtain ⟨noStart, noGap⟩ := quiet.resolve_left (Classical.not_not.2 tells.1)
      exact (tells.2.elim noStart noGap).elim
    · have eq : t = { s with kou := k.look s.keepRole } := stays (by
        rw [← not_or, ← Classical.not_and_iff_not_or_not]
        exact tells)
      rw [eq]
      exact ⟨rfl, take, counts, ordered, fun mine moves => absurd ⟨mine, moves⟩ tells, fun _ => rfl⟩
  case refine_5 =>
    let v := recordSent q (s.onKou Kou.sent)
    obtain ⟨only, take, counts, -, records⟩ := archiveSettle_spec v
    obtain ⟨takes, ksp, sent⟩ := recordSent_kou q (s.onKou Kou.sent)
    have kou : v.kou = { s.kou.sent with take := takes } := congrArg State.kou sent
    have rest : v = { s with kou := v.kou, ksp := v.ksp } := by
      show recordSent q (s.onKou Kou.sent) = _
      rw [show v = _ from sent, sent]
      rfl
    refine ⟨archiveSettle v, exec_archiveRecordComplete sending, ?_, ?_, ?_, ?_, ?_⟩
    · rw [only, rest]
    · rw [counts, kou]
      rfl
    · refine records.trans ?_
      rw [kou]
      rfl
    · rintro o inc first rfl
      exact ⟨take, rfl⟩
    · rintro o inc b rfl
      refine ⟨?_, fun stays => ?_⟩
      · intro e place same newer_ sentTake
        obtain ⟨advanced, own, other⟩ := recordSent_sent place ⟨same, newer_⟩
        exact ⟨take.trans advanced, own, other⟩
      · have same : v = s.onKou Kou.sent := recordSent_stays (s := s.onKou Kou.sent) stays
        exact ⟨take.trans (congrArg (fun t => t.kou.take) same), (congrArg State.ksp same :)⟩
  case refine_6 =>
    let v := s.onKou fun k => { k with ready := true }
    obtain ⟨only, take, counts, ready, records⟩ := archiveSettle_spec v
    exact ⟨archiveSettle v, rfl, only, ready, take, counts, records, fun empty =>
      Kou.look_empty (k := v.kou) s.keepRole empty rfl⟩

end Sys2Proof.Machine
end

section
/-! The attention pin and the first-cause law (O52). -/

namespace Sys2Proof.Machine

/-! ### The pending mask (R182) -/

theorem causeBits_scale (k : Nat) (l : List (Option Cause)) : causeBits k l = k * causeBits 1 l := by
  induction l generalizing k with
  | nil => rfl
  | cons o rest ih =>
    rw [causeBits, causeBits, ih (2 * k), ih (2 * 1), Nat.mul_add]
    congr 1
    · split <;> simp
    · rw [Nat.mul_comm 2 k, Nat.mul_assoc]

theorem causeBits_testBit (l : List (Option Cause)) (i : Nat) :
    (causeBits 1 l).testBit i = (l.getD i none).isSome := by
  induction l generalizing i with
  | nil => simp [causeBits]
  | cons o rest ih =>
    rw [causeBits, causeBits_scale (2 * 1)]
    cases i with
    | zero =>
      rw [Nat.testBit_zero]
      cases o <;> simp [Nat.add_mod]
    | succ i =>
      rw [Nat.testBit_succ, List.getD_cons_succ, ← ih i]
      congr 1
      split <;> omega

theorem Csu.pendingMask_bit (u : Csu) {i : Nat} (h : i < 11) :
    u.pendingMask.getLsbD i = (u.pendingAttn.getD i none).isSome := by
  rw [Csu.pendingMask, BitVec.getLsbD_ofNat, decide_eq_true h, Bool.true_and, causeBits_testBit]

theorem AttnClass.rank_onto : ∀ i < 11, ∃ a ∈ attnClasses, a.rank = i := by
  decide

/-- The pin is asserted exactly while a class is pending and enabled (R181). -/
theorem Csu.attnAsserted_iff (u : Csu) : u.attnAsserted = true ↔ ∃ a : AttnClass,
    (u.pendingAttn.getD a.rank none).isSome = true ∧ u.enableMask.getLsbD a.rank = true := by
  rw [Csu.attnAsserted, decide_eq_true_iff]
  constructor
  · intro asserted
    refine Classical.byContradiction fun none_ => ?_
    refine asserted (BitVec.eq_of_getLsbD_eq fun i h => ?_)
    obtain ⟨a, -, rfl⟩ := AttnClass.rank_onto i h
    show _ = BitVec.getLsbD 0#11 a.rank
    rw [BitVec.getLsbD_and, Csu.pendingMask_bit u h, BitVec.getLsbD_zero, Bool.and_eq_false_iff,
      Bool.eq_false_iff, Bool.eq_false_iff, ← Classical.not_and_iff_not_or_not]
    exact fun both => none_ ⟨a, both⟩
  · rintro ⟨a, pending, enabled⟩ zero
    have bit : (u.pendingMask &&& u.enableMask).getLsbD a.rank = false := by
      rw [zero]
      exact BitVec.getLsbD_zero
    rw [BitVec.getLsbD_and, Csu.pendingMask_bit u a.rank_lt, pending, enabled] at bit
    exact nomatch bit

/-! ### A raise (R180) -/

theorem modifyAt_getD {α : Type} (f : α → α) (k : Nat) (xs : List α) (j : Nat) (d : α) (h : j < xs.length) :
    (modifyAt f k xs).getD j d = if j = k then f (xs.getD j d) else xs.getD j d := by
  rw [List.getD_eq_getElem?_getD, modifyAt_getElem?, List.getD_eq_getElem?_getD, List.getElem?_eq_getElem h]
  split <;> rfl

section
variable {u : Csu} {c : AttnClass} {cause : Cause}

theorem Csu.raise_pending (pending : u.pendingAttn.length = 11) (a : AttnClass) :
    (u.raise c cause).pendingAttn.getD a.rank none =
      if a = c then some ((u.pendingAttn.getD a.rank none).getD cause) else u.pendingAttn.getD a.rank none := by
  rw [Csu.raise, modifyAt_getD _ _ _ _ _ (lt_of_lt_of_eq a.rank_lt pending.symm)]
  simp only [AttnClass.rank_inj]

theorem Csu.raise_raised (raised : u.attnRaised.length = 11) (a : AttnClass) :
    (u.raise c cause).attnRaised.getD a.rank 0 =
      if a = c then up (u.attnRaised.getD a.rank 0) else u.attnRaised.getD a.rank 0 := by
  rw [Csu.raise, modifyAt_getD _ _ _ _ _ (lt_of_lt_of_eq a.rank_lt raised.symm)]
  simp only [AttnClass.rank_inj]

end

/-! ### What is taken keeps the first cause of a pending class -/

/-- A class is pending with its first cause. -/
def State.HoldsCause (a : AttnClass) (cause : Cause) (s : State) : Prop :=
  s.csu.pendingAttn.getD a.rank none = some cause

theorem State.CausesKept.holds {a : AttnClass} {cause : Cause} (s t : State) (kept : s.CausesKept t)
    (held : s.HoldsCause a cause) : t.HoldsCause a cause := kept.first _ _ held

/-- Any command but a reset, CLEAR ATTN and what may bring one keeps a pending class and its first cause. -/
theorem commandOps_holdsCause {c : Instr} {a : AttnClass} {cause : Cause}
    (reset : ¬ (c = .powerOnReset ∨ c = .consoleReset)) (line : ¬ takesLine c) (clear : ∀ m, c ≠ .clearAttn m) :
    CommandOps c (State.HoldsCause a cause) where
  toBlockOps := .of_causes State.CausesKept.holds
  loaded _ c d _ _ _ held := (applyLoad_causesKept c d _).first _ _ held
  zeroed _ held := held
  armed _ s _ _ held := (armed_causesKept s).first _ _ held
  clearAttn may := absurd may (not_or.2 ⟨fun ⟨m, same⟩ => clear m same, line⟩)
  reset may := absurd may reset

/-- Settles O52: the ranks, a raise, the pin by the bits of the two masks, and the causes that every other command
keeps. -/
theorem attentionPin : Obligations.AttentionPin := by
  unfold Obligations.AttentionPin
  refine ⟨rfl, fun u c cause pending raised => ?_, fun u _ => u.attnAsserted_iff,
    fun c s t a cause taken power console line break_ clear held => ?_⟩
  · refine ⟨rfl, (modifyAt_length _ _ _).trans pending, (modifyAt_length _ _ _).trans raised,
      (Csu.raise_pending pending c).trans (if_pos rfl), (Csu.raise_raised raised c).trans (if_pos rfl),
      fun a other => ⟨(Csu.raise_pending pending a).trans (if_neg other),
        (Csu.raise_raised raised a).trans (if_neg other)⟩⟩
  · exact (commandOps_holdsCause (not_or.2 ⟨power, console⟩) (not_or.2 ⟨line, break_⟩) clear).exec taken held

end Sys2Proof.Machine
end

section
/-! The lanes that ARM enables, and its first BEACON (O7). -/

namespace Sys2Proof.Machine

/-! ### The lanes of one port (R59, R66) -/

/-- A lane as ARM enables it: a CLOSED one moves by the neighbour record. -/
def LaneState.enabling (l : LaneState) (enable seen : Bool) : LaneState :=
  if l = .closed then laneOnUp true enable seen else l

/-- A port with its lanes enabled. -/
def Port.enabling (x : Port) : Port :=
  match x.link, x.neighbour with
  | .up, some h => x.setLanes (x.lane1.enabling h.enable1 h.seen1) (x.lane2.enabling h.enable2 h.seen2)
  | _, _ => x

theorem Port.enabling_up {x : Port} {h : Neighbour} (up : x.link = .up) (held : x.neighbour = some h) :
    x.enabling = x.setLanes (x.lane1.enabling h.enable1 h.seen1) (x.lane2.enabling h.enable2 h.seen2) := by
  rw [Port.enabling, up, held]

theorem Port.enabling_notUp {x : Port} (notUp : x.link ≠ .up) : x.enabling = x := by
  unfold Port.enabling
  split
  next up _ => exact absurd up notUp
  next => rfl

theorem Port.setLanes_steady {x y : Port} (same : x.Steady y) (l1 l2 : LaneState) :
    (x.setLanes l1 l2).Steady (y.setLanes l1 l2) :=
  ⟨same.link, same.carrier, same.neighbour, same.cause, same.silence, same.seen1, same.seen2, rfl, rfl,
    same.heldUntil⟩

theorem Port.enabling_steady {x y : Port} (same : x.Steady y) : x.enabling.Steady y.enabling := by
  unfold Port.enabling
  rw [same.link, same.neighbour, same.lane1, same.lane2]
  split
  · exact Port.setLanes_steady same _ _
  · exact same

/-- A lane is as it was or has left CLOSED. -/
theorem LaneState.enabling_ne {l : LaneState} (closed : l = .closed) (enable seen : Bool) :
    l ≠ l.enabling enable seen := by
  rw [LaneState.enabling, if_pos closed, closed]
  cases enable
  · exact nofun
  · cases seen <;> exact nofun

theorem enablePort_up {p : PortId} {s : State} {h : Neighbour} (up : (s.port p).link = .up)
    (held : (s.port p).neighbour = some h) : enablePort p s = moveLanes p
      ((s.port p).lane1.enabling h.enable1 h.seen1) ((s.port p).lane2.enabling h.enable2 h.seen2) s := by
  rw [enablePort, up, held]
  rfl

theorem enablePort_still {p : PortId} {s : State} (still : ∀ h, (s.port p).link = .up → (s.port p).neighbour ≠ some h) :
    enablePort p s = s := by
  unfold enablePort
  dsimp only
  split
  next h up held => exact absurd held (still h up)
  next => rfl

theorem enablePort_steady (p : PortId) (s : State) : (s.onPort p Port.enabling).Steady (enablePort p s) := by
  by_cases moves : (s.port p).link = .up ∧ ∃ h, (s.port p).neighbour = some h
  · obtain ⟨up, h, held⟩ := moves
    rw [enablePort_up up held, State.onPort_congr (g := fun x => x.setLanes
      ((s.port p).lane1.enabling h.enable1 h.seen1) ((s.port p).lane2.enabling h.enable2 h.seen2))
      (Port.enabling_up up held)]
    exact moveLanes_steady _ _ _ _
  · have none_ (h : Neighbour) (up : (s.port p).link = .up) : (s.port p).neighbour ≠ some h :=
      fun held => moves ⟨up, h, held⟩
    have same : (s.port p).enabling = s.port p := by
      unfold Port.enabling
      split
      next h up held => exact absurd held (none_ h up)
      next => rfl
    rw [enablePort_still none_, State.onPort_id same]
    exact .refl _

/-! ### Both ports -/

/-- Where the lanes were not enabled, what each port learnt of its link is as the enabling leaves it. -/
theorem enableLanes_steady {s : State} (off : s.lku.enabled = false) (p : PortId) :
    (s.port p).enabling.Steady ((enableLanes s).port p) := by
  let v := s.onLku fun k => { k with enabled := true }
  have enables : enableLanes s = enablePort .b (enablePort .a v) := if_neg (by rw [off]; exact nofun)
  have atA := enablePort_steady .a v
  have atB := enablePort_steady .b (enablePort .a v)
  rw [enables]
  cases p with
  | a => exact (atA .a).trans (atB .a)
  | b => exact (Port.enabling_steady (atA .b)).trans (atB .b)

theorem enableLanes_again {s : State} (on : s.lku.enabled = true) : enableLanes s = s := if_pos on

/-! ### The extra HELLO (R45, R59) -/

theorem offerHello_other (p : PortId) (s : State) : (offerHello (other p) s).port p = s.port p := by
  unfold offerHello
  dsimp only
  split
  · rfl
  · split
    · exact State.onPort_apart p _ s
    · rw [startLinkLocal_other]
      exact State.onPort_apart p _ s

section
variable {p : PortId} {s : State}

theorem lane2Fell_calm (calm : (s.port p).refreshAt = none) : lane2Fell p s = s :=
  if_neg (by rw [Port.congested, calm]; exact nofun)

theorem moveLanes_calm (calm : (s.port p).refreshAt = none) (l1 l2 : LaneState) : moveLanes p l1 l2 s =
    if (s.port p).lane1 = l1 ∧ (s.port p).lane2 = l2 then s.onPort p fun x => x.setLanes l1 l2
    else offerHello p (s.onPort p fun x => x.setLanes l1 l2) := by
  have fell : lane2Fell p (s.onPort p fun x => x.setLanes l1 l2) = s.onPort p fun x => x.setLanes l1 l2 :=
    lane2Fell_calm (by rw [State.onPort_port]; exact calm)
  rw [moveLanes, fell]

end

/-- The lanes of a port that is not congested move without touching the other port. -/
theorem enablePort_other {p : PortId} {s : State} (calm : (s.port (other p)).refreshAt = none) :
    (enablePort (other p) s).port p = s.port p := by
  by_cases moves : (s.port (other p)).link = .up ∧ ∃ h, (s.port (other p)).neighbour = some h
  · obtain ⟨up, h, held⟩ := moves
    rw [enablePort_up up held, moveLanes_calm calm]
    split
    · exact State.onPort_apart p _ s
    · rw [offerHello_other]
      exact State.onPort_apart p _ s
  · rw [enablePort_still fun h up held => moves ⟨up, h, held⟩]

/-- A HELLO that is offered to a busy port waits, and to an idle one starts. -/
theorem offerHello_waits {p : PortId} {s : State} (busy : (s.port p).tx ≠ none)
    (fresh : .hello ∉ (s.port p).linkQueue) (room : (s.port p).linkQueue.length < 2) :
    (offerHello p s).port p = { s.port p with linkQueue := (s.port p).linkQueue ++ [.hello] } := by
  unfold offerHello
  dsimp only
  rw [if_neg (by rw [List.contains_iff_mem]; exact fresh), if_neg (Nat.not_le.2 room)]
  unfold startLinkLocal
  split
  next idle _ => exact absurd (by rw [State.onPort_port] at idle; exact idle) busy
  next idle _ => exact absurd (by rw [State.onPort_port] at idle; exact idle) busy
  next => exact State.onPort_port _ _ _

theorem offerHello_starts {p : PortId} {s : State} (idle : (s.port p).tx = none) (empty : (s.port p).linkQueue = []) :
    ((offerHello p s).port p).linkQueue = [] ∧ ∃ b, ((offerHello p s).port p).tx = some (.hello b) := by
  unfold offerHello
  dsimp only
  rw [empty, if_neg (by exact nofun), if_neg (by exact nofun)]
  let t := s.onPort p fun x => { x with linkQueue := x.linkQueue ++ [.hello] }
  have waits : (t.port p).linkQueue = .hello :: [] := by
    rw [State.onPort_port]
    show (s.port p).linkQueue ++ _ = _
    rw [empty]
    rfl
  have still : (t.port p).tx = none := by
    rw [State.onPort_port]
    exact idle
  show ((startLinkLocal p t).port p).linkQueue = [] ∧ _
  have starts : startLinkLocal p t =
      t.onPort p fun x => { x with linkQueue := [], tx := some (.hello (helloBytes t p)) } := by
    rw [startLinkLocal, still, waits]
  show ((startLinkLocal p t).port p).linkQueue = [] ∧ ∃ b, ((startLinkLocal p t).port p).tx = some (.hello b)
  rw [starts, State.onPort_port]
  exact ⟨rfl, _, rfl⟩

/-- Where neither port is congested, the lanes of each are enabled apart. -/
theorem enableLanes_apart {s : State} (off : s.lku.enabled = false) (calm : ∀ q, (s.port q).refreshAt = none)
    (p : PortId) : ∃ v : State, v.port p = s.port p ∧ (enableLanes s).port p = (enablePort p v).port p := by
  let v := s.onLku fun k => { k with enabled := true }
  have enables : enableLanes s = enablePort .b (enablePort .a v) := if_neg (by rw [off]; exact nofun)
  have atB : (enablePort .a v).port .b = s.port .b := enablePort_other (p := .b) (s := v) (calm .a)
  rw [enables]
  cases p with
  | a => exact ⟨v, rfl, enablePort_other (p := .a) (by
      rw [show other .a = PortId.b from rfl, atB]
      exact calm .b)⟩
  | b => exact ⟨_, atB, rfl⟩

/-- A port whose lanes move takes an extra HELLO. -/
theorem enablePort_hello {p : PortId} {s : State} {h : Neighbour} (calm : (s.port p).refreshAt = none)
    (up : (s.port p).link = .up) (held : (s.port p).neighbour = some h)
    (closed : (s.port p).lane1 = .closed ∨ (s.port p).lane2 = .closed) : ∃ l1 l2,
    enablePort p s = offerHello p (s.onPort p fun x => x.setLanes l1 l2) := by
  refine ⟨_, _, (enablePort_up up held).trans ((moveLanes_calm calm _ _).trans (if_neg ?_))⟩
  rintro ⟨same1, same2⟩
  obtain closed | closed := closed
  · exact LaneState.enabling_ne closed _ _ same1
  · exact LaneState.enabling_ne closed _ _ same2

/-- The extra HELLO of a port whose lanes ARM moves: behind the waiting ones of a busy port, and at once on an
idle one. -/
theorem enableLanes_hello {s : State} {p : PortId} {h : Neighbour} (off : s.lku.enabled = false)
    (calm : ∀ q, (s.port q).refreshAt = none) (up : (s.port p).link = .up) (held : (s.port p).neighbour = some h)
    (closed : (s.port p).lane1 = .closed ∨ (s.port p).lane2 = .closed) :
    let x := s.port p
    let y := (enableLanes s).port p
    (x.tx ≠ none → .hello ∉ x.linkQueue → x.linkQueue.length < 2 →
      y.linkQueue = x.linkQueue ++ [.hello] ∧ y.tx = x.tx) ∧
    (x.tx = none → x.linkQueue = [] → y.linkQueue = [] ∧ ∃ b, y.tx = some (.hello b)) := by
  intro x y
  obtain ⟨v, same, apart⟩ := enableLanes_apart off calm p
  have same' : v.port p = x := same
  obtain ⟨l1, l2, moves⟩ := enablePort_hello (p := p) (s := v) (h := h) (by rw [same]; exact calm p)
    (by rw [same]; exact up) (by rw [same]; exact held) (by rw [same]; exact closed)
  let u := v.onPort p fun x => x.setLanes l1 l2
  have here : u.port p = x.setLanes l1 l2 := by rw [State.onPort_port, same']
  have lands : y = (offerHello p u).port p := by rw [← moves]; exact apart
  rw [lands]
  refine ⟨fun busy fresh room => ?_, fun idle empty => ?_⟩
  · rw [offerHello_waits (by rw [here]; exact busy) (by rw [here]; exact fresh) (by rw [here]; exact room), here]
    exact ⟨rfl, rfl⟩
  · exact offerHello_starts (by rw [here]; exact idle) (by rw [here]; exact empty)

/-! ### The first BEACON (R77, R118) -/

/-- A busy port keeps its transmitter and its link-local queue while a frame is offered to its lane 0. -/
theorem offerFrame_lane0_busy {p : PortId} {s : State} (f : Bytes) (busy : (s.port p).tx ≠ none) :
    ((offerFrame p 0 f s).port p).linkQueue = (s.port p).linkQueue ∧
    ((offerFrame p 0 f s).port p).tx = (s.port p).tx := by
  cases answer : (s.port p).offer 0 with
  | notOpen => rw [offerFrame_notOpen f answer]; exact ⟨rfl, rfl⟩
  | full =>
    rw [offerFrame_full f answer, State.countPort, State.onPort_port]
    exact ⟨rfl, rfl⟩
  | queued =>
    obtain ⟨up_, room⟩ := ((s.port p).offer_iff 0).1.mp answer
    rw [offerFrame_lane0_behind f (beq_iff_eq.1 up_) room busy, State.onPort_port]
    exact ⟨rfl, rfl⟩

theorem sendBeacon_busy {p : PortId} {s : State} (busy : (s.port p).tx ≠ none) :
    ((sendBeacon s).port p).linkQueue = (s.port p).linkQueue ∧ ((sendBeacon s).port p).tx = (s.port p).tx := by
  cases speaks : s.dlu.muted with
  | some m =>
    rw [sendBeacon, originate_declined (by rw [speaks]; rfl)]
    exact ⟨rfl, rfl⟩
  | none =>
    rw [sendBeacon_eq speaks]
    generalize ringBytes .beacon s.nextHeader (beaconBytes s.beaconBody) = f
    show ((offerFrame .b 0 f (offerFrame .a 0 f s)).port p).linkQueue = _ ∧
      ((offerFrame .b 0 f (offerFrame .a 0 f s)).port p).tx = _
    cases p with
    | a =>
      rw [show (offerFrame .b 0 f (offerFrame .a 0 f s)).port .a = (offerFrame .a 0 f s).port .a from
        offerFrame_lane0_other .a f _]
      exact offerFrame_lane0_busy f busy
    | b =>
      have same : (offerFrame .a 0 f s).port .b = s.port .b := offerFrame_lane0_other .b f s
      have offered := offerFrame_lane0_busy (p := .b) (s := offerFrame .a 0 f s) f (by rw [same]; exact busy)
      rw [same] at offered
      exact offered

/-- What a BEACON that is sent, or declined while MUTED, leaves of the Data Link Unit and of the cues and peers. -/
theorem sendBeacon_units (s : State) : (sendBeacon s).pcu = { s.pcu with beaconAt := some (s.now + 50000000) } ∧
    (sendBeacon s).dlu.nextSeq = (if s.dlu.muted.isSome then s.dlu.nextSeq else s.dlu.nextSeq + 1) ∧
    (sendBeacon s).dlu.filter = s.dlu.filter ∧ (sendBeacon s).dlu.muted = s.dlu.muted := by
  cases speaks : s.dlu.muted with
  | some m =>
    rw [sendBeacon, originate_declined (by rw [speaks]; rfl)]
    exact ⟨rfl, rfl, rfl, speaks⟩
  | none =>
    rw [sendBeacon_eq speaks]
    generalize ringBytes .beacon s.nextHeader (beaconBytes s.beaconBody) = f
    exact ⟨rfl, rfl, rfl, speaks⟩

end Sys2Proof.Machine
end

section
/-! The roster that ARM fills, and ARM itself (O7). -/

namespace Sys2Proof.Machine

/-! ### The static entries (R92) -/

theorem staticEntry_foldl (xs : List StaticEntry) : ∀ es : List RosterEntry,
    (xs.map fun x => (staticEntry x).track).Nodup → ∀ track,
    findClaim track (xs.foldl (fun es x => putEntry (staticEntry x) es) es) =
      ((xs.find? fun x => (staticEntry x).track == track).map fun x => (staticEntry x).claim).or
        (findClaim track es) := by
  induction xs with
  | nil => exact fun _ _ _ => rfl
  | cons x xs ih =>
    intro es distinct track
    obtain ⟨fresh, distinct⟩ := List.nodup_cons.1 distinct
    rw [List.foldl_cons, ih _ distinct, findClaim_putEntry]
    by_cases here : (staticEntry x).track = track
    · have gone : (xs.find? fun y => (staticEntry y).track == track) = none := by
        rw [List.find?_eq_none]
        intro y among same
        exact fresh (List.mem_map.mpr ⟨y, among, (beq_iff_eq.1 same).trans here.symm⟩)
      rw [gone, if_pos here, List.find?_cons_of_pos (by simp [here])]
      rfl
    · rw [if_neg here, List.find?_cons_of_neg (by simp [here])]

theorem staticEntry_foldl_length (xs : List StaticEntry) : ∀ es : List RosterEntry,
    (xs.foldl (fun es x => putEntry (staticEntry x) es) es).length ≤ es.length + xs.length := by
  induction xs with
  | nil => exact fun _ => Nat.le_refl _
  | cons x xs ih =>
    intro es
    have longer := putEntry_length (staticEntry x) es
    have rest := ih (putEntry (staticEntry x) es)
    rw [List.foldl_cons, List.length_cons]
    omega

/-! ### The violations of patched channels whose track is static (R92, Table 6-4) -/

/-- The violation of a patched channel whose track has a static entry, with its cause. -/
def clashWith (own : Nat) (track : Nat) : StaticEntry → Violation × Cause
  | .pin _ o _ => (.doubleClaim, .claim .doubleClaim track o)
  | .bar _ => (.barred, .claim .barred track own)

/-- The counters of the roster with violations counted. -/
def RstCounts.clashed (c : RstCounts) (cs : List (Violation × Cause)) : RstCounts := { c with
  claimDouble := upBy c.claimDouble (cs.filter fun x => x.1 == .doubleClaim).length
  claimBarred := upBy c.claimBarred (cs.filter fun x => x.1 == .barred).length }

theorem RstCounts.clashed_nil (c : RstCounts) : c.clashed [] = c := by
  simp only [RstCounts.clashed, List.filter_nil, List.length_nil, upBy_zero]

theorem RstCounts.clashed_append (c : RstCounts) (cs ds : List (Violation × Cause)) :
    (c.clashed cs).clashed ds = c.clashed (cs ++ ds) := by
  simp only [RstCounts.clashed, List.filter_append, List.length_append, upBy_upBy]

theorem RstCounts.clashed_double (c : RstCounts) (x : Cause) :
    c.clashed [(.doubleClaim, x)] = Violation.doubleClaim.count c := by
  simp [RstCounts.clashed, Violation.count, upBy_one, upBy_zero]

theorem RstCounts.clashed_barred (c : RstCounts) (x : Cause) :
    c.clashed [(.barred, x)] = Violation.barred.count c := by
  simp [RstCounts.clashed, Violation.count, upBy_one, upBy_zero]

/-- Between two states violations were counted, and their causes raised in turn. -/
structure State.Clashes (cs : List (Violation × Cause)) (s t : State) : Prop where
  counts : t.rst.counts = s.rst.counts.clashed cs
  csu : t.csu = s.csu.raiseAll .claim (cs.map fun x => x.2)

theorem State.clashes_none {s t : State} (counts : t.rst.counts = s.rst.counts) (csu : t.csu = s.csu) :
    State.Clashes [] s t := ⟨counts.trans (RstCounts.clashed_nil _).symm, csu⟩

theorem State.Clashes.append {cs ds : List (Violation × Cause)} {s t u : State} (first : State.Clashes cs s t)
    (rest : State.Clashes ds t u) : State.Clashes (cs ++ ds) s u := by
  refine ⟨rest.counts.trans ?_, rest.csu.trans ?_⟩
  · rw [first.counts, RstCounts.clashed_append]
  · rw [first.csu, List.map_append, Csu.raiseAll_append]

/-- One patched channel whose track is held by a static entry, or free with room. -/
theorem makeLocal_clashes {s : State} (e : PatchEntry) (static : Option StaticEntry)
    (entry : findClaim e.track s.rst.entries = static.map fun x => (staticEntry x).claim)
    (room : s.rst.entries.length < 320) :
    State.Clashes (static.map (clashWith s.ownId e.track)).toList s (makeLocal e s) := by
  cases static with
  | none =>
    rw [makeLocal_none entry, if_neg ((not_congr s.rst.full_iff).mpr (by omega))]
    exact State.clashes_none rfl rfl
  | some x =>
    cases x with
    | pin track o g =>
      rw [makeLocal_pin entry]
      exact ⟨(RstCounts.clashed_double _ _).symm, rfl⟩
    | bar track =>
      rw [makeLocal_bar entry]
      exact ⟨(RstCounts.clashed_barred _ _).symm, rfl⟩

/-- Patched channels of distinct tracks, each held by a static entry or free: the violations in channel order. -/
theorem makeLocals_clashes (static : Nat → Option StaticEntry) (ps : List (Nat × PatchEntry)) : ∀ {s : State},
    s.rst.entries.length + ps.length ≤ 320 → (ps.map fun p => p.2.track).Nodup →
    (∀ p ∈ ps, findClaim p.2.track s.rst.entries = (static p.2.track).map fun x => (staticEntry x).claim) →
    State.Clashes (ps.filterMap fun p => (static p.2.track).map (clashWith s.ownId p.2.track)) s
      (makeLocals ps s) := by
  induction ps with
  | nil => exact fun _ _ _ => State.clashes_none rfl rfl
  | cons p ps ih =>
    intro s room distinct held
    obtain ⟨fresh, distinct⟩ := List.nodup_cons.1 distinct
    rw [List.length_cons] at room
    obtain ⟨entries, length⟩ := makeLocal_entries (s := s) p.2 (by omega)
    have first := makeLocal_clashes p.2 (static p.2.track) (held p List.mem_cons_self) (by omega)
    have own : (makeLocal p.2 s).ownId = s.ownId := by
      rw [State.ownId, (makeLocal_foot p.2 s).config (by decide), State.ownId]
    have rest := ih (s := makeLocal p.2 s) (by omega) distinct fun q among => by
      have apart : p.2.track ≠ q.2.track := fun same => fresh (List.mem_map.mpr ⟨q, among, same.symm⟩)
      rw [entries, if_neg apart]
      exact held q (List.mem_cons_of_mem _ among)
    rw [own] at rest
    have split_ : (p :: ps).filterMap (fun p => (static p.2.track).map (clashWith s.ownId p.2.track)) =
        ((static p.2.track).map (clashWith s.ownId p.2.track)).toList ++
          ps.filterMap fun p => (static p.2.track).map (clashWith s.ownId p.2.track) := by
      cases here : static p.2.track with
      | none => exact List.filterMap_cons_none (by rw [here]; rfl)
      | some x => exact List.filterMap_cons_some (by rw [here]; rfl)
    rw [split_]
    exact first.append rest

/-! ### The roster that ARM fills (R92) -/

/-- The static entry of a track. -/
def State.staticOf (s : State) (track : Nat) : Option StaticEntry :=
  s.statics.find? fun x => (staticEntry x).track == track

/-- The patched channels whose group is PRIMED or ON. -/
def State.onAirChannels (s : State) : List (Nat × PatchEntry) :=
  s.patched.filter fun p => (s.cueValue p.2.group).onAir

section
variable {s : State} (few : s.statics.length ≤ 64)
  (apart : (s.statics.map fun x => (staticEntry x).track).Nodup)
  (channels : (s.patched.map fun p => p.2.track).Nodup)
include few apart channels

/-- The roster of the static entries alone, with room for each channel. -/
theorem staticRoster :
    let es := s.statics.foldl (fun es x => putEntry (staticEntry x) es) []
    (∀ track, findClaim track es = (s.staticOf track).map fun x => (staticEntry x).claim) ∧
    es.length + s.onAirChannels.length ≤ 320 ∧ (s.onAirChannels.map fun p => p.2.track).Nodup := by
  intro es
  refine ⟨fun track => ?_, ?_, (List.Sublist.map _ List.filter_sublist).nodup channels⟩
  · exact (staticEntry_foldl s.statics [] apart track).trans Option.or_none
  · have static : es.length ≤ [].length + s.statics.length := staticEntry_foldl_length s.statics []
    have patched := s.patched_length
    have onAir : s.onAirChannels.length ≤ s.patched.length := List.length_filter_le _ _
    rw [List.length_nil] at static
    omega

theorem fillRoster_entries (track : Nat) : findClaim track (fillRoster s).rst.entries =
    ((s.staticOf track).map fun x => (staticEntry x).claim).or
      ((s.onAirChannels.find? fun p => p.2.track == track).map fun p => .localTrack p.2.group) := by
  obtain ⟨static, room, distinct⟩ := staticRoster few apart channels
  let v := s.onRst fun r => { r with entries := s.statics.foldl (fun es x => putEntry (staticEntry x) es) [] }
  have made := makeLocals_entries s.onAirChannels (s := v) room distinct track
  rw [show findClaim track v.rst.entries = _ from static track] at made
  refine made.trans ?_
  cases s.onAirChannels.find? fun p => p.2.track == track with
  | none => exact Option.or_none.symm
  | some p =>
    cases s.staticOf track with
    | none => rfl
    | some x => cases x <;> rfl

theorem fillRoster_clashes : State.Clashes
    (s.onAirChannels.filterMap fun p => (s.staticOf p.2.track).map (clashWith s.ownId p.2.track)) s
    (fillRoster s) := by
  obtain ⟨static, room, distinct⟩ := staticRoster few apart channels
  let v := s.onRst fun r => { r with entries := s.statics.foldl (fun es x => putEntry (staticEntry x) es) [] }
  have made := makeLocals_clashes s.staticOf s.onAirChannels (s := v) room distinct fun p _ => static p.2.track
  exact ⟨made.counts, made.csu⟩

end

/-! ### ARM (R8) -/

theorem LaneState.enabling_eq (l : LaneState) (enable seen : Bool) : l.enabling enable seen =
    if l = .closed then (if enable = true ∧ seen = true then .opened else .pending) else l := by
  rw [LaneState.enabling, laneOnUp, if_pos rfl]
  simp only [Bool.and_eq_true]

theorem Port.enabling_link (x : Port) : x.enabling.link = x.link ∧ x.enabling.neighbour = x.neighbour := by
  unfold Port.enabling
  split
  · exact ⟨rfl, rfl⟩
  · exact ⟨rfl, rfl⟩

theorem enableLanes_digest (s : State) : (enableLanes s).lku.digest = s.lku.digest := by
  unfold enableLanes
  split
  · rfl
  · exact ((enablePort_foot _ _).link (by decide)).2.1.trans ((enablePort_foot _ _).link (by decide)).2.1

/-- ARM is granted in CONFIGURED and DONE, with the reference LOCKED and a newer house count. -/
theorem refuseArm_granted {s : State} {n : Word} (station : s.tlu.station = .configured ∨ s.tlu.station = .done)
    (locked : s.tlu.ref = .locked) (house : s.tlu.houseCount = some n)
    (ahead : ∀ i, s.tlu.incarnation = some i → newer n i = true) : refuseArm s = none := by
  have counts : s.armCount = true := by
    unfold State.armCount
    rw [house]
    cases held : s.tlu.incarnation with
    | none => rfl
    | some i => exact ahead i held
  have here : ¬ (s.tlu.station ≠ .configured ∧ s.tlu.station ≠ .done) := by
    rw [← not_or, Classical.not_not]
    exact station
  have ref : s.refLocked = true := by
    rw [State.refLocked, locked]
    rfl
  rw [refuseArm, if_neg here, if_neg (Classical.not_not.2 ⟨ref, counts⟩)]

/-- The station once ARM has set the blocks and filled the roster. -/
def State.armFilled (s : State) : State := fillRoster (armBlocks s.taken)

/-- The station once ARM has been taken. -/
def State.armedNow (s : State) : State := (sendBeacon (enableLanes s.armFilled)).replied .ok

theorem armEffect_taken (s : State) : armEffect s.taken = s.armedNow := rfl

theorem armFilled_foot (s : State) : Foot [.rst, .attn] (armBlocks s.taken) s.armFilled := fillRoster_foot _

theorem armLanes_foot (s : State) : Foot [.ports, .link, .dlu, .pcu] s.armFilled (sendBeacon (enableLanes s.armFilled)) :=
  (enableLanes_foot _).grow.seq (sendBeacon_foot _).grow

theorem armedNow_port (s : State) (p : PortId) :
    s.armFilled.port p = s.port p ∧ ((enableLanes s.armFilled).port p).Steady (s.armedNow.port p) :=
  ⟨(armFilled_foot s).port (by decide) p, sendBeacon_steady _ p⟩

/-- The lanes of each port once ARM has been taken. -/
theorem armedNow_lanes (s : State) (p : PortId) :
    let x := s.port p
    let y := s.armedNow.port p
    y.link = x.link ∧ y.neighbour = x.neighbour ∧
    (s.lku.enabled = true ∨ x.link ≠ .up → y.lane1 = x.lane1 ∧ y.lane2 = x.lane2) ∧
    (s.lku.enabled = false → x.link = .up → ∀ h, x.neighbour = some h →
      y.lane1 = x.lane1.enabling h.enable1 h.seen1 ∧ y.lane2 = x.lane2.enabling h.enable2 h.seen2) := by
  intro x y
  obtain ⟨same, steady⟩ := armedNow_port s p
  have enabled : s.armFilled.lku.enabled = s.lku.enabled := ((armFilled_foot s).link (by decide)).1
  cases on : s.lku.enabled with
  | true =>
    rw [enableLanes_again (enabled.trans on), same] at steady
    exact ⟨steady.link, steady.neighbour, fun _ => ⟨steady.lane1, steady.lane2⟩, nofun⟩
  | false =>
    have lanes := (enableLanes_steady (enabled.trans on) p).trans steady
    rw [same] at lanes
    obtain ⟨link, neighbour⟩ := x.enabling_link
    refine ⟨lanes.link.trans link, lanes.neighbour.trans neighbour, fun stays => ?_, fun _ up h held => ?_⟩
    · have notUp := stays.resolve_left nofun
      rw [Port.enabling_notUp notUp] at lanes
      exact ⟨lanes.lane1, lanes.lane2⟩
    · rw [Port.enabling_up up held] at lanes
      exact ⟨lanes.lane1, lanes.lane2⟩

/-- The extra HELLO of a port whose lanes ARM moves, once ARM has been taken. -/
theorem armedNow_hello {s : State} {p : PortId} {h : Neighbour} (off : s.lku.enabled = false)
    (calm : ∀ q, (s.port q).refreshAt = none) (up : (s.port p).link = .up) (held : (s.port p).neighbour = some h)
    (closed : (s.port p).lane1 = .closed ∨ (s.port p).lane2 = .closed) :
    let x := s.port p
    let y := s.armedNow.port p
    (x.tx ≠ none → .hello ∉ x.linkQueue → x.linkQueue.length < 2 →
      y.linkQueue = x.linkQueue ++ [.hello] ∧ y.tx = x.tx) ∧
    (x.tx = none → x.linkQueue = [] → y.linkQueue = [] ∧ ∃ b, y.tx = some (.hello b)) := by
  intro x y
  have same (q : PortId) : s.armFilled.port q = s.port q := (armedNow_port s q).1
  have enabled : s.armFilled.lku.enabled = s.lku.enabled := ((armFilled_foot s).link (by decide)).1
  obtain ⟨waits, starts⟩ := enableLanes_hello (s := s.armFilled) (p := p) (h := h) (enabled.trans off)
    (fun q => by rw [same]; exact calm q) (by rw [same]; exact up) (by rw [same]; exact held)
    (by rw [same]; exact closed)
  rw [same] at waits starts
  refine ⟨fun busy fresh room => ?_, fun idle empty => ?_⟩
  · obtain ⟨queue, tx⟩ := waits busy fresh room
    obtain ⟨queue', tx'⟩ := sendBeacon_busy (s := enableLanes s.armFilled) (p := p) (by rw [tx]; exact busy)
    exact ⟨queue'.trans queue, tx'.trans tx⟩
  · obtain ⟨queue, b, tx⟩ := starts idle empty
    obtain ⟨queue', tx'⟩ := sendBeacon_busy (s := enableLanes s.armFilled) (p := p) (by rw [tx]; exact nofun)
    exact ⟨queue'.trans queue, b, tx'.trans tx⟩

/-- What the Console Unit and the roster hold once ARM has been taken. -/
theorem armedNow_rst (s : State) : s.armedNow.rst = s.armFilled.rst ∧
    s.armedNow.csu = { s.armFilled.csu with tx := s.armFilled.csu.tx ++ [.reply .ok 4] } := by
  have foot := armLanes_foot s
  refine ⟨foot.rst (by decide), ?_⟩
  rw [State.armedNow, State.replied_csu, foot.csu_eq]
  rfl

/-- Settles O7: the roster by the static entries and the channels in turn, the lanes of each port, and the blocks
that ARM sets or keeps. -/
theorem armTaken : Obligations.ArmTaken := by
  intro s n takes station locked house ahead static onAir clashes
  have foot := armLanes_foot s
  obtain ⟨rst, csu⟩ := armedNow_rst s
  have console := (armFilled_foot s).console (by decide)
  have tlu : s.armedNow.tlu = s.tlu.atArm := (foot.tlu (by decide)).trans ((armFilled_foot s).tlu (by decide))
  obtain ⟨pcu, nextSeq, filter, muted⟩ := sendBeacon_units (enableLanes s.armFilled)
  have lanes := enableLanes_foot s.armFilled
  have dlu : (enableLanes s.armFilled).dlu = { s.dlu with nextSeq := 0 } :=
    lanes.dlu_eq.trans (armFilled_foot s).dlu_eq
  have pcu' : (enableLanes s.armFilled).pcu = s.pcu :=
    (lanes.pcu (by decide)).trans ((armFilled_foot s).pcu (by decide))
  have now : (enableLanes s.armFilled).now = s.now :=
    (lanes.now (by decide)).trans ((armFilled_foot s).now (by decide))
  rw [dlu] at nextSeq filter muted
  rw [pcu', now] at pcu
  refine ⟨s.armedNow, commandRow_answers takes (refuseArm_granted (s := repliesSent (speak s)) station locked house ahead)
    (armEffect_taken s), fun few apart channels => ?_, ?_⟩
  · let v := armBlocks s.taken
    have made := fillRoster_clashes (s := v) few apart channels
    have clash : v.onAirChannels.filterMap (fun p => (v.staticOf p.2.track).map (clashWith v.ownId p.2.track)) =
        clashes :=
      congrArg (fun f => onAir.filterMap f) (funext fun p =>
        congrArg (fun f => (static p.2.track).map f) (funext fun x => by cases x <;> rfl))
    rw [clash] at made
    have raised : s.armedNow.csu.attnRaised = (v.csu.raiseAll .claim (clashes.map fun x => x.2)).attnRaised :=
      (congrArg Csu.attnRaised csu).trans (congrArg Csu.attnRaised made.csu :)
    have pending : s.armedNow.csu.pendingAttn = (v.csu.raiseAll .claim (clashes.map fun x => x.2)).pendingAttn :=
      (congrArg Csu.pendingAttn csu).trans (congrArg Csu.pendingAttn made.csu :)
    refine ⟨fun track => ?_, (congrArg Rst.counts rst).trans made.counts, fun full => ?_, fun full => ?_⟩
    · rw [rst]
      refine (fillRoster_entries (s := v) few apart channels track).trans ?_
      show ((static track).map fun x => (staticEntry x).claim).or
        ((onAir.find? fun p => p.2.track == track).map fun p => .localTrack p.2.group) = _
      cases static track with
      | none => rfl
      | some x => rfl
    · rw [raised]
      exact (Csu.raiseAll_raised .claim _ v.csu full).trans (congrArg _ (List.length_map _))
    · rw [pending]
      exact (Csu.raiseAll_pending .claim _ v.csu full).trans (congrArg _ List.head?_map)
  · refine ⟨congrArg Tlu.station tlu, (congrArg Tlu.incarnation tlu).trans house, congrArg Tlu.epoch tlu,
      congrArg Tlu.droppedBase tlu, congrArg Tlu.curIndex tlu, congrArg Tlu.high tlu, congrArg Tlu.last tlu,
      congrArg Tlu.conflicts tlu, congrArg Tlu.endTimer tlu, (congrArg Tlu.ref tlu).trans locked,
      (congrArg Tlu.run tlu :), (congrArg Tlu.houseCount tlu).trans house, (congrArg Tlu.lossTimer tlu :),
      (congrArg Tlu.counts tlu :), ?_, ?_, ?_, ?_, ?_, fun p => ?_, ?_, ?_, ?_, ?_, nextSeq, ?_⟩
    · rw [csu, console]
      rfl
    · rw [csu, console]
      rfl
    · rw [csu, console]
      rfl
    · exact ((sendBeacon_foot _).link (by decide)).1.trans (enableLanes_enabled _)
    · exact ((sendBeacon_foot _).link (by decide)).2.1.trans ((enableLanes_digest _).trans
        ((armFilled_foot s).link (by decide)).2.1)
    · intro x y
      obtain ⟨link, neighbour, stays, moves⟩ := armedNow_lanes s p
      refine ⟨link, neighbour, stays, fun off up h held => ?_⟩
      obtain ⟨lane1, lane2⟩ := moves off up h held
      exact ⟨lane1.trans (LaneState.enabling_eq _ _ _), lane2.trans (LaneState.enabling_eq _ _ _),
        fun closed calm => armedNow_hello off calm up held closed⟩
    · exact (foot.ksp (by decide)).trans ((armFilled_foot s).ksp (by decide))
    · exact (foot.sgc (by decide)).trans ((armFilled_foot s).sgc (by decide))
    · exact (foot.aou (by decide)).trans ((armFilled_foot s).aou (by decide))
    · exact congrArg Pcu.beaconAt pcu
    · exact ⟨(congrArg Pcu.cues pcu :), (congrArg Pcu.clock pcu :), (congrArg Pcu.peers pcu :), filter, muted,
        (foot.kou (by decide)).trans ((armFilled_foot s).kou (by decide)),
        (foot.cfr (by decide)).trans ((armFilled_foot s).cfr (by decide))⟩

end Sys2Proof.Machine
end
